-- ==== Sys2Proof/Word.lean ====
section
/-! DEFINITION. The byte the Scene Link carries, and the numbers by which the manual names the items of
each kind (spec/00_scope.md, Names: "numbered from 0"). -/

namespace Sys2Proof

/-- One byte of a link frame, a transfer body, a table record or an answer (Chapter 11). -/
abbrev Byte := BitVec 8

/-- Lamp channels 0 to 47 (R40). -/
abbrev ChannelId := Fin 48
/-- Group masters 0 to 7 (R50). -/
abbrev GroupId := Fin 8
/-- PWM lamp pins 0 to 15 (R40, Table 11-8). -/
abbrev PinId := Fin 16
/-- Curves 0 to 7 (R42). -/
abbrev CurveId := Fin 8
/-- Scene lines 0 to 7 (R147). -/
abbrev LineId := Fin 8
/-- General flags 0 to 31 (R21). -/
abbrev FlagId := Fin 32
/-- List players 0 to 3 (R31). -/
abbrev PlayerId := Fin 4
/-- Alarms 0 to 31 (R28). -/
abbrev AlarmId := Fin 32
/-- Trains, and cabs, 0 to 3 (R83). -/
abbrev TrainId := Fin 4
/-- Track sections 0 to 15 (R59). -/
abbrev SectionId := Fin 16
/-- Points 0 to 7 (R64). -/
abbrev PointId := Fin 8
/-- Stepper axes 0 to 5 (R103). -/
abbrev AxisId := Fin 6
/-- Inputs 0 to 63 of the expansion chain (R131). -/
abbrev InputId := Fin 64
/-- Outputs 0 to 127 of the expansion chain (R125). -/
abbrev OutputId := Fin 128
/-- Watches 0 to 15 (R134). -/
abbrev WatchId := Fin 16

end Sys2Proof
end

