-- ==== Sys2Proof/Config.lean ====
section
/-! DEFINITION. What an implementation of the Aghrel 2440 decides and the manual leaves open. -/

namespace Sys2Proof

/-- FREE VALUE (log entry 1). The manual says in many places that two or more blocks take one event "in any
order" (R144, R142, R133, R170, R172, R173, R118, R107 ...). Each such choice is a number the model draws; when the
state's own list of choices is used up, the n-th draw is this number. It has no body: nothing can be proved
about its value, so a claim holds for every order. -/
opaque Config.freeChoice : Nat → Nat

end Sys2Proof
end

