-- ==== Sys2Proof/Syntax.lean ====
section
/-! DEFINITION. The commands of the block: one constructor for every row of spec/opcode_table.json. -/

namespace Sys2Proof

/-- How a transfer was opened: to the node's own address, or to broadcast (R152). -/
inductive Opened where
  | own
  | broadcast
deriving DecidableEq, Repr

/-- One constructor per row of spec/opcode_table.json. A transfer's fields are those of Table 11-3; the bytes
of a frame are those of Tables 11-1 and 11-2, as far as they arrived. -/
inductive Instr where
  /-- POWER_ON_RESET (R175). -/
  | powerOnReset
  /-- PIN_RESET (R175). -/
  | pinReset
  /-- FRAME_PERIOD (R138): a frame period begins. -/
  | framePeriod
  /-- DOWNSTREAM_FRAME (R139): the bytes of a downstream frame that arrived, fewer than six if it stopped. -/
  | downstreamFrame (bytes : List Byte)
  /-- RETURN_FRAME (R149): the bytes of a return frame that arrived from downstream. -/
  | returnFrame (bytes : List Byte)
  /-- ANSWER_SENT (R164): the CLOSE of the node's answer has been sent. -/
  | answerSent
  /-- FALLBACK_STEP (R144). -/
  | fallbackStep
  /-- LINK_LOST (R146). -/
  | linkLost
  /-- CUE_TAKE (R6). -/
  | cueTake
  /-- WRITE_TABLE (R156): the commit of a WRITE TABLE transfer. -/
  | writeTable (via : Opened) (table : Byte) (first : BitVec 16) (count : Byte) (records : List Byte)
  /-- READ_TABLE (R158). -/
  | readTable (via : Opened) (table : Byte) (first : BitVec 16) (count : Byte)
  /-- READ_STATE (R159). -/
  | readState (via : Opened) (view : Byte) (index : Byte)
  /-- SET_CLOCK (R160). -/
  | setClock (via : Opened) (ms : BitVec 32) (day : BitVec 16) (rate : BitVec 16) (runHold : Byte)
  /-- CUE_TRANSFER (R160). -/
  | cueTransfer (via : Opened) (code : Byte)
  /-- EXECUTE (R161): the action records, four bytes each. -/
  | execute (via : Opened) (records : List Byte)
  /-- NOTICES (R167). -/
  | notices (via : Opened) (master : Byte) (enables : BitVec 16) (clear : BitVec 16)
  /-- DORMANT_TRANSFER (R162). -/
  | dormantTransfer (via : Opened)
  /-- WAKE_TRANSFER (R162). -/
  | wakeTransfer (via : Opened)
  /-- ALL_STOP_TRANSFER (R162). -/
  | allStopTransfer (via : Opened)
  /-- SOFT_RESET (R174). -/
  | softReset (via : Opened)
  /-- DORMANT_COMPLETE (R171). -/
  | dormantComplete
  /-- PENDING_SET_APPLY (R27). -/
  | pendingSetApply
  /-- LIST_ENTRY_FIRE (R35), of one player. -/
  | listEntryFire (player : PlayerId)
  /-- CUE_FADE_END (R47), of one channel. -/
  | cueFadeEnd (channel : ChannelId)
  /-- MASTER_FADE_END (R50), of one group. -/
  | masterFadeEnd (group : GroupId)
  /-- FLAG_PULSE_END (R21), of one flag. -/
  | flagPulseEnd (flag : FlagId)
  /-- COIL_END (R67), of one point. -/
  | coilEnd (point : PointId)
  /-- THROW_COMPLETE (R67), of one point. -/
  | throwComplete (point : PointId)
  /-- CHAIN_CYCLE_COMPLETE (R129): the eight bits seen at CHAIN RETURN during the last eight shifts, and the
  inputs the input registers captured at the cycle's start, input k at bit k. -/
  | chainCycleComplete (ret : Byte) (inputs : BitVec 64)
  /-- WATCH_HOLDOFF_END (R135), of one watch. -/
  | watchHoldoffEnd (watch : WatchId)
  /-- BRAKE_DELAY_END (R89), of one train. -/
  | brakeDelayEnd (train : TrainId)
  /-- ARRIVAL_TIMEOUT (R89), of one train. -/
  | arrivalTimeout (train : TrainId)
  /-- HOLD_TIMER_END (R115), of one axis. -/
  | holdTimerEnd (axis : AxisId)
  /-- HOME_LIMIT (R116), of one axis. -/
  | homeLimit (axis : AxisId)
deriving DecidableEq, Repr

end Sys2Proof
end

