-- ==== Sys2Proof/WellFormed.lean ====
section
/-! DEFINITION. Which commands the link and the chain can send: the length limits of Chapters 9 and 11. -/

namespace Sys2Proof

/-- A command the node's ports can bring. A downstream frame is six bytes and an upstream frame three
(section 11.1), or fewer if the frame stopped; a transfer body is at most 254 bytes (R152, the note under R156), so
a WRITE TABLE carries at most 249 record bytes, and an EXECUTE at most 253 bytes after its kind. -/
def Instr.wellFormed : Instr → Bool
  | .downstreamFrame bytes => decide (bytes.length ≤ 6)
  | .returnFrame bytes => decide (bytes.length ≤ 3)
  | .writeTable _ _ _ _ records => decide (records.length ≤ 249)
  | .execute _ records => decide (records.length ≤ 253)
  | .powerOnReset | .pinReset | .framePeriod | .answerSent | .fallbackStep | .linkLost | .cueTake
  | .readTable _ _ _ _ | .readState _ _ _ | .setClock _ _ _ _ _ | .cueTransfer _ _ | .notices _ _ _ _
  | .dormantTransfer _ | .wakeTransfer _ | .allStopTransfer _ | .softReset _ | .dormantComplete | .pendingSetApply
  | .listEntryFire _ | .cueFadeEnd _ | .masterFadeEnd _ | .flagPulseEnd _ | .coilEnd _ | .throwComplete _
  | .chainCycleComplete _ _ | .watchHoldoffEnd _ | .brakeDelayEnd _ | .arrivalTimeout _ | .holdTimerEnd _
  | .homeLimit _ => true

end Sys2Proof
end

