-- ==== Sys2Proof/Decode.lean ====
section
/-! DEFINITION. The command a word of spec/opcode_table.json spells. -/

namespace Sys2Proof

/-- No row of spec/opcode_table.json gives bits (spec/98_reader.md counts 0 rows with fixed bits), so no word
spells a command. The byte layouts of frames, transfers and records (Chapter 11) are decoded in
Machine/Operands.lean, Machine/Link.lean and Machine/Tables.lean. -/
def decodeTableWord (_nbits _w : Nat) : Option Instr := none

end Sys2Proof
end

