-- ==== Sys2Proof/Machine/State.lean ====
section
/-! DEFINITION. Everything the manual gives one Scene Node to hold, as plain data: the record types of the sixteen
tables, the runtime state of the twelve blocks (Table 0-1), and the values after power-on reset. -/

namespace Sys2Proof.Machine

/-! ## Table records (Chapter 11, Table 11-4, and the owning chapters) -/

/-- The dormant clock policy of table 0 (R170). -/
inductive Policy where
  | keep
  | hold
deriving DecidableEq, Repr

/-- Table 0, node settings (R157). -/
structure NodeSettings where
  timeout : Nat
  outRegs : Nat
  inRegs : Nat
  policy : Policy
deriving DecidableEq, Repr

/-- Table 1, cue map (R4). -/
structure CueMapRec where
  first : Nat
  count : Nat
deriving DecidableEq, Repr

/-- Table 2, action pool, and the records of an EXECUTE (R178): the kind number and three parameter bytes. -/
structure ActionRec where
  kind : Nat
  p1 : Nat
  p2 : Nat
  p3 : Nat
deriving DecidableEq, Repr

/-- The mode of a list (R31). -/
inductive ListMode where
  | once
  | loop
  | restart
deriving DecidableEq, Repr

/-- Table 3, list directory (R31). -/
structure ListDirRec where
  start : Nat
  mode : ListMode
  endCue : Nat
deriving DecidableEq, Repr

/-- Table 4, list memory (R32). The delay and code bytes of an END are stored and not read (R177). -/
structure ListEntry where
  isEnd : Bool
  delay : Nat
  code : Nat
deriving DecidableEq, Repr

/-- Table 5, alarms (R28). -/
structure AlarmRec where
  inUse : Bool
  second : Nat
  code : Nat
  wake : Bool
deriving DecidableEq, Repr

/-- One point of a curve (R42). -/
structure CurvePoint where
  minute : Nat
  level : Nat
deriving DecidableEq, Repr

/-- Table 6, curves (R42). -/
structure CurveRec where
  count : Nat
  points : Vector CurvePoint 16
deriving DecidableEq, Repr

/-- Where a lamp channel's level goes (R40). -/
inductive Drive where
  | pin (p : PinId)
  | chain
deriving DecidableEq, Repr

/-- How scene value and cue value are mixed (R49). -/
inductive LampMode where
  | follow
  | cue
  | highest
  | lowest
deriving DecidableEq, Repr

/-- Table 7, lamp channels (R40). -/
structure LampRec where
  inUse : Bool
  drive : Drive
  curve : Option CurveId
  group : GroupId
  mode : LampMode
  lo : Nat
  hi : Nat
  dormant : Nat
  flashLine : Option LineId
  flashLevel : Nat
  threshold : Nat
deriving DecidableEq, Repr

/-- Table 8, sections (R59). A branch or from byte is held as stored, FFh meaning none, because the bytes of an
absent point are stored and not read (R177). -/
structure SectionRec where
  inUse : Bool
  exitPoint : Option PointId
  nextNormal : Nat
  nextReverse : Nat
  entryPoint : Option PointId
  fromNormal : Nat
  fromReverse : Nat
  guardAxis : Option AxisId
  guardPos : Nat
  brakeDelay : Nat
  entryCue : Nat
  releaseCue : Nat
deriving DecidableEq, Repr

/-- A sense of travel (R83, R103). -/
inductive Dir where
  | forward
  | reverse
deriving DecidableEq, Repr

/-- Table 9, trains (R83). Slots beyond the length are stored and not read. -/
structure TrainRec where
  inUse : Bool
  dir : Dir
  cruise : Nat
  accel : Nat
  brake : Nat
  emergency : Nat
  minDuty : Nat
  timeout : Nat
  length : Nat
  route : Vector Nat 32
deriving DecidableEq, Repr

/-- Table 10, points (R64). -/
structure PointRec where
  inUse : Bool
  pulse : Nat
  throw : Nat
deriving DecidableEq, Repr

/-- Turning without end, or travel between two ends (R103). -/
inductive AxisKind where
  | rotary
  | linear
deriving DecidableEq, Repr

/-- How a rotary axis chooses its direction (R108). The policy byte of a LINEAR record is stored and not read; one that names
no policy is `unread` (R103, R177). -/
inductive AxisPolicy where
  | forward
  | shortest
  | unread (code : Nat)
deriving DecidableEq, Repr

/-- The period of model time that one turn represents (R117). The dial byte of a LINEAR record is stored and not read; one
that names no dial is `unread` (R103, R177). -/
inductive Dial where
  | none
  | second
  | minute
  | hour12
  | day
  | unread (code : Nat)
deriving DecidableEq, Repr

/-- Table 11, axes (R103). -/
structure AxisRec where
  inUse : Bool
  kind : AxisKind
  steps : Nat
  vs : Nat
  vmax : Nat
  accel : Nat
  homeDir : Dir
  homeLimit : Nat
  holdSteps : Nat
  park : Nat
  policy : AxisPolicy
  dial : Dial
  offset : Nat
deriving DecidableEq, Repr

/-- The sources of the output map (Table 7-1). -/
inductive OutSource where
  | zero
  | one
  | lamp
  | flag
  | line
  | feed
  | cabbit
  | signal
  | coil
  | running
  | inpos
  | dormant
deriving DecidableEq, Repr

/-- Table 12, output map (R125). -/
structure OutEntry where
  source : OutSource
  index : Nat
  variant : Nat
  invert : Bool
deriving DecidableEq, Repr

/-- The roles of the input map (R131). -/
inductive InRole where
  | none
  | detector
  | home
  | cabfault
  | axfault
deriving DecidableEq, Repr

/-- Table 13, input map (R131). -/
structure InEntry where
  role : InRole
  target : Nat
  debounce : Nat
  invert : Bool
deriving DecidableEq, Repr

/-- Table 14, watches (R134). -/
structure WatchRec where
  inUse : Bool
  mask : BitVec 64
  pattern : BitVec 64
  code : Nat
  holdOff : Nat
  wake : Bool
deriving DecidableEq, Repr

/-- The sixteen tables of the Table Store (Table 0-1, Table 11-4). -/
structure Tables where
  node : NodeSettings
  cueMap : Vector CueMapRec 256
  pool : Vector ActionRec 512
  listDir : Vector ListDirRec 4
  listMem : Vector ListEntry 512
  alarms : Vector AlarmRec 32
  curves : Vector CurveRec 8
  lamps : Vector LampRec 48
  sections : Vector SectionRec 16
  trains : Vector TrainRec 4
  points : Vector PointRec 8
  axes : Vector AxisRec 6
  outMap : Vector OutEntry 128
  inMap : Vector InEntry 64
  watches : Vector WatchRec 16
  wakeSet : BitVec 256
deriving DecidableEq, Repr

/-! ## Cues, results, notices -/

/-- The source of a cue (R1). -/
inductive Source where
  | link
  | request
  | input
  | list
  | alarm
  | sectionCue
  | action
deriving DecidableEq, Repr

/-- A cue: a code, 1 to 255, and its source (R1). -/
structure Cue where
  code : Nat
  source : Source
deriving DecidableEq, Repr

/-- Why an action is refused (Table 1-2, in the order of R179). -/
inductive Reason where
  | dormant
  | interlock
  | notHomed
  | state
  | range
deriving DecidableEq, Repr

/-- The outcome of a transfer (Table 9-2, in the order of R179). -/
inductive Result where
  | ok
  | interrupted
  | tooLong
  | damaged
  | link
  | badLength
  | badCheck
  | badKind
  | badTable
  | range
  | locked
  | badRecord
  | state
deriving DecidableEq, Repr

/-- Why a train is halted (R85). -/
inductive HaltReason where
  | overrun
  | overload
  | lost
  | length
  | chain
  | link
  | allstop
  | guard
deriving DecidableEq, Repr

/-- Why an axis is in FAULT (R105). -/
inductive AxisFault where
  | home
  | chain
  | drive
deriving DecidableEq, Repr

/-- The source of a wake, with its own number (R172). -/
inductive WakeSource where
  | cue (code : Nat)
  | action (code : Nat)
  | transfer
  | alarm (index : AlarmId)
  | watch (index : WatchId)
deriving DecidableEq, Repr

/-- The thirteen notice kinds (Table 9-3). -/
inductive NoticeKind where
  | link
  | damaged
  | cueOverrun
  | replyOverrun
  | refused
  | trainHalt
  | stray
  | axisFault
  | chain
  | listEnd
  | collision
  | wake
  | bcastReject
deriving DecidableEq, Repr

/-- The detail a latch records (Table 9-3). -/
inductive Detail where
  /-- LINK: LOCKED, or LOST. -/
  | link (lost : Bool)
  /-- DAMAGED: DOWNSTREAM, or RETURN. -/
  | lane (isReturn : Bool)
  /-- CUE_OVERRUN: the dropped cue. -/
  | cue (code : Nat) (source : Source)
  /-- REPLY_OVERRUN and BCAST_REJECT: the echoed kind and the result. -/
  | result (kind : Byte) (result : Result)
  /-- REFUSED: the cue code, the position in the list and the reason. -/
  | refused (code : Nat) (position : Nat) (reason : Reason)
  /-- TRAIN_HALT. -/
  | halt (train : TrainId) (reason : HaltReason)
  /-- STRAY. -/
  | sectionAt (section_ : SectionId)
  /-- AXIS_FAULT. -/
  | axis (axis : AxisId) (reason : AxisFault)
  /-- CHAIN: OK, or FAULT. -/
  | chain (isFault : Bool)
  /-- LIST_END. -/
  | player (player : PlayerId)
  /-- COLLISION: the symbol type, and the address for an OPEN. -/
  | symbol (type : Byte) (address : Byte)
  /-- WAKE. -/
  | wake (source : WakeSource)
deriving DecidableEq, Repr

/-- A notice latch (R165). -/
inductive Latch where
  | clear
  | set (detail : Detail)
  | reporting (detail : Detail) (later : Option Detail)
deriving DecidableEq, Repr

/-- The notice latches and their enables (R165); bit k of `enables` is the kind at position k of Table 9-3. -/
structure Notices where
  latches : Vector Latch 13
  master : Bool
  enables : BitVec 13
deriving DecidableEq, Repr

/-! ## Runtime state of the blocks -/

/-- A reply (R155). -/
structure Reply where
  kind : Byte
  result : Result
  data : List Byte
deriving DecidableEq, Repr

/-- The Transfer Unit (R152, R163). -/
structure Transfer where
  opened : Option Opened
  buf : List Byte
  replies : List Reply
  lent : Bool
deriving DecidableEq, Repr

/-- Node state (R168). -/
inductive NodeState where
  | active
  | quiescing
  | dormant
deriving DecidableEq, Repr

/-- Link state (Table 8-1). -/
inductive LinkState where
  | searching
  | locked
  | lost
deriving DecidableEq, Repr

/-- A symbol of the return lane (Table 11-2): type and value. -/
structure RetSymbol where
  type : Byte
  value : Byte
deriving DecidableEq, Repr

/-- Which answer is being sent (R164). -/
inductive AnswerKind where
  | reply
  | notice
  | empty
deriving DecidableEq, Repr

/-- The talk state while the node talks (R150): the answer's kind and the symbols still to be put on the lane. -/
structure Talk where
  answer : AnswerKind
  rest : List RetSymbol
deriving DecidableEq, Repr

/-- The Link Port (R138 to R151). `downOut` and `retOut` are the frames the two ports send in this frame period;
`retOwn` says that the return frame of this period is not taken from downstream (log entry 12). `timeout` is the link-loss timeout
as read from table 0 at this frame period (R146). -/
structure Link where
  state : LinkState
  address : Nat
  lines : BitVec 8
  damaged : Nat
  stepGap : Nat
  markGap : Nat
  lockRun : Nat
  timeout : Nat
  talk : Option Talk
  downOut : Option (List Byte)
  retOut : Option (List Byte)
  retOwn : Bool
deriving DecidableEq, Repr

/-- A general flag with its pulse count (R21). -/
structure Flag where
  on : Bool
  pulse : Option Nat
deriving DecidableEq, Repr

/-- The Cue Engine (R1, R21). `takes` counts the takes of this frame period (R6). -/
structure CueEngine where
  queue : List Cue
  takes : Nat
  flags : Vector Flag 32
deriving DecidableEq, Repr

/-- Run state of the Model Clock (R22). -/
inductive RunState where
  | running
  | held
deriving DecidableEq, Repr

/-- What a SET CLOCK carries beside the time (R26). -/
structure ClockSetting where
  day : Nat
  rate : Nat
  run : RunState
deriving DecidableEq, Repr

/-- The pending set (R26): the time, and the other three values where it came from a SET CLOCK. -/
structure PendingSet where
  time : Nat
  setting : Option ClockSetting
deriving DecidableEq, Repr

/-- The Model Clock (R22). -/
structure Clock where
  time : Nat
  day : Nat
  rate : Nat
  run : RunState
  dormantHold : Bool
  pendingSet : Option PendingSet
deriving DecidableEq, Repr

/-- Player state (R33). -/
inductive PlayerState where
  | stopped
  | playing
  | paused
deriving DecidableEq, Repr

/-- A list player (R33). -/
structure Player where
  state : PlayerState
  index : Nat
  countdown : Nat
deriving DecidableEq, Repr

/-- A running fade (R46): from-level, to-level, length and elapsed count. -/
structure Fade where
  from_ : Nat
  to_ : Nat
  len : Nat
  elapsed : Nat
deriving DecidableEq, Repr

/-- A level with an optional fade: an active cue layer (R46), or a group master (R50). -/
structure Level where
  value : Nat
  fade : Option Fade
deriving DecidableEq, Repr

/-- A lamp channel's runtime state: its cue layer while active, output level and on/off state (R46, R53, R56). -/
structure Channel where
  layer : Option Level
  out : Nat
  on : Bool
deriving DecidableEq, Repr

/-- The Lamp Unit (R58). -/
structure LampUnit where
  chans : Vector Channel 48
  masters : Vector Level 8
  pins : Vector Nat 16
deriving DecidableEq, Repr

/-- The phase of a reservation (R62). -/
inductive Phase where
  | setting
  | set
deriving DecidableEq, Repr

/-- The state of a section, with owner, phase and kept step where R62 gives them. -/
inductive SecState where
  | free
  | reserved (owner : TrainId) (phase : Phase) (kept : SectionId)
  | held (owner : TrainId) (kept : Option SectionId)
  | blocked
deriving DecidableEq, Repr

/-- A section's runtime state (R62). -/
structure Section where
  state : SecState
  occ : Bool
  queue : List TrainId
deriving DecidableEq, Repr

/-- A point's position (R65); UNKNOWN is the absence of one. -/
inductive PointPos where
  | normal
  | reverse
deriving DecidableEq, Repr

/-- A throw in progress (R65). -/
structure Throw where
  target : PointPos
  throwCount : Nat
  coilCount : Nat
deriving DecidableEq, Repr

/-- A point's runtime state (R65): IDLE while `motion` is absent. -/
structure Point where
  position : Option PointPos
  motion : Option Throw
  slot : Option PointPos
deriving DecidableEq, Repr

/-- Train state (R85). -/
inductive TrainState where
  | parked
  | stopped
  | waiting
  | running
  | approach
  | stopping
  | halted (reason : HaltReason)
deriving DecidableEq, Repr

/-- A train's runtime state (R85), its cab's duty (R88) and overload value (R100). -/
structure Train where
  state : TrainState
  headIndex : Nat
  hold : List SectionId
  res : Option (SectionId × Phase)
  queued : Option SectionId
  retry : Bool
  speed : Nat
  target : Nat
  cruise : Nat
  arrival : Option Nat
  brakeDelay : Option Nat
  duty : Nat
  overload : Bool
deriving DecidableEq, Repr

/-- Axis state (R105). -/
inductive AxisState where
  | idle
  | holding
  | homing
  | seeking
  | running
  | stopping
  | following
  | fault (reason : AxisFault)
deriving DecidableEq, Repr

/-- Home phase (R105). -/
inductive HomePhase where
  | leave
  | find
deriving DecidableEq, Repr

/-- An axis's runtime state (R105). `dial` is the dial target of the last scene step (R117), `homeIn` and `faultIn` the
inputs as last handed (R116, R118), `pulses` the pulses that the step line has given in the present frame period and
`lastPulses` those of the period before it (R106, R181; log entry 31). -/
structure Axis where
  state : AxisState
  pos : Nat
  known : Bool
  dir : Dir
  v : Nat
  acc : Nat
  target : Option Nat
  runSpeed : Option Nat
  turn : Option Dir
  stopPt : Option Nat
  homePhase : Option HomePhase
  homeCount : Nat
  holdTimer : Option Nat
  arrived : Bool
  follow : Bool
  dial : Option Nat
  homeIn : Bool
  faultIn : Bool
  pulses : Nat
  lastPulses : Nat
deriving DecidableEq, Repr

/-- Chain state (R130). -/
inductive ChainState where
  | off
  | ok
  | fault
deriving DecidableEq, Repr

/-- One chain input (R132). -/
structure Input where
  raw : Bool
  deb : Bool
  count : Nat
deriving DecidableEq, Repr

/-- A watch's runtime values (R135). -/
structure Watch where
  isMatch : Bool
  holdOff : Nat
deriving DecidableEq, Repr

/-- A chain cycle in flight, with the lengths in registers read at its start (R124, R127). -/
structure Cycle where
  outRegs : Nat
  inRegs : Nat
deriving DecidableEq, Repr

/-- The Chain Unit (R127 to R135). `latched` is what the window's output registers hold (R129; log entry 10). -/
structure Chain where
  image : BitVec 128
  latched : BitVec 128
  inputs : Vector Input 64
  state : ChainState
  breaks : Nat
  goods : Nat
  watches : Vector Watch 16
  inFlight : Option Cycle
  dormSteps : Nat
  strobe : Bool
  load : Bool
deriving DecidableEq, Repr

/-- A request that one block has made of another and that the other takes as its own event (R170, R172, R173, R130,
R146): see log entry 6. -/
inductive Req where
  | restClock (hold : Bool)
  | restLists
  | restTrains
  | restAxes (hold : Bool)
  | wakeClock
  | wakeLists
  | wakeAxes
  | stopTrains
  | stopAxes
  | faultTrains
  | faultAxes
  | linkTrains
  | linkAxes
deriving DecidableEq, Repr

/-- The whole node. `pending` is the queue of commands waiting. `choices`, `drawn`, `owed`, `axisDue` and
`checkDue` are the model's own fields (log entries 1, 6, 7 and 27). -/
structure State where
  pending : List Instr
  choices : List Nat
  drawn : Nat
  owed : List Req
  axisDue : Bool
  checkDue : Bool
  tables : Tables
  link : Link
  xfer : Transfer
  notices : Notices
  cue : CueEngine
  clock : Clock
  players : Vector Player 4
  lamp : LampUnit
  secs : Vector Section 16
  pts : Vector Point 8
  trains : Vector Train 4
  axes : Vector Axis 6
  chain : Chain
  node : NodeState
  pinsLow : Bool
deriving DecidableEq, Repr

/-- Why a step could stop. The manual lets no command stop the node (INVENTORY.md, Faults), so nothing raises a
fault and the type has no constructor: safe. -/
inductive Fault where
deriving DecidableEq, Repr

/-- Why a command could be refused. -/
inductive Refusal where
  /-- Raised by exec alone, for a row of the opcode table that has no meaning yet: safe. No row is so left. -/
  | notModelled (mnemonic : String)
deriving DecidableEq, Repr

/-! ## Values after power-on reset (R175 and each chapter) -/

/-- The tables after power-on reset. -/
def Tables.reset : Tables where
  node := ⟨20, 0, 0, .keep⟩
  cueMap := .replicate 256 ⟨0, 0⟩
  pool := .replicate 512 ⟨0, 0, 0, 0⟩
  listDir := .replicate 4 ⟨0, .once, 0⟩
  listMem := .replicate 512 ⟨true, 0, 0⟩
  alarms := .replicate 32 ⟨false, 0, 0, false⟩
  curves := .replicate 8 ⟨0, .replicate 16 ⟨0, 0⟩⟩
  lamps := .replicate 48 ⟨false, .chain, none, 0, .follow, 0, 255, 0, none, 0, 128⟩
  sections := .replicate 16 ⟨false, none, 0, 0, none, 0, 0, none, 0, 0, 0, 0⟩
  trains := .replicate 4 ⟨false, .forward, 100, 2, 4, 32, 0, 0, 0, .replicate 32 0⟩
  points := .replicate 8 ⟨false, 5, 25⟩
  axes := .replicate 6 ⟨false, .rotary, 200, 50, 400, 20, .reverse, 400, 50, 0, .forward, .none, 0⟩
  outMap := .replicate 128 ⟨.zero, 0, 0, false⟩
  inMap := .replicate 64 ⟨.none, 0, 0, false⟩
  watches := .replicate 16 ⟨false, 0, 0, 0, 0, false⟩
  wakeSet := 0

/-- The Model Clock after any reset (R22). -/
def Clock.reset : Clock := ⟨0, 0, 0, .held, false, none⟩

/-- A train after a reset, with the cruise of its record (R85). -/
def Train.reset (cruise : Nat) : Train :=
  ⟨.parked, 0, [], none, none, false, 0, 0, cruise, none, none, 0, false⟩

/-- An axis after any reset (R105, R116, R118). -/
def Axis.reset : Axis :=
  ⟨.idle, 0, false, .forward, 0, 0, none, none, none, none, none, 0, none, false, false, none, false, false, 0, 0⟩

/-- The Lamp Unit after any reset (R58). -/
def LampUnit.reset : LampUnit :=
  ⟨.replicate 48 ⟨none, 0, false⟩, .replicate 8 ⟨255, none⟩, .replicate 16 0⟩

/-- The machine right after power-on reset (R175, Table 10-2). The unused watches' match states are those of an all-off
mask, which always matches (R134, R135). The model's own fields: no choice is laid down, so every order drawn
is the opaque Config.freeChoice (log entries 1 and 2). -/
def State.reset : State where
  pending := []
  choices := []
  drawn := 0
  owed := []
  axisDue := false
  checkDue := false
  tables := Tables.reset
  link := ⟨.searching, 0, 0, 0, 0, 255, 0, 20, none, none, none, false⟩
  xfer := ⟨none, [], [], false⟩
  notices := ⟨.replicate 13 .clear, true, BitVec.allOnes 13⟩
  cue := ⟨[], 0, .replicate 32 ⟨false, none⟩⟩
  clock := Clock.reset
  players := .replicate 4 ⟨.stopped, 0, 0⟩
  lamp := LampUnit.reset
  secs := .replicate 16 ⟨.free, false, []⟩
  pts := .replicate 8 ⟨none, none, none⟩
  trains := .replicate 4 (Train.reset 100)
  axes := .replicate 6 Axis.reset
  chain := ⟨0, 0, .replicate 64 ⟨false, false, 0⟩, .off, 0, 0, .replicate 16 ⟨true, 0⟩, none, 0, false, false⟩
  node := .active
  pinsLow := true

end Sys2Proof.Machine
end

