-- ==== Sys2Proof/Machine/Operands.lean ====
section
/-! DEFINITION. The operand forms of the commands: bytes and numbers (R177), the frame check (R139), the transfer
checks (R154), the action records (R178) and the codes of named values (Table 11-5, R179, R180). -/

namespace Sys2Proof.Machine

/-! ## Fixed vectors and small lists -/

/-- The vector whose i-th item is `f i`. -/
def tab {α : Type} {n : Nat} (f : Fin n → α) : Vector α n := ⟨⟨List.ofFn f⟩, by simp⟩

/-- The numbers 0 to n - 1 in order. -/
def every (n : Nat) : List (Fin n) := List.finRange n

/-- One item replaced where the index lies inside the vector. -/
def setAt {α : Type} {n : Nat} (v : Vector α n) (i : Nat) (x : α) : Vector α n :=
  if h : i < n then v.set i x h else v

/-- `i` as an item number, where it is one. -/
def item (n i : Nat) : Option (Fin n) := if h : i < n then some ⟨i, h⟩ else none

/-- The first `size`-byte pieces of a byte run, `count` of them. -/
def pieces (size : Nat) : Nat → List Byte → List (List Byte)
  | 0, _ => []
  | count + 1, bs => bs.take size :: pieces size count (bs.drop size)

/-! ## Bytes and numbers (R177: high byte first) -/

/-- A number as one byte. -/
def byte (n : Nat) : Byte := BitVec.ofNat 8 n

/-- A number as two bytes, high byte first. -/
def bytes2 (n : Nat) : List Byte := [byte (n / 256), byte n]

/-- A number as four bytes, high byte first. -/
def bytes4 (n : Nat) : List Byte := [byte (n / 16777216), byte (n / 65536), byte (n / 256), byte n]

/-- The number a byte run stands for, high byte first. -/
def num (bs : List Byte) : Nat := bs.foldl (fun a b => a * 256 + b.toNat) 0

/-- A yes/no byte: 2 to 255 is taken as yes (R177). -/
def yes (b : Byte) : Bool := b != 0

/-- A yes/no value as its stored byte. -/
def flagByte (b : Bool) : Byte := if b then 1 else 0

/-- An item-number byte that may be absent: FFh for none, refused when it is neither FFh nor in range (R177). -/
def optItem (n : Nat) (b : Byte) : Option (Option (Fin n)) :=
  if b = 0xFF then some none else (item n b.toNat).map some

/-- An absent item number reads FFh. -/
def optByte {n : Nat} : Option (Fin n) → Byte
  | none => 0xFF
  | some i => byte i.val

/-- A bit run as a number of bytes, bit 8j + i at bit i of byte j (Table 11-4, tables 14 and 15). -/
def bitBytes (count : Nat) (n : Nat) : List Byte :=
  (List.range count).map (fun j => byte (n / 256 ^ j))

/-- The bit run that bytes stand for, bit 8j + i at bit i of byte j. -/
def bitNum : List Byte → Nat
  | [] => 0
  | b :: bs => b.toNat + 256 * bitNum bs

/-! ## The frame check (R139) -/

/-- One bit of the division by x^8 + x^2 + x + 1. -/
def crcBit (c : Byte) : Byte := if c.msb then (c <<< 1) ^^^ 0x07 else c <<< 1

/-- One byte taken into the check. -/
def crcByte (c b : Byte) : Byte :=
  crcBit (crcBit (crcBit (crcBit (crcBit (crcBit (crcBit (crcBit (c ^^^ b))))))))

/-- The frame check over frame bytes in their order of transmission. -/
def crc (bs : List Byte) : Byte := bs.foldl crcByte 0

/-! ## The transfer checks (R154) -/

/-- The two running sums after the bytes, both from 0 and both kept mod 255. -/
def checks (bs : List Byte) : Nat × Nat :=
  bs.foldl (fun ab b => let a := (ab.1 + b.toNat) % 255; (a, (ab.2 + a) % 255)) (0, 0)

/-! ## Codes of named values -/

/-- Position of a notice kind in Table 9-3. -/
def NoticeKind.idx : NoticeKind → Fin 13
  | .link => 0
  | .damaged => 1
  | .cueOverrun => 2
  | .replyOverrun => 3
  | .refused => 4
  | .trainHalt => 5
  | .stray => 6
  | .axisFault => 7
  | .chain => 8
  | .listEnd => 9
  | .collision => 10
  | .wake => 11
  | .bcastReject => 12

/-- Cue sources (R179). -/
def Source.code : Source → Nat
  | .link => 0
  | .request => 1
  | .input => 2
  | .list => 3
  | .alarm => 4
  | .sectionCue => 5
  | .action => 6

/-- Refusal reasons in the reply of an EXECUTE (R179). -/
def Reason.code : Reason → Nat
  | .dormant => 0
  | .interlock => 1
  | .notHomed => 2
  | .state => 3
  | .range => 4

/-- Results (R179). -/
def Result.code : Result → Nat
  | .ok => 0
  | .interrupted => 1
  | .tooLong => 2
  | .damaged => 3
  | .link => 4
  | .badLength => 5
  | .badCheck => 6
  | .badKind => 7
  | .badTable => 8
  | .range => 9
  | .locked => 10
  | .badRecord => 11
  | .state => 12

/-- Halt reasons, in the order of R85 (R179). -/
def HaltReason.code : HaltReason → Nat
  | .overrun => 0
  | .overload => 1
  | .lost => 2
  | .length => 3
  | .chain => 4
  | .link => 5
  | .allstop => 6
  | .guard => 7

/-- Axis fault reasons (R179). -/
def AxisFault.code : AxisFault → Nat
  | .home => 0
  | .chain => 1
  | .drive => 2

/-- A detail as the three detail bytes of a notice entry: the values of Table 9-3's detail column in order, unused
bytes 0 (R179). -/
def Detail.bytes : Detail → List Byte
  | .link l => [flagByte l, 0, 0]
  | .lane r => [flagByte r, 0, 0]
  | .cue c src => [byte c, byte src.code, 0]
  | .result k r => [k, byte r.code, 0]
  | .refused c i r => [byte c, byte i, byte r.code]
  | .halt t r => [byte t.val, byte r.code, 0]
  | .sectionAt n => [byte n.val, 0, 0]
  | .axis a r => [byte a.val, byte r.code, 0]
  | .chain f => [flagByte f, 0, 0]
  | .player p => [byte p.val, 0, 0]
  | .symbol t v => [t, v, 0]
  | .wake (.cue c) => [0, byte c, 0]
  | .wake (.action c) => [1, byte c, 0]
  | .wake .transfer => [2, 0, 0]
  | .wake (.alarm i) => [3, byte i.val, 0]
  | .wake (.watch i) => [4, byte i.val, 0]

/-! ## Action records (R5, R178) -/

/-- The actions of section 1.7, with the parameters Table 1-3 gives. -/
inductive Action where
  | none
  | lampSet (channel : ChannelId) (level units : Nat)
  /-- The channel, or none for 255: every in-use channel. -/
  | lampRelease (channel : Option ChannelId)
  | groupSet (group : GroupId) (level units : Nat)
  | flagSet (flag : FlagId)
  | flagClear (flag : FlagId)
  | flagPulse (flag : FlagId) (steps : Nat)
  | listStart (player : PlayerId)
  | listStop (player : PlayerId)
  | trainPlace (train : TrainId) (index : Nat)
  | trainRun (train : TrainId)
  | trainStop (train : TrainId)
  | trainClear (train : TrainId)
  | trainCruise (train : TrainId) (speed : Nat)
  | pointThrow (point : PointId) (position : PointPos)
  | axisHome (axis : AxisId)
  | axisSeek (axis : AxisId) (position : Nat)
  | axisRun (axis : AxisId) (code : Nat)
  | axisPark (axis : AxisId)
  | axisStop (axis : AxisId)
  | axisFollow (axis : AxisId)
  | clockHold
  | clockResume
  | clockRate (rate : Nat)
  | clockSet (hour minute : Nat)
  | nodeDormant
  | nodeWake
  | allStop
  | cue (code : Nat)
deriving DecidableEq, Repr

/-- The action a record names, or nothing where R5 refuses the record BAD_RECORD. -/
def decodeAction (r : ActionRec) : Option Action :=
  match r.kind with
  | 0 => some .none
  | 1 => (item 48 r.p1).map (.lampSet · r.p2 r.p3)
  | 2 => if r.p1 = 255 then some (.lampRelease .none) else (item 48 r.p1).map (fun c => .lampRelease (some c))
  | 3 => (item 8 r.p1).map (.groupSet · r.p2 r.p3)
  | 4 => (item 32 r.p1).map .flagSet
  | 5 => (item 32 r.p1).map .flagClear
  | 6 => (item 32 r.p1).map (.flagPulse · r.p2)
  | 7 => (item 4 r.p1).map .listStart
  | 8 => (item 4 r.p1).map .listStop
  | 9 => (item 4 r.p1).map (.trainPlace · r.p2)
  | 10 => (item 4 r.p1).map .trainRun
  | 11 => (item 4 r.p1).map .trainStop
  | 12 => (item 4 r.p1).map .trainClear
  | 13 => (item 4 r.p1).map (.trainCruise · r.p2)
  | 14 =>
    match item 8 r.p1, r.p2 with
    | some p, 0 => some (.pointThrow p .normal)
    | some p, 1 => some (.pointThrow p .reverse)
    | _, _ => Option.none
  | 15 => (item 6 r.p1).map .axisHome
  | 16 => (item 6 r.p1).map (.axisSeek · (r.p2 * 256 + r.p3))
  | 17 => (item 6 r.p1).map (.axisRun · r.p2)
  | 18 => (item 6 r.p1).map .axisPark
  | 19 => (item 6 r.p1).map .axisStop
  | 20 => (item 6 r.p1).map .axisFollow
  | 21 => some .clockHold
  | 22 => some .clockResume
  | 23 => some (.clockRate (r.p1 * 256 + r.p2))
  | 24 => some (.clockSet r.p1 r.p2)
  | 25 => some .nodeDormant
  | 26 => some .nodeWake
  | 27 => some .allStop
  | 28 => if r.p1 = 0 then Option.none else some (.cue r.p1)
  | _ => Option.none

/-- The four bytes of an action record. -/
def actionRec (bs : List Byte) : ActionRec :=
  ⟨(bs.getD 0 0).toNat, (bs.getD 1 0).toNat, (bs.getD 2 0).toNat, (bs.getD 3 0).toNat⟩

end Sys2Proof.Machine
end

