-- ==== Sys2Proof/Machine/Flags.lean ====
section
/-! DEFINITION. The flags the block raises: the notice latches (R165 to R167) and the general flags (R21). -/

namespace Sys2Proof.Machine

/-! ## Notice latches -/

/-- What latching does to one latch (R165). -/
def Latch.take (d : Detail) : Latch → Latch
  | .clear => .set d
  | .set d0 => .set d0
  | .reporting d0 none => .reporting d0 (some d)
  | .reporting d0 (some l) => .reporting d0 (some l)

/-- A latch at the report of an answer sent (R166). -/
def Latch.sent : Latch → Latch
  | .reporting _ none => .clear
  | .reporting _ (some l) => .set l
  | l => l

/-- A latch at the report of an answer abandoned (R166). -/
def Latch.abandoned : Latch → Latch
  | .reporting d _ => .set d
  | l => l

/-- A reported latch turns from SET to REPORTING (R166). -/
def Latch.report : Latch → Latch
  | .set d => .reporting d none
  | l => l

/-- SET or REPORTING counts as set (R165). -/
def Latch.isSet : Latch → Bool
  | .clear => false
  | .set _ => true
  | .reporting _ _ => true

/-- The thirteen kinds in the order of Table 9-3. -/
def noticeKinds : List NoticeKind :=
  [.link, .damaged, .cueOverrun, .replyOverrun, .refused, .trainHalt, .stray, .axisFault, .chain, .listEnd,
   .collision, .wake, .bcastReject]

/-- The latch of one kind. -/
def latchOf (s : State) (k : NoticeKind) : Latch := s.notices.latches[k.idx]

/-- A block latches a notice (R165). -/
def latch (k : NoticeKind) (d : Detail) (s : State) : State :=
  { s with notices := { s.notices with latches := s.notices.latches.set k.idx ((latchOf s k).take d) } }

/-- Whether the kind enable at position k is on (R165). -/
def kindEnabled (n : Notices) (k : Fin 13) : Bool := n.enables.getLsbD k.val

/-- Whether a latch enters a report: SET, with its kind enable on (R166). -/
def reportable (n : Notices) (k : Fin 13) : Bool :=
  kindEnabled n k && (match n.latches[k] with | .set _ => true | _ => false)

/-- Every latch changed by the same rule. -/
def mapLatches (f : Fin 13 → Latch → Latch) (n : Notices) : Notices :=
  { n with latches := tab (fun k => f k n.latches[k]) }

/-! ## General flags (R21) -/

/-- Replaces one flag. -/
def setFlag (f : FlagId) (x : Flag) (s : State) : State :=
  { s with cue := { s.cue with flags := s.cue.flags.set f x } }

/-- FLAG PULSE: a steps value of 0 is clamped to 1 (R21). -/
def flagPulse (f : FlagId) (steps : Nat) (s : State) : State := setFlag f ⟨true, some (max steps 1)⟩ s

/-- The end of a pulse: the flag clears and the count is removed (R21). -/
def flagPulseEnds (x : Flag) : Flag :=
  match x.pulse with
  | none => x
  | some n => if n ≤ 1 then ⟨false, none⟩ else x

/-- One scene step of one flag: a pulse count takes one, and at 0 the flag clears (R21). -/
def flagStep (x : Flag) : Flag :=
  match x.pulse with
  | none => x
  | some n => if n ≤ 1 then flagPulseEnds x else ⟨x.on, some (n - 1)⟩

/-- The Cue Engine's work at a scene step (R21). -/
def stepFlags (s : State) : State :=
  { s with cue := { s.cue with flags := tab (fun f => flagStep s.cue.flags[f]) } }

end Sys2Proof.Machine
end

