-- ==== Sys2Proof/Machine/Ops.lean ====
section
/-! DEFINITION. The shared operations over the state: free choices of order, replacing one item of a bank, and appending a
cue. A block has no exception entry: raising a notice is `latch` in Flags.lean. -/

namespace Sys2Proof.Machine

/-! ## Free choices of order (log entry 1) -/

/-- Draws one choice: the next of the state's list, or the opaque Config.freeChoice when the list is used up. -/
def draw (s : State) : Nat × State :=
  match s.choices with
  | c :: rest => (c, { s with choices := rest })
  | [] => (Config.freeChoice s.drawn, { s with drawn := s.drawn + 1 })

/-- The arrangement of a list that a number names: every arrangement has a number, and 0 names the list as written. -/
def permute {α : Type} (c : Nat) : List α → List α
  | [] => []
  | x :: xs =>
    let rest := permute (c / (xs.length + 1)) xs
    let k := c % (xs.length + 1)
    rest.take k ++ x :: rest.drop k

/-- A list in a freely chosen order; nothing is drawn where there is nothing to choose. -/
def arrange {α : Type} (xs : List α) (s : State) : List α × State :=
  if xs.length ≤ 1 then (xs, s)
  else
    let d := draw s
    (permute d.1 xs, d.2)

/-! ## Replacing one item -/

/-- Replaces the runtime state of a section. -/
def setSec (n : SectionId) (x : Section) (s : State) : State := { s with secs := s.secs.set n x }

/-- Replaces the runtime state of a point. -/
def setPt (p : PointId) (x : Point) (s : State) : State := { s with pts := s.pts.set p x }

/-- Replaces the runtime state of a train. -/
def setTrain (t : TrainId) (x : Train) (s : State) : State := { s with trains := s.trains.set t x }

/-- Replaces the runtime state of an axis. -/
def setAxis (a : AxisId) (x : Axis) (s : State) : State := { s with axes := s.axes.set a x }

/-- Replaces the runtime state of a player. -/
def setPlayer (p : PlayerId) (x : Player) (s : State) : State := { s with players := s.players.set p x }

/-- Replaces the runtime state of a lamp channel. -/
def setChan (c : ChannelId) (x : Channel) (s : State) : State :=
  { s with lamp := { s.lamp with chans := s.lamp.chans.set c x } }

/-- Replaces a group master. -/
def setMaster (g : GroupId) (x : Level) (s : State) : State :=
  { s with lamp := { s.lamp with masters := s.lamp.masters.set g x } }

/-- Replaces the runtime values of a watch. -/
def setWatch (w : WatchId) (x : Watch) (s : State) : State :=
  { s with chain := { s.chain with watches := s.chain.watches.set w x } }

/-- Puts one command at the front of the queue of waiting commands. -/
def pushFront (c : Instr) (s : State) : State := { s with pending := c :: s.pending }

/-! ## Cues (R2, R3) -/

/-- The most cues the queue holds (R1). -/
def maxCues : Nat := 32

/-- A cue arrives at the queue: code 0 is no cue (R2); a full queue drops it and CUE_OVERRUN is latched (R3). -/
def appendCue (code : Nat) (source : Source) (s : State) : State :=
  if code = 0 then s
  else if s.cue.queue.length < maxCues then
    { s with cue := { s.cue with queue := s.cue.queue ++ [⟨code, source⟩] } }
  else latch .cueOverrun (.cue code source) s

/-! ## Node Control's requests (log entry 6) -/

/-- Requests handed to the blocks, in a freely chosen order, behind those of an earlier asking (DESIGN CHOICE, log entry 39). -/
def handOn (rs : List Req) (s : State) : State :=
  let a := arrange rs s
  { a.2 with owed := a.2.owed ++ a.1 }

/-- A wake source asks Node Control to wake the node (R172): nothing in ACTIVE; otherwise the node becomes ACTIVE, WAKE is latched
and the clock, the players and the axes are asked to take up the scene. -/
def wake (src : WakeSource) (s : State) : State :=
  match s.node with
  | .active => s
  | .quiescing | .dormant =>
    handOn [.wakeClock, .wakeLists, .wakeAxes] (latch .wake (.wake src) { s with node := .active })

end Sys2Proof.Machine
end

