-- ==== Sys2Proof/Machine/Lamp.lean ====
section
/-! DEFINITION. The Lamp Unit (Chapter 3): fades, the level computation, the drive outputs and the lamp actions. -/

namespace Sys2Proof.Machine

/-! ## Fades (R46, R47, R50) -/

/-- The value of a fade after e steps: F + ((T - F) × e) / N, truncated toward zero (R47). -/
def fadeValue (f : Fade) (e : Nat) : Nat :=
  ((f.from_ : Int) + (((f.to_ : Int) - f.from_) * e).tdiv f.len).toNat

/-- A fade reaching its length: the value becomes T and the fade is removed; a fade not at its last step is left (R47). -/
def fadeEnds (l : Level) : Level :=
  match l.fade with
  | none => l
  | some f => if f.len ≤ f.elapsed + 1 then ⟨f.to_, none⟩ else l

/-- One scene step of a level with its fade (R47, R50). -/
def fadeStep (l : Level) : Level :=
  match l.fade with
  | none => l
  | some f =>
    if f.len ≤ f.elapsed + 1 then fadeEnds l
    else ⟨fadeValue f (f.elapsed + 1), some { f with elapsed := f.elapsed + 1 }⟩

/-- A fade started from the value `cur` toward `level` over 10 × units steps, or the level at once (R46, R50). -/
def startFade (cur level units : Nat) : Level :=
  if units = 0 then ⟨level, none⟩ else ⟨cur, some ⟨cur, level, 10 * units, 0⟩⟩

/-! ## The level computation -/

/-- A scene line as its readers see it: off while the link is not LOCKED (R147). -/
def sceneLine (s : State) (l : LineId) : Bool :=
  match s.link.state with
  | .locked => s.link.lines.getLsbD l.val
  | .searching | .lost => false

/-- The last of the points whose time is not greater than t, with the point after it, where there is one. -/
def pointAt (t : Nat) : List CurvePoint → Option (CurvePoint × Option CurvePoint)
  | [] => none
  | p :: rest =>
    if p.minute * 60 ≤ t then
      match pointAt t rest with
      | some r => some r
      | none => some (p, rest.head?)
    else none

/-- The two points of R45: the last point not after t (or the last of the curve, from the day before) and the point after
it (or the first, of the next day). -/
def pointPair (t : Nat) (ps : List CurvePoint) : Option (CurvePoint × CurvePoint) :=
  match ps.head?, ps.getLast? with
  | some first, some last =>
    match pointAt t ps with
    | some (p, some q) => some (p, q)
    | some (p, none) => some (p, first)
    | none => some (last, first)
  | _, _ => none

/-- The scene value S of a curve at model second t (R44, R45). -/
def curveValue (c : CurveRec) (t : Nat) : Nat :=
  let ps := c.points.toList.take c.count
  match ps with
  | [] => 0
  | [p] => p.level
  | _ =>
    match pointPair t ps with
    | none => 0
    | some (p, q) =>
      let span := (q.minute * 60 + 86400 - p.minute * 60) % 86400
      let elapsed := (t + 86400 - p.minute * 60) % 86400
      ((p.level : Int) + (((q.level : Int) - p.level) * elapsed).tdiv span).toNat

/-- The model second (R22). -/
def modelSecond (s : State) : Nat := s.clock.time / 1000

/-- The scene value of a channel (R44). -/
def sceneValue (s : State) (r : LampRec) : Nat :=
  match r.curve with
  | none => 0
  | some c => curveValue s.tables.curves[c] (modelSecond s)

/-- The mix P (R49). -/
def mix (mode : LampMode) (S : Nat) (layer : Option Level) : Nat :=
  match layer, mode with
  | none, _ => S
  | some _, .follow => S
  | some l, .cue => l.value
  | some l, .highest => max S l.value
  | some l, .lowest => min S l.value

/-- The master stage Q (R51). -/
def masterStage (P M : Nat) : Nat := (P * M + 127) / 255

/-- The limit stage (R53). -/
def limitStage (lo hi Q : Nat) : Nat := if Q = 0 then 0 else max lo (min hi Q)

/-- The output level of an in-use channel at a step, from the channel and master as the fades left them (Table 3-1). -/
def channelLevel (s : State) (r : LampRec) (layer : Option Level) (M : Nat) : Nat :=
  match s.node with
  | .quiescing | .dormant => limitStage r.lo r.hi r.dormant
  | .active =>
    let Q := masterStage (mix r.mode (sceneValue s r) layer) M
    match r.flashLine with
    | some l => if sceneLine s l then limitStage r.lo r.hi r.flashLevel else limitStage r.lo r.hi Q
    | none => limitStage r.lo r.hi Q

/-- An in-use channel's step: its fade, its level, its on/off state (R43, R56). -/
def channelStep (s : State) (masters : Vector Level 8) (c : ChannelId) : Channel :=
  let r := s.tables.lamps[c]
  let x := s.lamp.chans[c]
  if r.inUse then
    let layer := x.layer.map fadeStep
    let out := channelLevel s r layer masters[r.group].value
    ⟨layer, out, decide (r.threshold ≤ out)⟩
  else x

/-- The pins driven from the channels in channel order; a pin no in-use channel names is at duty 0 (R43, R55). -/
def drivePins (lamps : Vector LampRec 48) (chans : Vector Channel 48) : Vector Nat 16 :=
  (every 48).foldl (fun pins c =>
    if lamps[c].inUse then
      match lamps[c].drive with
      | .pin p => pins.set p chans[c].out
      | .chain => pins
    else pins) (.replicate 16 0)

/-- The Lamp Unit's work at a scene step: masters, cue fades, levels (R43). -/
def stepLamps (s : State) : State :=
  let masters := tab (fun g => fadeStep s.lamp.masters[g])
  let chans := tab (channelStep s masters)
  { s with lamp := ⟨chans, masters, drivePins s.tables.lamps chans⟩ }

/-! ## Requests and writes -/

/-- LAMP SET on an in-use channel (R46): the fade starts from C, or from the output level while the layer is inactive. -/
def lampSet (c : ChannelId) (level units : Nat) (s : State) : State :=
  let x := s.lamp.chans[c]
  let cur := match x.layer with
    | some l => l.value
    | none => x.out
  setChan c { x with layer := some (startFade cur level units) } s

/-- LAMP RELEASE of one channel (R48). -/
def lampRelease (c : ChannelId) (s : State) : State := setChan c { s.lamp.chans[c] with layer := none } s

/-- LAMP RELEASE with channel 255: every in-use channel (R48). -/
def lampReleaseAll (s : State) : State :=
  { s with lamp := { s.lamp with
      chans := tab (fun c =>
        if s.tables.lamps[c].inUse then { s.lamp.chans[c] with layer := none } else s.lamp.chans[c]) } }

/-- GROUP SET (R50). -/
def groupSet (g : GroupId) (level units : Nat) (s : State) : State :=
  setMaster g (startFade s.lamp.masters[g].value level units) s

/-- Whether an in-use channel names the pin. -/
def pinNamed (lamps : Vector LampRec 48) (p : PinId) : Bool :=
  (every 48).any (fun c => lamps[c].inUse && lamps[c].drive == .pin p)

/-- What a committed write to table 7 does at once (R41). -/
def lampsCommitted (s : State) : State :=
  { s with lamp := { s.lamp with
      chans := tab (fun c => if s.tables.lamps[c].inUse then s.lamp.chans[c] else ⟨none, 0, false⟩)
      pins := tab (fun p => if pinNamed s.tables.lamps p then s.lamp.pins[p] else 0) } }

end Sys2Proof.Machine
end

