-- ==== Sys2Proof/Machine/Clock.lean ====
section
/-! DEFINITION. The Model Clock, its settings and the alarms (Chapter 2, R22 to R30). -/

namespace Sys2Proof.Machine

/-- The milliseconds of a model day (R22). -/
def dayMs : Nat := 86400000

/-- Replaces the clock. -/
def setClock (c : Clock) (s : State) : State := { s with clock := c }

/-- CLOCK HOLD (R24). -/
def clockHold (s : State) : State := setClock { s.clock with run := .held } s

/-- CLOCK RESUME (R24). -/
def clockResume (s : State) : State := setClock { s.clock with run := .running } s

/-- CLOCK RATE (R24). -/
def clockRate (rate : Nat) (s : State) : State := setClock { s.clock with rate := rate } s

/-- A time set request fills the pending set, replacing any present one whole (R26). -/
def fillPendingSet (p : PendingSet) (s : State) : State := setClock { s.clock with pendingSet := some p } s

/-- The pending set of a CLOCK SET action: hour clamped to 23, minute to 59 (R19, R26). -/
def clockSetPending (hour minute : Nat) : PendingSet :=
  ⟨(min hour 23 * 3600 + min minute 59 * 60) * 1000, none⟩

/-- The pending set of a SET CLOCK transfer: model time clamped to 86,399,999; run/hold 0 is HELD (R26, R177). -/
def setClockPending (ms day rate : Nat) (runHold : Byte) : PendingSet :=
  ⟨min ms (dayMs - 1), some ⟨day, rate, if runHold = 0 then .held else .running⟩⟩

/-- The clock with the pending set applied (R27). -/
def applySet (p : PendingSet) (c : Clock) : Clock :=
  match p.setting with
  | none => { c with time := p.time, pendingSet := none }
  | some x => { c with time := p.time, day := x.day, rate := x.rate, run := x.run, pendingSet := none }

/-- The clock's first alternative at a scene step: a pending set is applied (R23, R27). -/
def applyPendingSet (s : State) : State :=
  match s.clock.pendingSet with
  | none => s
  | some p => setClock (applySet p s.clock) s

/-- Whether an advance passes midnight (R23). -/
def passesMidnight (c : Clock) : Bool := decide (dayMs ≤ c.time + c.rate)

/-- The clock after one advance (R23). -/
def advanced (c : Clock) : Clock :=
  if passesMidnight c then { c with time := c.time + c.rate - dayMs, day := (c.day + 1) % 65536 }
  else { c with time := c.time + c.rate }

/-- An alarm placed among alarms sorted by time, after those of equal time. -/
def placeAlarm (time : AlarmId → Nat) (i : AlarmId) : List AlarmId → List AlarmId
  | [] => [i]
  | j :: rest => if time i < time j then i :: j :: rest else j :: placeAlarm time i rest

/-- Alarms sorted by increasing time, equal times by increasing index (R29), from a list in index order. -/
def sortAlarms (time : AlarmId → Nat) (is : List AlarmId) : List AlarmId :=
  is.foldl (fun sorted i => placeAlarm time i sorted) []

/-- An alarm's time in milliseconds (R28). -/
def alarmTime (s : State) (i : AlarmId) : Nat := s.tables.alarms[i].second * 1000

/-- The in-use alarms that an advance from `old` passes, in firing order (R29). -/
def alarmsPassed (s : State) (old new : Nat) (midnight : Bool) : List AlarmId :=
  let inUse := (every 32).filter (fun i => s.tables.alarms[i].inUse)
  if midnight then
    sortAlarms (alarmTime s) (inUse.filter (fun i => decide (old < alarmTime s i))) ++
      sortAlarms (alarmTime s) (inUse.filter (fun i => decide (alarmTime s i ≤ new)))
  else
    sortAlarms (alarmTime s) (inUse.filter (fun i => decide (old < alarmTime s i ∧ alarmTime s i ≤ new)))

/-- An alarm fires: the wake, then the cue (R30). -/
def fireAlarm (i : AlarmId) (s : State) : State :=
  let r := s.tables.alarms[i]
  appendCue r.code .alarm (if r.wake then wake (.alarm i) s else s)

/-- An advance with its alarm scan (R23, R29, R30). -/
def advanceClock (s : State) : State :=
  let c := advanced s.clock
  (alarmsPassed s s.clock.time c.time (passesMidnight s.clock)).foldl (fun u i => fireAlarm i u) (setClock c s)

/-- The Model Clock's work at a scene step: the first alternative of R23 that applies. -/
def stepClock (s : State) : State :=
  match s.clock.pendingSet with
  | some _ => applyPendingSet s
  | none =>
    match s.clock.run, s.clock.dormantHold with
    | .running, false => advanceClock s
    | _, _ => s

end Sys2Proof.Machine
end

