-- ==== Sys2Proof/Machine/Players.lean ====
section
/-! DEFINITION. The List Players (Chapter 2, R31 to R39). -/

namespace Sys2Proof.Machine

/-- The entry of list memory at an index (R32). -/
def entryAt (s : State) (i : Nat) : ListEntry := if h : i < 512 then s.tables.listMem[i] else ⟨true, 0, 0⟩

/-- The delay read on arrival: an END is reached with a delay of 0 (R32, R33). -/
def entryDelay (e : ListEntry) : Nat := if e.isEnd then 0 else e.delay

/-- The most entries a player fires in one step (R35). -/
def maxFires : Nat := 16

/-- LIST START (R34): the reason of the refusal, or none. -/
def listStart (p : PlayerId) (s : State) : Option Reason × State :=
  let x := s.players[p]
  let r := s.tables.listDir[p]
  let started := setPlayer p ⟨.playing, r.start, max (entryDelay (entryAt s r.start)) 1⟩ s
  match x.state, r.mode with
  | .stopped, _ => (none, started)
  | .playing, .restart => (none, started)
  | .playing, _ => (some .state, s)
  | .paused, _ => (some .state, s)

/-- LIST STOP (R37). -/
def listStop (p : PlayerId) (s : State) : State := setPlayer p { s.players[p] with state := .stopped } s

/-- A player arrives at an entry during a step (R33, R35): whether the entry fires in the same step, and the state. -/
def arrive (p : PlayerId) (i : Nat) (s : State) : Bool × State :=
  let d := entryDelay (entryAt s i)
  (decide (d = 0), setPlayer p { s.players[p] with index := i, countdown := d } s)

/-- A player acts on an END by its mode (R36): whether a next entry fires in the same step, and the state. -/
def fireEnd (p : PlayerId) (s : State) : Bool × State :=
  let r := s.tables.listDir[p]
  match r.mode with
  | .loop => arrive p r.start (appendCue r.endCue .list s)
  | .once | .restart =>
    (false, latch .listEnd (.player p) (appendCue r.endCue .list
      (setPlayer p { s.players[p] with state := .stopped } s)))

/-- A player fires its current entry (R35, R36): whether a next entry fires in the same step, how many firings count
toward the limit, and the state. The CUE entry at index 511 is followed at once by an END's work (log entry 17). -/
def fireEntry (p : PlayerId) (s : State) : Bool × Nat × State :=
  let x := s.players[p]
  let e := entryAt s x.index
  if e.isEnd then
    let r := fireEnd p s
    (r.1, 1, r.2)
  else if x.index < 511 then
    let r := arrive p (x.index + 1) (appendCue e.code .list s)
    (r.1, 1, r.2)
  else
    let r := fireEnd p (appendCue e.code .list s)
    (r.1, 2, r.2)

/-- A player fires entries while the next is due, at most `left` in the step; cut short, it waits with countdown 1 (R35). `fuel`
bounds the firings: each counts at least one. -/
def fireEntries : Nat → Nat → PlayerId → State → State
  | 0, _, _, s => s
  | fuel + 1, left, p, s =>
    let r := fireEntry p s
    if r.1 then
      if left ≤ r.2.1 then setPlayer p { r.2.2.players[p] with countdown := 1 } r.2.2
      else fireEntries fuel (left - r.2.1) p r.2.2
    else r.2.2

/-- A player's countdown runs out and it fires entries; a player that is not at its last count is left (R35). -/
def countdownEnds (p : PlayerId) (s : State) : State :=
  let x := s.players[p]
  match x.state with
  | .playing =>
    if x.countdown ≤ 1 then fireEntries maxFires maxFires p (setPlayer p { x with countdown := 0 } s) else s
  | .stopped | .paused => s

/-- One player's work at a scene step (R35). -/
def stepPlayer (p : PlayerId) (s : State) : State :=
  let x := s.players[p]
  match x.state with
  | .playing =>
    if x.countdown ≤ 1 then countdownEnds p s else setPlayer p { x with countdown := x.countdown - 1 } s
  | .stopped | .paused => s

/-- The List Players' work at a scene step, in player order (R35). -/
def stepLists (s : State) : State := (every 4).foldl (fun u p => stepPlayer p u) s

/-- Dormant entry: every PLAYING player goes to PAUSED (R38). -/
def restLists (s : State) : State :=
  { s with players := tab (fun p =>
      match s.players[p].state with
      | .playing => { s.players[p] with state := .paused }
      | .stopped | .paused => s.players[p]) }

/-- Wake: every PAUSED player goes to PLAYING (R38). -/
def wakeLists (s : State) : State :=
  { s with players := tab (fun p =>
      match s.players[p].state with
      | .paused => { s.players[p] with state := .playing }
      | .stopped | .playing => s.players[p]) }

end Sys2Proof.Machine
end

