-- ==== Sys2Proof/Machine/AxisMotion.lean ====
section
/-! DEFINITION. The motion of one stepper axis, as functions of its record and its runtime state (Chapter 6, R107 to
R117). The Boolean beside a result says that the axis came to a stand (R115). -/

namespace Sys2Proof.Machine

/-! ## Targets (R108) -/

/-- A named position as a target of the axis. -/
def takeTarget (r : AxisRec) (p : Nat) : Nat :=
  match r.kind with
  | .rotary => p % r.steps
  | .linear => min p r.steps

/-- The remaining distance from a position to a target in a direction of travel. -/
def remaining (r : AxisRec) (dir : Dir) (pos t : Nat) : Nat :=
  match r.kind, dir with
  | .rotary, .forward => (t + r.steps - pos) % r.steps
  | .rotary, .reverse => (pos + r.steps - t) % r.steps
  | .linear, _ => (t - pos) + (pos - t)

/-- The direction to a target. -/
def chooseDir (r : AxisRec) (pos t : Nat) : Dir :=
  match r.kind, r.policy with
  | .linear, _ => if t < pos then .reverse else .forward
  | .rotary, .forward | .rotary, .unread _ => .forward
  | .rotary, .shortest =>
    if remaining r .reverse pos t < remaining r .forward pos t then .reverse else .forward

/-- The other direction. -/
def Dir.opposite : Dir → Dir
  | .forward => .reverse
  | .reverse => .forward

/-! ## Coming to rest -/

/-- The axis enters HOLDING, or IDLE with hold steps 0 (R115); everything that belongs to a motion is removed. -/
def toHolding (r : AxisRec) (arrived : Bool) (x : Axis) : Axis :=
  { x with
    state := if r.holdSteps = 0 then .idle else .holding
    holdTimer := if r.holdSteps = 0 then none else some r.holdSteps
    v := 0
    acc := 0
    target := none
    runSpeed := none
    turn := none
    stopPt := none
    homePhase := none
    homeCount := 0
    dial := none
    arrived := arrived }

/-- Whether the axis is at rest for a new order: IDLE, HOLDING, or FOLLOWING with v = 0 (R110, R113). -/
def atRest (x : Axis) : Bool :=
  match x.state with
  | .idle | .holding => true
  | .following => x.v == 0
  | .homing | .seeking | .running | .stopping | .fault _ => false

/-- The axis passes through rest into the turn-about direction (R111): v becomes Vs, lowered to the run speed of a RUNNING
axis (R113, log entry 30). -/
def passRest (r : AxisRec) (d : Dir) (x : Axis) : Axis :=
  { x with
    dir := d
    turn := none
    stopPt := none
    acc := 0
    v := match x.runSpeed with
      | some rs => min r.vs rs
      | none => r.vs }

/-- A moving axis must turn about toward `d`; `kept` is the target it had before the order (R111). -/
def turnAbout (r : AxisRec) (d : Dir) (kept : Option Nat) (x : Axis) : Axis :=
  match x.turn with
  | some _ => x
  | none => if x.v ≤ r.vs then passRest r d x else { x with turn := some d, stopPt := kept }

/-! ## Orders -/

/-- A seek order to the position `p` (R110, R111). -/
def seekOrder (r : AxisRec) (p : Nat) (x : Axis) : Axis × Bool :=
  let t := takeTarget r p
  if remaining r x.dir x.pos t = 0 then (toHolding r true x, true)
  else
    let d := chooseDir r x.pos t
    let y := { x with state := .seeking, target := some t, runSpeed := none, dial := none, holdTimer := none,
                      arrived := false }
    if atRest x then ({ y with dir := d, v := r.vs, acc := 0, turn := none, stopPt := none }, false)
    else if d = x.dir then ({ y with turn := none, stopPt := none }, false)
    else (turnAbout r d x.target y, false)

/-- The run speed of a speed code (R113). -/
def runSpeedOf (r : AxisRec) (code : Nat) : Nat := min (code * 16) r.vmax

/-- AXIS RUN with a code above 0 (R113). -/
def runOrder (r : AxisRec) (code : Nat) (x : Axis) : Axis :=
  let rs := runSpeedOf r code
  let y := { x with state := .running, target := none, runSpeed := some rs, dial := none, holdTimer := none,
                    arrived := false }
  if atRest x then { y with dir := .forward, v := min r.vs rs, acc := 0, turn := none, stopPt := none }
  else
    match x.dir with
    | .forward => { y with turn := none, stopPt := none }
    | .reverse => turnAbout r .forward x.target y

/-- AXIS STOP (R114). An axis in FAULT is refused before it comes here, and is left as it stands. -/
def stopOrder (r : AxisRec) (x : Axis) : Axis × Bool :=
  match x.state with
  | .homing | .seeking | .running =>
    if x.v ≤ r.vs then (toHolding r false x, true)
    else
      ({ x with
        state := .stopping
        target := match x.turn with
          | some _ => x.stopPt
          | none => x.target
        runSpeed := none
        turn := none
        stopPt := none
        homePhase := none
        homeCount := 0 }, false)
  | .following => (toHolding r x.arrived x, true)
  | .idle | .holding | .stopping | .fault _ => (x, false)

/-- An accepted AXIS HOME (R116); the home input as last handed decides the phase. -/
def homeOrder (r : AxisRec) (x : Axis) : Axis :=
  { x with
    state := .homing
    known := false
    arrived := false
    target := none
    runSpeed := none
    turn := none
    stopPt := none
    dial := none
    holdTimer := none
    homeCount := 0
    homePhase := some (if x.homeIn then .leave else .find)
    dir := if x.homeIn then r.homeDir.opposite else r.homeDir
    v := r.vs
    acc := 0 }

/-- An accepted AXIS FOLLOW (R117). -/
def followOrder (x : Axis) : Axis :=
  { x with
    state := .following
    dir := .forward
    v := 0
    acc := 0
    target := none
    runSpeed := none
    turn := none
    stopPt := none
    dial := none
    holdTimer := none
    arrived := false }

/-- The axis enters FAULT (R118). -/
def faultedAxis (reason : AxisFault) (x : Axis) : Axis :=
  { x with
    state := .fault reason
    v := 0
    acc := 0
    target := none
    runSpeed := none
    turn := none
    stopPt := none
    homePhase := none
    homeCount := 0
    holdTimer := none
    dial := none
    known := false
    arrived := false
    follow := false }

/-! ## The scene step -/

/-- The velocity the profile gives at remaining distance `d` (R109). -/
def profile (r : AxisRec) (d v : Nat) : Nat :=
  if d = 0 then 0
  else if d ≤ v * v / (200 * r.accel) + v / 100 then max r.vs (v - r.accel)
  else min r.vmax (max r.vs (v + r.accel))

/-- The ramp of a RUNNING axis toward its run speed (R113). -/
def runRamp (r : AxisRec) (rs v : Nat) : Nat :=
  if v < rs then min rs (max r.vs (v + r.accel)) else max rs (v - r.accel)

/-- One scene step of a turn-about (R111). -/
def turnStep (r : AxisRec) (d : Dir) (x : Axis) : Axis :=
  if x.v - r.accel ≤ r.vs then passRest r d x else { x with v := x.v - r.accel }

/-- One scene step of a STOPPING axis (R114). -/
def stoppingStep (r : AxisRec) (x : Axis) : Axis × Bool :=
  if x.v - r.accel ≤ r.vs then (toHolding r false x, true) else ({ x with v := x.v - r.accel }, false)

/-- The dial period in model seconds (R117). -/
def dialPeriod : Dial → Option Nat
  | .none | .unread _ => Option.none
  | .second => some 60
  | .minute => some 3600
  | .hour12 => some 43200
  | .day => some 86400

/-- The dial target at a model second (R117). -/
def dialTarget (r : AxisRec) (second : Nat) : Option Nat :=
  (dialPeriod r.dial).map (fun p => ((second % p) * r.steps / p + r.offset) % r.steps)

/-- One scene step of a FOLLOWING axis (R117). R112 refuses FOLLOW with dial NONE, but a wake resumes following on an axis whose
dial was written to NONE during the rest (R122): the manual gives no dial period there, and the model leaves the axis standing
in FOLLOWING as it is (DESIGN CHOICE, log entry 37). -/
def followStep (r : AxisRec) (second : Nat) (x : Axis) : Axis :=
  match dialTarget r second with
  | none => x
  | some t =>
    let d := remaining r .forward x.pos t
    { x with dial := some t, v := profile r d x.v, arrived := decide (d = 0) }

/-- The hold timer runs out (R115); a timer not at its last count is left. -/
def holdEnds (x : Axis) : Axis :=
  match x.state, x.holdTimer with
  | .holding, some n => if n ≤ 1 then { x with state := .idle, holdTimer := none } else x
  | _, _ => x

/-- One scene step of a HOLDING axis (R115). -/
def holdStep (x : Axis) : Axis :=
  match x.holdTimer with
  | none => x
  | some n => if n ≤ 1 then holdEnds x else { x with holdTimer := some (n - 1) }

/-- One scene step of an in-use axis (R109, R111, R113, R114, R115, R117). -/
def axisStep (r : AxisRec) (second : Nat) (x : Axis) : Axis × Bool :=
  match x.state with
  | .seeking =>
    match x.turn, x.target with
    | some d, _ => (turnStep r d x, false)
    | none, some t => ({ x with v := profile r (remaining r x.dir x.pos t) x.v }, false)
    | none, none => (x, false)
  | .running =>
    match x.turn, x.runSpeed with
    | some d, _ => (turnStep r d x, false)
    | none, some rs => ({ x with v := runRamp r rs x.v }, false)
    | none, none => (x, false)
  | .stopping => stoppingStep r x
  | .following => (followStep r second x, false)
  | .holding => (holdStep x, false)
  | .idle | .homing | .fault _ => (x, false)

/-! ## The frame period (R107) -/

/-- What an axis's frame period brings beside its new state. -/
inductive PeriodEvent where
  | none
  | stand
  | homeLimit
deriving DecidableEq, Repr

/-- The position after one step. -/
def stepPos (r : AxisRec) (dir : Dir) (pos : Nat) : Nat :=
  match r.kind, dir with
  | .rotary, .forward => (pos + 1) % r.steps
  | .rotary, .reverse => (pos + r.steps - 1) % r.steps
  | .linear, .forward => min (pos + 1) r.steps
  | .linear, .reverse => pos - 1

/-- Whether the step generator runs in this state (R107). -/
def generates (x : Axis) : Bool :=
  match x.state with
  | .homing | .seeking | .running | .stopping | .following => true
  | .idle | .holding | .fault _ => false

/-- Whether the next frame period brings a step (R107). -/
def stepDue (x : Axis) : Bool := generates x && decide (4000 ≤ x.acc + x.v)

/-- Whether the next step of a HOMING axis would pass its home limit (R116). -/
def homeLimitDue (r : AxisRec) (x : Axis) : Bool :=
  x.state == .homing && stepDue x && decide (r.homeLimit ≤ x.homeCount)

/-- What the step that brought the axis to `x.pos` does: the target, the dial target, the stop point (R107, R111). -/
def reached (r : AxisRec) (x : Axis) : Axis × PeriodEvent :=
  match x.state with
  | .seeking | .stopping =>
    if x.target = some x.pos then (toHolding r true x, .stand)
    else
      match x.turn with
      | some d => if x.stopPt = some x.pos then (passRest r d x, .none) else (x, .none)
      | none => (x, .none)
  | .running =>
    match x.turn with
    | some d => if x.stopPt = some x.pos then (passRest r d x, .none) else (x, .none)
    | none => (x, .none)
  | .following => if x.dial = some x.pos then ({ x with v := 0, acc := 0, arrived := true }, .none) else (x, .none)
  | .homing => ({ x with homeCount := x.homeCount + 1 }, .none)
  | .idle | .holding | .fault _ => (x, .none)

/-- One frame period of an in-use axis (R107, R116). -/
def axisFrame (r : AxisRec) (x : Axis) : Axis × PeriodEvent :=
  if generates x then
    if stepDue x then
      if homeLimitDue r x then (x, .homeLimit)
      else reached r { x with acc := x.acc + x.v - 4000, pos := stepPos r x.dir x.pos, pulses := x.pulses + 1 }
    else ({ x with acc := x.acc + x.v }, .none)
  else (x, .none)

end Sys2Proof.Machine
end

