-- ==== Sys2Proof/Machine/Track.lean ====
section
/-! DEFINITION. The Reservation Unit: needs, locks, points, requests, grants, wait queues and releases (Chapter 4), with what
it tells the Train Unit of a reservation (R96) and what a halt does (R98), which a told fault can bring. -/

namespace Sys2Proof.Machine

/-! ## Route steps and their needs (R60) -/

/-- A point at a position. -/
abbrev PointNeed := PointId × PointPos

/-- Which position of a two-branch point leads to section `n`, where one does. -/
def branchTo (p : Option PointId) (normal reverse : Nat) (n : SectionId) : Option PointNeed :=
  match p with
  | none => none
  | some q => if normal = n.val then some (q, .normal) else if reverse = n.val then some (q, .reverse) else none

/-- The exit need of the step s → n (R60). -/
def exitNeed (secs : Vector SectionRec 16) (s n : SectionId) : Option PointNeed :=
  branchTo secs[s].exitPoint secs[s].nextNormal secs[s].nextReverse n

/-- The entry need of the step s → n (R60). -/
def entryNeed (secs : Vector SectionRec 16) (s n : SectionId) : Option PointNeed :=
  branchTo secs[n].entryPoint secs[n].fromNormal secs[n].fromReverse s

/-- Whether the step s → n is reachable (R60). -/
def reachable (secs : Vector SectionRec 16) (s n : SectionId) : Bool :=
  secs[s].inUse && secs[n].inUse && s != n &&
  (secs[s].exitPoint.isNone || (exitNeed secs s n).isSome) &&
  (secs[n].entryPoint.isNone || (entryNeed secs s n).isSome) &&
  (match exitNeed secs s n, entryNeed secs s n with
    | some (p, x), some (q, y) => p != q || x == y
    | _, _ => true)

/-- The point needs of the step s → n; two needs of one point are one (R60). -/
def pointNeeds (secs : Vector SectionRec 16) (s n : SectionId) : List PointNeed :=
  if exitNeed secs s n = entryNeed secs s n then (exitNeed secs s n).toList
  else (exitNeed secs s n).toList ++ (entryNeed secs s n).toList

/-! ## Locks and requirements (R63) -/

/-- The owner of a section, while RESERVED or HELD (R62). -/
def ownerOf : SecState → Option TrainId
  | .free | .blocked => none
  | .reserved t _ _ => some t
  | .held t _ => some t

/-- The owners of the in-use sections that a test on the record picks out, one for each section. -/
def ownersWhere (s : State) (f : SectionRec → Bool) : List TrainId :=
  (every 16).filterMap (fun n =>
    if s.tables.sections[n].inUse && f s.tables.sections[n] then ownerOf s.secs[n].state else none)

/-- The trains that lock a point (R63). -/
def pointLockers (s : State) (p : PointId) : List TrainId :=
  ownersWhere s (fun r => r.exitPoint == some p || r.entryPoint == some p)

/-- The trains that lock a guard axis (R63). -/
def axisLockers (s : State) (a : AxisId) : List TrainId := ownersWhere s (fun r => r.guardAxis == some a)

/-- A point locked by any train. -/
def pointLocked (s : State) (p : PointId) : Bool := !(pointLockers s p).isEmpty

/-- A guard axis locked by any train. -/
def axisLocked (s : State) (a : AxisId) : Bool := !(axisLockers s a).isEmpty

/-- What a HELD or RESERVED section requires of points (R63). -/
def requiredPoints (s : State) (n : SectionId) : List PointNeed :=
  let parts (t : TrainId) (kept : SectionId) : List PointNeed :=
    (entryNeed s.tables.sections kept n).toList ++
    (if ownerOf s.secs[kept].state = some t then (exitNeed s.tables.sections kept n).toList else [])
  match s.secs[n].state with
  | .reserved t _ kept => parts t kept
  | .held t (some kept) => parts t kept
  | .held _ none | .free | .blocked => []

/-- The sections a train holds or has reserved. -/
def ownedBy (s : State) (t : TrainId) : List SectionId :=
  (every 16).filter (fun n => ownerOf s.secs[n].state == some t)

/-! ## Standing in place (R71) -/

/-- A point stands IDLE in a position. -/
def pointStands (s : State) (q : PointNeed) : Bool :=
  s.pts[q.1].motion.isNone && s.pts[q.1].position == some q.2

/-- A guard axis stands at a guard position (R71, R108). -/
def axisStands (s : State) (a : AxisId) (g : Nat) : Bool :=
  let x := s.axes[a]
  (x.state == .idle || x.state == .holding) && x.known && x.pos == takeTarget s.tables.axes[a] g

/-- The guard of a section stands, where it has one. -/
def guardStands (s : State) (n : SectionId) : Bool :=
  match s.tables.sections[n].guardAxis with
  | none => true
  | some a => axisStands s a s.tables.sections[n].guardPos

/-- Every need of the step s → n stands ready (R73). -/
def needsReady (s : State) (from_ n : SectionId) : Bool :=
  (pointNeeds s.tables.sections from_ n).all (pointStands s) && guardStands s n

/-! ## Whether a request can be met now (R70) -/

/-- Condition 2 of R70 for one needed point. -/
def pointMet (s : State) (t : TrainId) (q : PointNeed) : Bool :=
  s.tables.points[q.1].inUse && (pointLockers s q.1).all (· == t) &&
  (ownedBy s t).all (fun m => (requiredPoints s m).all (fun o => o.1 != q.1 || o.2 == q.2))

/-- An axis in FAULT. -/
def axisFaulted (x : Axis) : Bool :=
  match x.state with
  | .fault _ => true
  | .idle | .holding | .homing | .seeking | .running | .stopping | .following => false

/-- Condition 3 of R70 for a guard (guard positions compared as stored, log entry 21). -/
def guardMet (s : State) (t : TrainId) (n : SectionId) : Bool :=
  match s.tables.sections[n].guardAxis with
  | none => true
  | some a =>
    s.tables.axes[a].inUse && !axisFaulted s.axes[a] && s.axes[a].state != .homing && s.axes[a].known &&
    (axisLockers s a).all (· == t) &&
    (ownedBy s t).all (fun m =>
      s.tables.sections[m].guardAxis != some a || s.tables.sections[m].guardPos == s.tables.sections[n].guardPos)

/-- A request of train t, standing in `from_`, for section n can be met now (R70). -/
def canMeet (s : State) (t : TrainId) (from_ n : SectionId) : Bool :=
  s.tables.sections[n].inUse && s.secs[n].state == .free &&
  (pointNeeds s.tables.sections from_ n).all (pointMet s t) && guardMet s t n

/-! ## Throws (R66, R68) -/

/-- A new throw of a point with the counts of its record (R66). -/
def newThrow (r : PointRec) (q : PointPos) : Throw := ⟨q, r.throw, r.pulse⟩

/-- A throw request (R66, R68). -/
def throwRequest (q : PointNeed) (s : State) : State :=
  let x := s.pts[q.1]
  match x.motion with
  | some _ => setPt q.1 { x with slot := some q.2 } s
  | none =>
    if x.position = some q.2 then s else setPt q.1 { x with motion := some (newThrow s.tables.points[q.1] q.2) } s

/-- POINT THROW on an in-use point (R69): the reason of the refusal, or none. -/
def pointThrow (p : PointId) (q : PointPos) (s : State) : Option Reason × State :=
  if pointLocked s p then (some .interlock, s) else (none, throwRequest (p, q) s)

/-! ## Guard seeks (R119) -/

/-- A seek order of the Reservation Unit; FAULT, HOMING and an unknown position do not take it (R119). -/
def guardSeek (a : AxisId) (g : Nat) (s : State) : State :=
  let x := s.axes[a]
  if axisFaulted x || x.state == .homing || !x.known then s
  else setAxis a { (seekOrder s.tables.axes[a] g x).1 with follow := false } s

/-- The guard axis of a section is ordered to its guard position where it does not stand there (R71 step 3). The order is given for
this section, which is RESERVED, also where the same train HOLDS another section with the same guard and guard position: R81 speaks
against that order, R70 and R71 for it (DESIGN CHOICE, log entry 40). -/
def orderGuard (n : SectionId) (s : State) : State :=
  match s.tables.sections[n].guardAxis with
  | none => s
  | some a => if guardStands s n then s else guardSeek a s.tables.sections[n].guardPos s

/-! ## Grants and requests (R71, R72) -/

/-- The answer to a request (R95). -/
inductive Answer where
  | granted (phase : Phase)
  | queued
  | full
deriving DecidableEq, Repr

/-- A train leaves the wait queue of a section; those behind keep their order. -/
def leaveQueue (t : TrainId) (n : SectionId) (s : State) : State :=
  setSec n { s.secs[n] with queue := s.secs[n].queue.filter (· != t) } s

/-- A grant of section n to train t on the step from_ → n (R71): the phase, and the state. -/
def grant (t : TrainId) (from_ n : SectionId) (s : State) : Phase × State :=
  let s1 := setSec n { s.secs[n] with
    state := .reserved t .setting from_, queue := s.secs[n].queue.filter (· != t) } s
  let s2 := (pointNeeds s1.tables.sections from_ n).foldl
    (fun u q => if pointStands u q then u else throwRequest q u) s1
  let s3 := orderGuard n s2
  if needsReady s3 from_ n then (.set, setSec n { s3.secs[n] with state := .reserved t .set from_ } s3)
  else (.setting, s3)

/-- The most trains a wait queue holds (R62). -/
def maxWaiters : Nat := 3

/-- A request of train t, standing in from_, for section n (R70 to R72). -/
def request (t : TrainId) (from_ n : SectionId) (s : State) : Answer × State :=
  if canMeet s t from_ n then
    let g := grant t from_ n s
    (.granted g.1, g.2)
  else if s.secs[n].queue.length < maxWaiters then
    (.queued, setSec n { s.secs[n] with queue := s.secs[n].queue ++ [t] } s)
  else (.full, s)

/-! ## What a train does with an answer (R95, R97, R99) -/

/-- How a train comes to APPROACH by an answer: it keeps what it has, as on a retry or a grant from a queue (R95), it enters
a section (R97), or it is resumed or started (R99). -/
inductive Approach where
  | keep
  | entry
  | resume
deriving DecidableEq, Repr

/-- WAITING at speed 0, APPROACH above 0, with the target and the brake-delay counter of R97 and R99. -/
def holdBack (s : State) (how : Approach) (x : Train) : Train :=
  if x.speed = 0 then { x with state := .waiting, target := 0, brakeDelay := none }
  else
    match how with
    | .keep => { x with state := .approach }
    | .resume => { x with state := .approach, target := 0, brakeDelay := none }
    | .entry =>
      let delay := match x.hold.head? with
        | some h => s.tables.sections[h].brakeDelay
        | none => 0
      if delay = 0 then { x with state := .approach, target := 0, brakeDelay := none }
      else { x with state := .approach, target := min x.speed x.cruise, brakeDelay := some delay }

/-- A train goes to RUNNING with target cruise in effect. -/
def goRunning (x : Train) : Train := { x with state := .running, target := x.cruise, brakeDelay := none }

/-- The fields that an answer sets (R95). -/
def answered (s : State) (how : Approach) (n : SectionId) (a : Answer) (x : Train) : Train :=
  match a with
  | .granted .set => goRunning { x with res := some (n, .set), arrival := some 0, queued := none, retry := false }
  | .granted .setting =>
    holdBack s how { x with res := some (n, .setting), arrival := none, queued := none, retry := false }
  | .queued => holdBack s how { x with res := none, arrival := none, queued := some n, retry := false }
  | .full => holdBack s how { x with res := none, arrival := none, queued := none, retry := true }

/-- A train takes an answer. -/
def takeAnswer (how : Approach) (t : TrainId) (n : SectionId) (a : Answer) (s : State) : State :=
  setTrain t (answered s how n a s.trains[t]) s

/-- The route entry at a position, as a section. -/
def routeAt (r : TrainRec) (i : Nat) : Option SectionId := if h : i < 32 then item 16 r.route[i] else none

/-- The section after a train's head in its route (R92). -/
def nextSection (s : State) (t : TrainId) : Option SectionId :=
  let r := s.tables.trains[t]
  routeAt r ((s.trains[t].headIndex + 1) % r.length)

/-- A train sends its request and takes the answer (R92, R95). -/
def sendRequest (how : Approach) (t : TrainId) (s : State) : State :=
  match s.trains[t].hold.head?, nextSection s t with
  | some from_, some n =>
    let a := request t from_ n s
    takeAnswer how t n a.1 a.2
  | _, _ => s

/-! ## Halts (R98) -/

/-- Whether a halt for a reason reaches a train in its state (R98). -/
def haltReaches (reason : HaltReason) (x : Train) : Bool :=
  match reason, x.state with
  | .overrun, _ =>
    match x.res with
    | some (_, .setting) => true
    | _ => false
  | .overload, .parked | .guard, .parked => false
  | .overload, _ | .guard, _ => true
  | .lost, .running | .lost, .stopping => true
  | .lost, _ => false
  | .length, .running | .length, .stopping | .length, .halted _ => true
  | .length, _ => false
  | .chain, .waiting | .chain, .running | .chain, .approach | .chain, .stopping => true
  | .chain, _ => false
  | .link, .waiting | .link, .running | .link, .approach | .link, .stopping => true
  | .link, _ => false
  | .allstop, .waiting | .allstop, .running | .allstop, .approach | .allstop, .stopping | .allstop, .halted _ => true
  | .allstop, _ => false

/-- The reason a train keeps: OVERRUN, LOST and LENGTH are kept against every later reason (R98). -/
def haltReason (reason : HaltReason) : TrainState → HaltReason
  | .halted .overrun => .overrun
  | .halted .lost => .lost
  | .halted .length => .length
  | _ => reason

/-- Whether a halt puts the speed to 0 at once (R98). -/
def stopsAtOnce : HaltReason → Bool
  | .overrun | .overload => true
  | .lost | .length | .chain | .link | .allstop | .guard => false

/-- The train's own fields after a halt (R98). -/
def halted (reason : HaltReason) (x : Train) : Train :=
  { x with
    state := .halted (haltReason reason x.state)
    target := 0
    speed := if stopsAtOnce reason then 0 else x.speed
    duty := if stopsAtOnce reason then 0 else x.duty
    queued := none
    retry := false
    brakeDelay := none }

/-- A train leaves the wait queue it stands in, if any. -/
def dequeue (t : TrainId) (s : State) : State :=
  match s.trains[t].queued with
  | none => s
  | some n => setTrain t { s.trains[t] with queued := none } (leaveQueue t n s)

/-- A halt of one train (R98). -/
def halt (reason : HaltReason) (t : TrainId) (s : State) : State :=
  if haltReaches reason s.trains[t] then
    let u := dequeue t s
    latch .trainHalt (.halt t reason) (setTrain t (halted reason u.trains[t]) u)
  else s

/-- One halt of every train it reaches, in a free order (log entry 1). -/
def haltAll (reason : HaltReason) (s : State) : State :=
  let a := arrange ((every 4).filter (fun t => haltReaches reason s.trains[t])) s
  a.1.foldl (fun u t => halt reason t u) a.2

/-! ## What the Train Unit is told (R96) -/

/-- The train is told SET (R96). -/
def tellSet (t : TrainId) (s : State) : State :=
  let x := s.trains[t]
  match x.res with
  | none => s
  | some (n, _) =>
    let y := { x with res := some (n, .set), arrival := some 0 }
    match x.state with
    | .waiting | .approach => setTrain t (goRunning y) s
    | .stopping | .halted _ => setTrain t y s
    | .parked | .stopped | .running => s

/-- The train is told of a return to SETTING (R96). -/
def tellSetting (t : TrainId) (s : State) : State :=
  let x := s.trains[t]
  match x.res with
  | none => s
  | some (n, _) =>
    let u := setTrain t { x with res := some (n, .setting), arrival := none } s
    match x.state with
    | .running | .stopping => halt .guard t u
    | .parked | .stopped | .waiting | .approach | .halted _ => u

/-! ## Checks of SETTING reservations (R73) -/

/-- The check of one reservation (R73). -/
def checkSetting (n : SectionId) (s : State) : State :=
  match s.secs[n].state with
  | .reserved t .setting kept =>
    if needsReady s kept n then tellSet t (setSec n { s.secs[n] with state := .reserved t .set kept } s) else s
  | .reserved _ .set _ | .held _ _ | .free | .blocked => s

/-- The checks when a point becomes IDLE (R67, R73): every SETTING reservation that needs it. -/
def pointIdle (p : PointId) (s : State) : State :=
  (every 16).foldl (fun u n =>
    match u.secs[n].state with
    | .reserved _ .setting kept =>
      if (pointNeeds u.tables.sections kept n).any (·.1 == p) then checkSetting n u else u
    | _ => u) s

/-- The checks when a guard axis comes to a stand (R73, R81). -/
def axisStandTold (a : AxisId) (s : State) : State :=
  (every 16).foldl (fun u n => if u.tables.sections[n].guardAxis = some a then checkSetting n u else u) s

/-- A guard axis enters FAULT: SET reservations that it guards return to SETTING (R81). -/
def axisFaultTold (a : AxisId) (s : State) : State :=
  (every 16).foldl (fun u n =>
    if u.tables.sections[n].guardAxis = some a then
      match u.secs[n].state with
      | .reserved t .set kept => tellSetting t (setSec n { u.secs[n] with state := .reserved t .setting kept } u)
      | _ => u
    else u) s

/-! ## Points on a scene step (R67) -/

/-- A completed throw consults the pending slot (R67). -/
def throwDone (r : PointRec) (m : Throw) (x : Point) : Point :=
  match x.slot with
  | none => ⟨some m.target, none, none⟩
  | some q => if q = m.target then ⟨some m.target, none, none⟩ else ⟨some m.target, some (newThrow r q), none⟩

/-- The throw count reaches 0 (R67); a throw not at its last count is left. -/
def throwEnds (p : PointId) (s : State) : State :=
  match s.pts[p].motion with
  | none => s
  | some m =>
    if m.throwCount ≤ 1 then
      let y := throwDone s.tables.points[p] m s.pts[p]
      let u := setPt p y s
      if y.motion.isNone then pointIdle p u else u
    else s

/-- The coil count reaches 0 (R67); a coil not at its last count is left. -/
def coilEnds (p : PointId) (s : State) : State :=
  match s.pts[p].motion with
  | none => s
  | some m => if m.coilCount ≤ 1 then setPt p { s.pts[p] with motion := some { m with coilCount := 0 } } s else s

/-- One point's scene step (R67). -/
def stepPoint (p : PointId) (s : State) : State :=
  match s.pts[p].motion with
  | none => s
  | some m =>
    let u := setPt p { s.pts[p] with motion := some { m with coilCount := m.coilCount - 1 } } s
    if m.throwCount ≤ 1 then throwEnds p u
    else setPt p { s.pts[p] with motion := some { m with coilCount := m.coilCount - 1, throwCount := m.throwCount - 1 } } s

/-- The Reservation Unit's work at a scene step: every MOVING point (R67). -/
def stepPoints (s : State) : State := (every 8).foldl (fun u p => stepPoint p u) s

/-! ## Re-evaluation (R77) -/

/-- The first waiter of a FREE section whose request can be met now. -/
def firstWaiter (s : State) (n : SectionId) : Option (TrainId × SectionId) :=
  s.secs[n].queue.findSome? (fun t =>
    match s.trains[t].hold.head? with
    | some from_ => if canMeet s t from_ n then some (t, from_) else none
    | none => none)

/-- One queue is examined; its grant is told to the train (R77, R96). -/
def examineQueue (n : SectionId) (s : State) : State :=
  match s.secs[n].state with
  | .free =>
    match firstWaiter s n with
    | some (t, from_) =>
      let g := grant t from_ n s
      takeAnswer .keep t n (.granted g.1) g.2
    | none => s
  | .reserved _ _ _ | .held _ _ | .blocked => s

/-- The queues in the order of a trigger: the freed section's first, then the others by number (R77). -/
def queueOrder (first : Option SectionId) : List SectionId :=
  match first with
  | none => every 16
  | some n => n :: (every 16).filter (· != n)

/-- Re-evaluation for one trigger (R77). -/
def reevaluate (first : Option SectionId) (s : State) : State :=
  (queueOrder first).foldl (fun u n => examineQueue n u) s

/-! ## Releases, cancels, holds (R75, R76, R80) -/

/-- A released or dropped section becomes FREE, or BLOCKED while occupied (R75, R76). -/
def vacated (x : Section) : Section := { x with state := if x.occ then .blocked else .free }

/-- The trigger a vacated section gives (R77). -/
def vacateTrigger (n : SectionId) (x : Section) : Option SectionId := if x.occ then none else some n

/-- A HELD section that is not the head is released (R80). -/
def releaseHeld (t : TrainId) (n : SectionId) (s : State) : State :=
  let s1 := setSec n { s.secs[n] with state := .free } s
  let s2 := setTrain t { s1.trains[t] with hold := s1.trains[t].hold.filter (· != n) } s1
  reevaluate (some n) (appendCue s2.tables.sections[n].releaseCue .sectionCue s2)

/-- The RESERVED section of a train, where it has one. -/
def reservedBy (s : State) (t : TrainId) : Option SectionId :=
  (every 16).find? (fun n =>
    match s.secs[n].state with
    | .reserved u _ _ => u == t
    | .held _ _ | .free | .blocked => false)

/-- A cancel (R75); the train's reservation and arrival counter become absent with it. -/
def cancel (t : TrainId) (s : State) : State :=
  let s1 := dequeue t s
  let s2 := setTrain t { s1.trains[t] with res := none, arrival := none } s1
  match reservedBy s2 t with
  | none => s2
  | some n => reevaluate (vacateTrigger n s2.secs[n]) (setSec n (vacated s2.secs[n]) s2)

/-- A hold for TRAIN PLACE (R76): whether it is accepted, and the state. -/
def hold (t : TrainId) (n : SectionId) (s : State) : Bool × State :=
  if s.tables.sections[n].inUse then
    match s.secs[n].state with
    | .free | .blocked => (true, setSec n { s.secs[n] with state := .held t none } s)
    | .reserved _ _ _ | .held _ _ => (false, s)
  else (false, s)

/-- One section of a release all (R76). -/
def releaseOne (n : SectionId) (s : State) : State :=
  let x := s.secs[n]
  let u := appendCue s.tables.sections[n].releaseCue .sectionCue (setSec n (vacated x) s)
  reevaluate (vacateTrigger n x) u

/-- A release all (R76): the cancel, then every held section from the tail to the head. -/
def releaseAll (t : TrainId) (s : State) : State :=
  let s1 := cancel t s
  let u := s1.trains[t].hold.reverse.foldl (fun u n => releaseOne n u) s1
  setTrain t { u.trains[t] with hold := [] } u

/-- A renew for a train (R74): the phase after it, or none where the train has no reservation, and the state. -/
def renew (t : TrainId) (s : State) : Option Phase × State :=
  match reservedBy s t with
  | none => (none, s)
  | some n =>
    match s.secs[n].state with
    | .reserved _ .set _ => (some .set, s)
    | .reserved _ .setting _ =>
      let s1 := match s.tables.sections[n].guardAxis with
        | none => s
        | some a => if s.axes[a].state == .seeking then s else orderGuard n s
      let s2 := checkSetting n s1
      match s2.secs[n].state with
      | .reserved _ .set _ => (some .set, s2)
      | _ => (some .setting, s2)
    | .held _ _ | .free | .blocked => (none, s)

end Sys2Proof.Machine
end

