-- ==== Sys2Proof/Machine/Trains.lean ====
section
/-! DEFINITION. The Train Unit: the five train actions, the scene step, entries, cab faults and rest (Chapter 5), and the
detector event of the Reservation Unit that brings the entries (R78 to R80). -/

namespace Sys2Proof.Machine

/-! ## Train actions (R90 to R94, R99); each gives the reason of a refusal, or none -/

/-- TRAIN PLACE (R91). -/
def trainPlace (t : TrainId) (i : Nat) (s : State) : Option Reason × State :=
  match s.trains[t].state, routeAt s.tables.trains[t] i with
  | .parked, some n =>
    let h := hold t n s
    if h.1 then
      (none, setTrain t { h.2.trains[t] with
        state := .stopped, hold := [n], headIndex := i, speed := 0, target := 0 } h.2)
    else (some .state, s)
  | _, _ => (some .state, s)

/-- The chain is in FAULT (R130). -/
def chainFaulted (s : State) : Bool := s.chain.state == .fault

/-- Whether a halt reason lets a RUN resume (R99). -/
def mayResume (s : State) (t : TrainId) : HaltReason → Bool
  | .overrun | .lost | .length => false
  | .overload | .chain | .link | .allstop => true
  | .guard => (ownedBy s t).all (fun n =>
      match s.tables.sections[n].guardAxis with
      | none => true
      | some a => !axisFaulted s.axes[a])

/-- A RUN on a SETTING reservation renews it (R92, R99): SET gives RUNNING, SETTING what `holdBack` gives. -/
def renewRun (t : TrainId) (s : State) : State :=
  let a := renew t s
  match a.1 with
  | some .set => setTrain t (goRunning a.2.trains[t]) a.2
  | some .setting | none => setTrain t (holdBack a.2 .resume a.2.trains[t]) a.2

/-- A halted train is resumed (R99). -/
def resume (t : TrainId) (s : State) : State :=
  match s.trains[t].res with
  | some (_, .set) => setTrain t (goRunning s.trains[t]) s
  | some (_, .setting) => renewRun t s
  | none => sendRequest .resume t s

/-- TRAIN RUN (R92, R99). -/
def trainRun (t : TrainId) (s : State) : Option Reason × State :=
  let x := s.trains[t]
  if chainFaulted s || x.overload then (some .state, s)
  else
    match x.state with
    | .parked | .stopping => (some .state, s)
    | .stopped => (none, sendRequest .resume t s)
    | .waiting =>
      match x.res with
      | some (_, .setting) => (none, renewRun t s)
      | some (_, .set) | none => (none, s)
    | .running | .approach => (none, s)
    | .halted r => if mayResume s t r then (none, resume t s) else (some .state, s)

/-- A train is stopped with a cancel and goes to STOPPED (R89, R93). -/
def stopCancelled (t : TrainId) (s : State) : State :=
  let u := cancel t s
  setTrain t { u.trains[t] with state := .stopped, target := 0, retry := false, brakeDelay := none } u

/-- Whether STOP brings a halted train back (R93, R99). -/
def stopsHalt : HaltReason → Bool
  | .overload | .chain | .link | .allstop | .guard => true
  | .overrun | .lost | .length => false

/-- TRAIN STOP (R93). -/
def trainStop (t : TrainId) (s : State) : Option Reason × State :=
  let x := s.trains[t]
  match x.state with
  | .parked => (some .state, s)
  | .stopped | .stopping => (none, s)
  | .waiting => (none, stopCancelled t s)
  | .running => (none, setTrain t { x with state := .stopping, target := 0 } s)
  | .approach =>
    let u := dequeue t s
    (none, setTrain t { u.trains[t] with state := .stopping, target := 0, retry := false, brakeDelay := none } u)
  | .halted r => if x.speed = 0 ∧ stopsHalt r then (none, stopCancelled t s) else (some .state, s)

/-- A train after a clear (R94). -/
def cleared (x : Train) : Train :=
  { x with state := .parked, hold := [], res := none, queued := none, arrival := none, brakeDelay := none,
           retry := false, target := 0 }

/-- TRAIN CLEAR (R94). -/
def trainClear (t : TrainId) (s : State) : Option Reason × State :=
  let x := s.trains[t]
  let accepted := match x.state with
    | .stopped | .waiting => true
    | .halted _ => x.speed == 0
    | .parked | .running | .approach | .stopping => false
  if accepted then
    let u := releaseAll t s
    (none, setTrain t (cleared u.trains[t]) u)
  else (some .state, s)

/-- A train takes a new cruise in effect (R16, R90). -/
def takeCruise (speed : Nat) (x : Train) : Train :=
  let c := max speed 1
  match x.state, x.brakeDelay with
  | .running, _ => { x with cruise := c, target := c }
  | .approach, some _ => { x with cruise := c, target := min x.target c }
  | _, _ => { x with cruise := c }

/-- TRAIN CRUISE (R90). -/
def trainCruise (t : TrainId) (speed : Nat) (s : State) : State := setTrain t (takeCruise speed s.trains[t]) s

/-! ## The scene step (R87 to R89) -/

/-- The falling rate: emergency while HALTED, brake otherwise (R87). -/
def fallRate (r : TrainRec) : TrainState → Nat
  | .halted _ => r.emergency
  | .parked | .stopped | .waiting | .running | .approach | .stopping => r.brake

/-- The speed after one ramp (R87). -/
def rampSpeed (r : TrainRec) (x : Train) : Nat :=
  if x.speed < x.target then min x.target (x.speed + r.accel)
  else max x.target (x.speed - fallRate r x.state)

/-- The cab duty for a speed (R88). -/
def cabDuty (dmin speed : Nat) : Nat := if speed = 0 then 0 else dmin + ((255 - dmin) * speed + 127) / 255

/-- A train's ramp and cab duty (R87, R88). -/
def ramp (r : TrainRec) (x : Train) : Train :=
  { x with speed := rampSpeed r x, duty := cabDuty r.minDuty (rampSpeed r x) }

/-- The brake-delay counter runs out (R89 item 1); a counter not at its last step is left. -/
def brakeDelayEnds (x : Train) : Train :=
  match x.state, x.brakeDelay with
  | .approach, some n => if n ≤ 1 then { x with brakeDelay := none, target := 0 } else x
  | _, _ => x

/-- Item 1 of R89. -/
def brakeDelayStep (x : Train) : Train :=
  match x.state, x.brakeDelay with
  | .approach, some n => if n ≤ 1 then brakeDelayEnds x else { x with brakeDelay := some (n - 1) }
  | _, _ => x

/-- Whether the arrival counter counts (R89 item 2). -/
def countsArrival (x : Train) : Bool :=
  match x.state, x.res with
  | .running, some (_, .set) | .stopping, some (_, .set) => decide (0 < x.speed)
  | _, _ => false

/-- The arrival counter after one step, saturating (R89). -/
def arrivalNext (x : Train) : Nat := min 65535 (x.arrival.getD 0 + 1)

/-- Whether the next count reaches the arrival timeout (R89). -/
def arrivalDue (r : TrainRec) (x : Train) : Bool :=
  countsArrival x && r.timeout != 0 && decide (r.timeout ≤ arrivalNext x)

/-- The arrival counter reaches the timeout: the train halts LOST; otherwise nothing (R89 item 2). -/
def arrivalTimesOut (t : TrainId) (s : State) : State :=
  if arrivalDue s.tables.trains[t] s.trains[t] then
    halt .lost t (setTrain t { s.trains[t] with arrival := some (arrivalNext s.trains[t]) } s)
  else s

/-- Item 2 of R89. -/
def arrivalStep (t : TrainId) (s : State) : State :=
  if arrivalDue s.tables.trains[t] s.trains[t] then arrivalTimesOut t s
  else if countsArrival s.trains[t] then
    setTrain t { s.trains[t] with arrival := some (arrivalNext s.trains[t]) } s
  else s

/-- Item 3 of R89. -/
def standStill (t : TrainId) (s : State) : State :=
  let x := s.trains[t]
  match x.state with
  | .approach =>
    if x.speed = 0 then setTrain t { x with state := .waiting, target := 0, brakeDelay := none } s else s
  | .stopping => if x.speed = 0 then stopCancelled t s else s
  | .parked | .stopped | .waiting | .running | .halted _ => s

/-- Item 4 of R89. -/
def retryStep (t : TrainId) (s : State) : State :=
  let x := s.trains[t]
  let waits := match x.state with
    | .waiting | .approach => true
    | .parked | .stopped | .running | .stopping | .halted _ => false
  if waits && x.res.isNone && x.queued.isNone && x.retry then sendRequest .keep t s else s

/-- The four items of R89 for one train. -/
def trainWork (t : TrainId) (s : State) : State :=
  match s.trains[t].state with
  | .parked => s
  | .stopped | .waiting | .running | .approach | .stopping | .halted _ =>
    retryStep t (standStill t (arrivalStep t (setTrain t (brakeDelayStep s.trains[t]) s)))

/-- The ramp of one train. -/
def rampTrain (t : TrainId) (s : State) : State := setTrain t (ramp s.tables.trains[t] s.trains[t]) s

/-- The step work with every ramp before the items of R89. -/
def rampsFirst (s : State) : State :=
  (every 4).foldl (fun u t => trainWork t u) ((every 4).foldl (fun u t => rampTrain t u) s)

/-- The step work train by train, each ramp before its own items of R89. -/
def trainByTrain (s : State) : State := (every 4).foldl (fun u t => trainWork t (rampTrain t u)) s

/-- The Train Unit's work at a scene step, in train order (R87 to R89). Whether all ramps come before the other work is a
free choice (log entry 1), which makes no difference while at most one train is not PARKED. -/
def stepTrains (s : State) : State :=
  if ((every 4).filter (fun t => s.trains[t].state != .parked)).length ≤ 1 then rampsFirst s
  else
    let d := draw s
    if d.1 % 2 = 0 then rampsFirst d.2 else trainByTrain d.2

/-! ## Entries and detector events (R78 to R80, R97) -/

/-- The sections that would be held after an entry (R97). -/
def heldAfter (s : State) (x : Train) : Nat :=
  match x.hold.head? with
  | none => x.hold.length + 1
  | some h => if s.secs[h].occ then x.hold.length + 1 else x.hold.length

/-- The train's fields after a taken entry (R97). -/
def entered (r : TrainRec) (n : SectionId) (x : Train) : Train :=
  { x with hold := n :: x.hold, headIndex := (x.headIndex + 1) % r.length, res := none, arrival := none }

/-- An entry is taken (R79, R97): the section, its entry cue, the hold list, the release of the head before it, and then
the request of a RUNNING train, "as a request of its own after the entry has been taken" (R79). The manual does not say whether
the arrivals still to come in the same detector event precede that request: the model sends it at once, before them (DESIGN
CHOICE, log entry 36). -/
def takeEntry (t : TrainId) (n : SectionId) (kept : SectionId) (s : State) : State :=
  let before := s.trains[t].hold.head?
  let s1 := appendCue s.tables.sections[n].entryCue .sectionCue (setSec n { s.secs[n] with state := .held t (some kept) } s)
  let s2 := setTrain t (entered s1.tables.trains[t] n s1.trains[t]) s1
  let s3 := match before with
    | some h => if s2.secs[h].occ then s2 else releaseHeld t h s2
    | none => s2
  match s3.trains[t].state with
  | .running => sendRequest .entry t s3
  | .parked | .stopped | .waiting | .approach | .stopping | .halted _ => s3

/-- The arrival of a train's front at its SET reservation (R97). -/
def entry (t : TrainId) (n : SectionId) (kept : SectionId) (s : State) : State :=
  if 4 ≤ heldAfter s s.trains[t] then halt .length t s else takeEntry t n kept s

/-- The kept occupancy of a section takes its detector value. -/
def setOcc (n : SectionId) (v : Bool) (s : State) : State := setSec n { s.secs[n] with occ := v } s

/-- An arrival (R79). -/
def arrival (n : SectionId) (s : State) : State :=
  let u := setOcc n true s
  if u.tables.sections[n].inUse then
    match u.secs[n].state with
    | .reserved t .set kept => entry t n kept u
    | .reserved t .setting _ => halt .overrun t u
    | .free => latch .stray (.sectionAt n) (setSec n { u.secs[n] with state := .blocked } u)
    | .held _ _ | .blocked => u
  else u

/-- A clearing (R80). -/
def clearing (n : SectionId) (s : State) : State :=
  let u := setOcc n false s
  if u.tables.sections[n].inUse then
    match u.secs[n].state with
    | .held t _ => if u.trains[t].hold.head? = some n then u else releaseHeld t n u
    | .blocked => reevaluate (some n) (setSec n { u.secs[n] with state := .free } u)
    | .reserved _ _ _ | .free => u
  else u

/-- The detector event: clearings, then arrivals, in section order (R78). -/
def detectorEvent (v : SectionId → Bool) (s : State) : State :=
  let down := (every 16).filter (fun n => s.secs[n].occ && !v n)
  let up := (every 16).filter (fun n => !s.secs[n].occ && v n)
  up.foldl (fun u n => arrival n u) (down.foldl (fun u n => clearing n u) s)

/-! ## Cab faults and rest (R100, R101) -/

/-- The cab-fault event (R100); the trains it halts are taken in a free order (log entry 1). -/
def cabFaultEvent (v : TrainId → Bool) (s : State) : State :=
  let rising := (every 4).filter (fun t => v t && !s.trains[t].overload)
  let s1 := { s with trains := tab (fun t => { s.trains[t] with overload := v t }) }
  let a := arrange (rising.filter (fun t => haltReaches .overload s.trains[t])) s1
  a.1.foldl (fun u t => halt .overload t u) a.2

/-- Whether dormant entry brings the train to rest (R101). -/
def restsAtDormant (x : Train) : Bool :=
  match x.state with
  | .running | .approach | .waiting => true
  | .parked | .stopped | .stopping | .halted _ => false

/-- One train at dormant entry (R101): as TRAIN STOP, where the train is still RUNNING, APPROACH or WAITING. -/
def restTrain (t : TrainId) (s : State) : State :=
  if restsAtDormant s.trains[t] then (trainStop t s).2 else s

/-- Dormant entry reaches the trains (R101), in a free order (log entry 1). -/
def restTrains (s : State) : State :=
  let a := arrange ((every 4).filter (fun t => restsAtDormant s.trains[t])) s
  a.1.foldl (fun u t => restTrain t u) a.2

end Sys2Proof.Machine
end

