-- ==== Sys2Proof/Machine/AxisUnit.lean ====
section
/-! DEFINITION. The Axis Unit over the six axes: orders with their refusals, scene steps and frame periods, homing, faults,
all-stop, rest and wake (Chapter 6). -/

namespace Sys2Proof.Machine

/-! ## Stands and faults -/

/-- An axis takes a new state, and a stand is told to the Reservation Unit (R115, R81). -/
def putAxis (a : AxisId) (y : Axis × Bool) (s : State) : State :=
  let u := setAxis a y.1 s
  if y.2 then axisStandTold a u else u

/-- The owning trains of the sections that an axis guards are halted GUARD (R118), in a free order (log entry 1). -/
def haltOwners (a : AxisId) (s : State) : State :=
  let o := arrange (axisLockers s a).dedup s
  o.1.foldl (fun u t => halt .guard t u) o.2

/-- Whether a SET reservation is guarded by the axis. -/
def guardsSet (s : State) (a : AxisId) : Bool :=
  (every 16).any (fun n => s.tables.sections[n].guardAxis == some a &&
    (match s.secs[n].state with
      | .reserved _ .set _ => true
      | _ => false))

/-- An axis enters FAULT (R118): the notice, then the Reservation Unit is told and the owning trains are halted, either
first (log entry 1). A DRIVE fault of an axis in FAULT(HOME) or FAULT(CHAIN) is "a change of reason, latching AXIS_FAULT again":
the manual does not say whether the telling and the halts are made again, and the model makes them all again (DESIGN CHOICE, log
entry 38). -/
def faultAxis (reason : AxisFault) (a : AxisId) (s : State) : State :=
  let u := latch .axisFault (.axis a reason) (setAxis a (faultedAxis reason s.axes[a]) s)
  if guardsSet u a then
    let d := draw u
    if d.1 % 2 = 0 then haltOwners a (axisFaultTold a d.2) else axisFaultTold a (haltOwners a d.2)
  else haltOwners a u

/-- Faults of several axes in one event, in a free order (log entry 1). -/
def faultAxes (reason : AxisFault) (as : List AxisId) (s : State) : State :=
  let o := arrange as s
  o.1.foldl (fun u a => faultAxis reason a u) o.2

/-! ## Orders (R112 to R117) -/

/-- The orders of section 6.6. -/
inductive AxisOrder where
  | home
  | seek (position : Nat)
  | run (code : Nat)
  | park
  | follow
  | stop
deriving DecidableEq, Repr

/-- Table 6-1: whether the axis state refuses the order. -/
def stateRefuses (o : AxisOrder) (x : AxisState) : Bool :=
  match o, x with
  | .home, .idle | .home, .holding | .home, .fault _ => false
  | .home, _ => true
  | .seek _, .homing | .seek _, .fault _ | .park, .homing | .park, .fault _ | .run _, .homing | .run _, .fault _ => true
  | .seek _, _ | .park, _ | .run _, _ => false
  | .follow, .idle | .follow, .holding => false
  | .follow, _ => true
  | .stop, .fault _ => true
  | .stop, _ => false

/-- Whether the record refuses the order (R112 item 3). -/
def recordRefuses (o : AxisOrder) (r : AxisRec) : Bool :=
  match o with
  | .run _ => r.kind == .linear
  | .follow => r.kind == .linear || r.dial == .none
  | .home | .seek _ | .park | .stop => false

/-- Whether the order needs a known position (R112 item 4). -/
def needsKnown : AxisOrder → Bool
  | .seek _ | .park | .follow => true
  | .home | .run _ | .stop => false

/-- Whether the order is refused on a locked guard axis (R112 item 1). -/
def movesAxis : AxisOrder → Bool
  | .stop => false
  | .home | .seek _ | .run _ | .park | .follow => true

/-- The refusal of an order, by the first check of R112 that fails. -/
def orderRefusal (a : AxisId) (o : AxisOrder) (s : State) : Option Reason :=
  let x := s.axes[a]
  if movesAxis o && axisLocked s a then some .interlock
  else if stateRefuses o x.state || (o == .home && (chainFaulted s || x.faultIn)) then some .state
  else if recordRefuses o s.tables.axes[a] then some .state
  else if needsKnown o && !x.known then some .notHomed
  else none

/-- What an accepted order does to the axis. -/
def orderEffect (r : AxisRec) (o : AxisOrder) (x : Axis) : Axis × Bool :=
  match o with
  | .home => (homeOrder r x, false)
  | .seek p => seekOrder r p x
  | .park => seekOrder r r.park x
  | .run c => (runOrder r c x, false)
  | .follow => (followOrder x, false)
  | .stop => stopOrder r x

/-- An order: refused with a reason, or taken; an accepted order clears the follow-on-wake mark (R112). -/
def axisOrder (a : AxisId) (o : AxisOrder) (s : State) : Option Reason × State :=
  match orderRefusal a o s with
  | some r => (some r, s)
  | none =>
    let y := orderEffect s.tables.axes[a] o s.axes[a]
    (none, putAxis a ({ y.1 with follow := false }, y.2) s)

/-! ## Time -/

/-- One axis's scene step; an axis not in use does no step work (R104). -/
def stepAxis (a : AxisId) (s : State) : State :=
  if s.tables.axes[a].inUse then putAxis a (axisStep s.tables.axes[a] (modelSecond s) s.axes[a]) s else s

/-- The Axis Unit's work at a scene step. -/
def stepAxes (s : State) : State := (every 6).foldl (fun u a => stepAxis a u) s

/-- A stand or a homing beyond its limit that a frame period brought. -/
def periodEvent (e : AxisId × PeriodEvent) (s : State) : State :=
  match e.2 with
  | .none => s
  | .stand => axisStandTold e.1 s
  | .homeLimit => faultAxis .home e.1 s

/-- A step line that is held low gives no pulse (R181). -/
def quiet (low : Bool) (x : Axis) : Axis := if low then { x with pulses := 0 } else x

/-- One axis's frame period; an axis not in use does no step work (R104), and the step line stays low from a reset pin to the
first scene step (R181). -/
def frameOf (s : State) (a : AxisId) : Axis × PeriodEvent :=
  if s.tables.axes[a].inUse then
    let y := axisFrame s.tables.axes[a] s.axes[a]
    (quiet s.pinsLow y.1, y.2)
  else (s.axes[a], .none)

/-- The Axis Unit takes a frame period (R107); the events it brings are told in a free order (log entry 1). -/
def axisPeriod (s : State) : State :=
  let events := (every 6).filterMap (fun a =>
    let e := (frameOf s a).2
    if e = .none then none else some (a, e))
  let o := arrange events { s with axisDue := false, axes := tab (fun a => (frameOf s a).1) }
  o.1.foldl (fun u e => periodEvent e u) o.2

/-- A new frame period of an axis's step line: what it gave in the period that ends is kept, and its count begins anew (R181, log
entry 31). -/
def nextPulses (x : Axis) : Axis := { x with lastPulses := x.pulses, pulses := 0 }

/-- The step lines enter a new frame period. -/
def turnPulses (s : State) : State := { s with axes := tab (fun a => nextPulses s.axes[a]) }

/-- The home limit is passed: FAULT(HOME); a homing whose next step is not beyond its limit is left (R116). -/
def homeLimitPasses (a : AxisId) (s : State) : State :=
  if s.tables.axes[a].inUse && homeLimitDue s.tables.axes[a] s.axes[a] then faultAxis .home a s else s

/-! ## The inputs of a chain cycle (R116, R118) -/

/-- The axis has found home (R116). -/
def homeFound (r : AxisRec) (x : Axis) : Axis := { toHolding r true x with pos := 0, known := true }

/-- A homing axis in phase LEAVE goes to FIND (R116). -/
def homeTurns (r : AxisRec) (x : Axis) : Axis :=
  { x with homePhase := some .find, dir := r.homeDir, v := r.vs, acc := 0 }

/-- A homing axis finds home: the stand and then the completed homing are told (R116, R81). -/
def findHome (a : AxisId) (s : State) : State :=
  reevaluate none (putAxis a (homeFound s.tables.axes[a] s.axes[a], true) s)

/-- Whether an axis is homing in a phase. -/
def inPhase (x : Axis) (p : HomePhase) : Bool := x.state == .homing && x.homePhase == some p

/-- The home values of the event (R116); several homes found are told in a free order (log entry 1). -/
def homeEvent (v : AxisId → Bool) (s : State) : State :=
  let s1 := { s with axes := tab (fun a =>
    let x := { s.axes[a] with homeIn := v a }
    if inPhase x .leave && !v a then homeTurns s.tables.axes[a] x else x) }
  let o := arrange ((every 6).filter (fun a => inPhase s.axes[a] .find && v a)) s1
  o.1.foldl (fun u a => findHome a u) o.2

/-- Whether a rising AXFAULT value reaches the axis (R118). -/
def driveFaultReaches (s : State) (v : AxisId → Bool) (a : AxisId) : Bool :=
  s.tables.axes[a].inUse && v a && !s.axes[a].faultIn && s.axes[a].state != .fault .drive

/-- The input event of a chain cycle: the AXFAULT values, then the home values (R118). -/
def axisInputEvent (home fault : AxisId → Bool) (s : State) : State :=
  let rising := (every 6).filter (driveFaultReaches s fault)
  homeEvent home (faultAxes .drive rising
    { s with axes := tab (fun a => { s.axes[a] with faultIn := fault a }) })

/-! ## Requests from other blocks (R120 to R122) -/

/-- An axis is stopped as AXIS STOP does (R114). -/
def stopAxis (a : AxisId) (s : State) : State := putAxis a (stopOrder s.tables.axes[a] s.axes[a]) s

/-- The chain enters FAULT: every HOMING axis faults (R120). -/
def chainFaultAxes (s : State) : State :=
  faultAxes .chain ((every 6).filter (fun a => s.axes[a].state == .homing)) s

/-- The link goes LOST: every RUNNING axis stops (R120). -/
def linkLostAxes (s : State) : State :=
  (every 6).foldl (fun u a => if u.axes[a].state = .running then stopAxis a u else u) s

/-- ALL STOP for one axis (R121). -/
def allStopAxis (a : AxisId) (s : State) : State :=
  if s.tables.axes[a].inUse then
    match s.axes[a].state with
    | .homing | .seeking | .running => stopAxis a s
    | .following =>
      let y := stopOrder s.tables.axes[a] s.axes[a]
      putAxis a ({ y.1 with follow := false }, y.2) s
    | .idle | .holding | .stopping | .fault _ => s
  else s

/-- ALL STOP (R121). -/
def allStopAxes (s : State) : State := (every 6).foldl (fun u a => allStopAxis a u) s

/-- Dormant entry for one axis (R122). -/
def restAxis (hold : Bool) (a : AxisId) (s : State) : State :=
  let x := s.axes[a]
  let r := s.tables.axes[a]
  if r.inUse then
    match x.state with
    | .running => if !axisLocked s a && x.known then putAxis a (seekOrder r r.park x) s else stopAxis a s
    | .following => if hold then putAxis a ({ toHolding r x.arrived x with follow := true }, true) s else s
    | .homing | .seeking | .stopping | .idle | .holding | .fault _ => s
  else s

/-- Dormant entry (R122). -/
def restAxes (hold : Bool) (s : State) : State := (every 6).foldl (fun u a => restAxis hold a u) s

/-- The wake for one axis (R122). -/
def wakeAxis (x : Axis) : Axis :=
  if x.follow then
    match x.state, x.known with
    | .idle, true | .holding, true => { followOrder x with follow := false }
    | _, _ => { x with follow := false }
  else x

/-- The wake reaches the axes (R122). -/
def wakeAxes (s : State) : State := { s with axes := tab (fun a => wakeAxis s.axes[a]) }

end Sys2Proof.Machine
end

