-- ==== Sys2Proof/Machine/Node.lean ====
section
/-! DEFINITION. Node Control: the completion check, the requests it makes of the other blocks and when they are taken, dormant
requests and all-stop (Chapter 10). -/

namespace Sys2Proof.Machine

/-! ## The completion check (R171) -/

/-- An axis in motion for the completion of dormant entry (R171). -/
def axisMoves (x : Axis) : Bool :=
  match x.state with
  | .homing | .seeking | .running | .stopping => true
  | .idle | .holding | .following | .fault _ => false

/-- One of the four requests of dormant entry (R170). -/
def ofEntry : Req → Bool
  | .restClock _ | .restLists | .restTrains | .restAxes _ => true
  | .wakeClock | .wakeLists | .wakeAxes | .stopTrains | .stopAxes | .faultTrains | .faultAxes | .linkTrains
  | .linkAxes => false

/-- The three conditions of R171. -/
def atStand (s : State) : Bool :=
  (every 4).all (fun t => s.trains[t].speed == 0) && (every 6).all (fun a => !axisMoves s.axes[a]) &&
  s.chain.inFlight.isNone

/-- Node Control checks for the completion of dormant entry (R171). A check that falls due while a request of the entry is still
to be taken is made as the last of them is taken (log entry 27). -/
def nodeCheck (s : State) : State :=
  if s.node = .quiescing then
    if s.owed.any ofEntry then { s with checkDue := true }
    else if atStand s then { s with node := .dormant }
    else s
  else s

/-- A check that fell due while requests of the entry were to be taken is made, or left due while one still is (log entry 27). -/
def dueCheck (s : State) : State := if s.checkDue then nodeCheck { s with checkDue := false } else s

/-- The trains whose cab speed is not 0. -/
def rollingTrains (s : State) : List TrainId := (every 4).filter (fun t => s.trains[t].speed != 0)

/-- The axes in motion for the completion of dormant entry. -/
def movingAxes (s : State) : List AxisId := (every 6).filter (fun a => axisMoves s.axes[a])

/-- Whether an event ended one of the conditions that keep a node QUIESCING (R171): a train or an axis came to rest, or the
cycle completed. -/
def endedOne (s s' : State) : Bool :=
  (rollingTrains s).any (fun t => s'.trains[t].speed == 0) || (movingAxes s).any (fun a => !axisMoves s'.axes[a]) ||
  (s.chain.inFlight.isSome && s'.chain.inFlight.isNone)

/-- The check that follows an event that ends one of the conditions (R171). -/
def afterEvent (s s' : State) : State := if endedOne s s' then nodeCheck s' else s'

/-! ## Requests taken by the blocks (R146, R130, R170, R172, R173; log entry 6) -/

/-- A block takes one request. -/
def runReq (r : Req) (s : State) : State :=
  match r with
  | .restClock hold => if hold then setClock { s.clock with dormantHold := true } s else s
  | .restLists => restLists s
  | .restTrains => restTrains s
  | .restAxes hold => restAxes hold s
  | .wakeClock => setClock { s.clock with dormantHold := false } s
  | .wakeLists => wakeLists s
  | .wakeAxes => wakeAxes s
  | .stopTrains => haltAll .allstop s
  | .stopAxes => allStopAxes s
  | .faultTrains => haltAll .chain s
  | .faultAxes => chainFaultAxes s
  | .linkTrains => haltAll .link s
  | .linkAxes => linkLostAxes s

/-- A request as an event, with the check it may bring (R171); the last request of the entry is followed at once by a check that fell
due before it (log entry 27). -/
def reqEvent (r : Req) (s : State) : State := dueCheck (afterEvent s (runReq r s))

/-- The requests of a list are taken in order, and `left` stays owed. -/
def takeReqs (left : List Req) : List Req → State → State
  | [], s => { s with owed := left }
  | r :: rest, s => takeReqs left rest (reqEvent r { s with owed := rest ++ left })

/-- Between two events of one command, some of the owed requests may be taken (log entry 6). The manual orders the requests of one
asking, not those of two askings: the model takes them first asked, first taken, so that every block takes the earlier asking
before any block takes the later one (DESIGN CHOICE, log entry 39). -/
def settle (s : State) : State :=
  match s.owed with
  | [] => s
  | owed =>
    let d := draw s
    let n := owed.length - d.1 % (owed.length + 1)
    takeReqs (owed.drop n) (owed.take n) d.2

/-- At the end of a command every owed request is taken (log entry 6). -/
def finish (s : State) : State := takeReqs [] s.owed s

/-! ## Requests to Node Control (R169, R173) -/

/-- Dormant entry begins (R170). This event makes no check (R171); a check that falls due before the four requests have all been
taken is made as the last of them is taken (log entry 27). -/
def beginDormant (s : State) : State :=
  let hold := s.tables.node.policy == .hold
  handOn [.restClock hold, .restLists, .restTrains, .restAxes hold] { s with node := .quiescing, checkDue := false }

/-- A dormant request (R169): the reason of the refusal, or none. -/
def dormantRequest (s : State) : Option Reason × State :=
  if (latchOf s .wake).isSet then (some .state, s)
  else
    match s.node with
    | .active => (none, beginDormant s)
    | .quiescing | .dormant => (none, s)

/-- An ALL STOP request (R173). -/
def allStop (s : State) : State := handOn [.stopTrains, .stopAxes] s

end Sys2Proof.Machine
end

