-- ==== Sys2Proof/Machine/Actions.lean ====
section
/-! DEFINITION. The Cue Engine: the action kinds with their checks, action lists, and the take of a cue (Chapter 1). -/

namespace Sys2Proof.Machine

/-- The node is QUIESCING or DORMANT (R13). -/
def resting (s : State) : Bool :=
  match s.node with
  | .active => false
  | .quiescing | .dormant => true

/-- An action that is never refused. -/
def accepted (s : State) : Option Reason × State := (none, s)

/-- RANGE unless the item is in use, then the request (R14, R16 to R18). -/
def whenInUse (inUse : Bool) (s : State) (k : Option Reason × State) : Option Reason × State :=
  if inUse then k else (some .range, s)

/-- DORMANT while the node rests, then the request (R13). -/
def whenAwake (s : State) (k : Option Reason × State) : Option Reason × State :=
  if resting s then (some .dormant, s) else k

/-- One action of the list of cue code `code`, 0 for an EXECUTE (R10, R13 to R21): the reason of a refusal, or none. RANGE is
checked before DORMANT (log entry 9). -/
def runAction (code : Nat) (act : Action) (s : State) : Option Reason × State :=
  match act with
  | .none => accepted s
  | .lampSet c level units => whenInUse s.tables.lamps[c].inUse s (accepted (lampSet c level units s))
  | .lampRelease none => accepted (lampReleaseAll s)
  | .lampRelease (some c) => whenInUse s.tables.lamps[c].inUse s (accepted (lampRelease c s))
  | .groupSet g level units => accepted (groupSet g level units s)
  | .flagSet f => accepted (setFlag f ⟨true, none⟩ s)
  | .flagClear f => accepted (setFlag f ⟨false, none⟩ s)
  | .flagPulse f steps => accepted (flagPulse f steps s)
  | .listStart p => whenAwake s (listStart p s)
  | .listStop p => accepted (listStop p s)
  | .trainPlace t i =>
    whenInUse (s.tables.trains[t].inUse && decide (i < s.tables.trains[t].length)) s (trainPlace t i s)
  | .trainRun t => whenInUse s.tables.trains[t].inUse s (whenAwake s (trainRun t s))
  | .trainStop t => whenInUse s.tables.trains[t].inUse s (trainStop t s)
  | .trainClear t => whenInUse s.tables.trains[t].inUse s (trainClear t s)
  | .trainCruise t speed => whenInUse s.tables.trains[t].inUse s (accepted (trainCruise t speed s))
  | .pointThrow p q => whenInUse s.tables.points[p].inUse s (pointThrow p q s)
  | .axisHome a => whenInUse s.tables.axes[a].inUse s (whenAwake s (axisOrder a .home s))
  | .axisSeek a pos => whenInUse s.tables.axes[a].inUse s (whenAwake s (axisOrder a (.seek pos) s))
  | .axisRun a c =>
    whenInUse s.tables.axes[a].inUse s
      (if c = 0 then axisOrder a .stop s else whenAwake s (axisOrder a (.run c) s))
  | .axisPark a => whenInUse s.tables.axes[a].inUse s (whenAwake s (axisOrder a .park s))
  | .axisStop a => whenInUse s.tables.axes[a].inUse s (axisOrder a .stop s)
  | .axisFollow a => whenInUse s.tables.axes[a].inUse s (whenAwake s (axisOrder a .follow s))
  | .clockHold => accepted (clockHold s)
  | .clockResume => accepted (clockResume s)
  | .clockRate r => accepted (clockRate r s)
  | .clockSet h m => accepted (fillPendingSet (clockSetPending h m) s)
  | .nodeDormant => dormantRequest s
  | .nodeWake => accepted (wake (.action code) s)
  | .allStop => accepted (allStop s)
  | .cue c => accepted (appendCue c .action s)

/-- The result of a list run: how many actions were refused, and the first reason (R9). -/
structure ListResult where
  refused : Nat
  first : Option Reason
deriving DecidableEq, Repr

/-- One action of a list as an event: a refusal latches REFUSED (R8), and the completion check follows where the action
ended a condition of it (R171). -/
def runOne (code position : Nat) (act : Action) (s : State) : Option Reason × State :=
  let s1 := settle s
  let a := runAction code act s1
  match a.1 with
  | none => (none, afterEvent s1 a.2)
  | some r => (some r, afterEvent s1 (latch .refused (.refused code position r) a.2))

/-- An action list, in order, from a position (R7, R9). -/
def runList (code : Nat) : Nat → List Action → State → ListResult × State
  | _, [], s => (⟨0, none⟩, s)
  | position, act :: rest, s =>
    let a := runOne code position act s
    let r := runList code (position + 1) rest a.2
    match a.1 with
    | none => r
    | some reason => (⟨r.1.refused + 1, some reason⟩, r.2)

/-- The record of the action pool at an index. -/
def poolAt (s : State) (i : Nat) : ActionRec := if h : i < 512 then s.tables.pool[i] else ⟨0, 0, 0, 0⟩

/-- The action list of a cue code (R4, R7). Every stored record is an action, because R5 refuses the others. -/
def cueList (s : State) (code : Nat) : List Action :=
  if h : code < 256 then
    let m := s.tables.cueMap[code]
    (List.range m.count).filterMap (fun i => decodeAction (poolAt s (m.first + i)))
  else []

/-- Whether a code is in the wake set (R12). -/
def inWakeSet (s : State) (code : Nat) : Bool := s.tables.wakeSet.getLsbD code

/-- The handling of a taken cue by the node state (R11). -/
def handleCue (code : Nat) (s : State) : State :=
  match s.node, inWakeSet s code with
  | .active, _ | .quiescing, false => (runList code 0 (cueList s code) s).2
  | .quiescing, true | .dormant, true => (runList code 0 (cueList s code) (wake (.cue code) s)).2
  | .dormant, false => s

/-- The most takes of one frame period (R6). -/
def maxTakes : Nat := 2

/-- The Cue Engine takes the cue at the head of the queue, at most two in a frame period (R6). -/
def takeCue (s : State) : State :=
  match s.cue.queue with
  | [] => s
  | c :: rest =>
    if s.cue.takes < maxTakes then
      handleCue c.code { s with cue := { s.cue with queue := rest, takes := s.cue.takes + 1 } }
    else s

end Sys2Proof.Machine
end

