-- ==== Sys2Proof/Machine/Chain.lean ====
section
/-! DEFINITION. The Chain Unit: output sources and snapshot, the chain cycle, chain states, debounce, hand-offs and watches
(Chapter 7). -/

namespace Sys2Proof.Machine

/-! ## Lengths (R124) -/

/-- The chain is configured (R124). -/
def configured (s : State) : Bool := s.tables.node.outRegs != 0 || s.tables.node.inRegs != 0

/-! ## Output sources (Table 7-1, R82, R102, R123, R126) -/

/-- FEED(n) (R82). -/
def feedOn (s : State) (n : SectionId) : Bool :=
  s.tables.sections[n].inUse &&
  (match s.secs[n].state with
    | .held _ _ | .reserved _ .set _ => true
    | .reserved _ .setting _ | .free | .blocked => false)

/-- CABBIT(n, bit) (R82). -/
def cabBit (s : State) (n : SectionId) (bit : Nat) : Bool :=
  s.tables.sections[n].inUse &&
  (match ownerOf s.secs[n].state with
    | some t => t.val.testBit bit
    | none => false)

/-- A train's reservation is SET. -/
def resIsSet (x : Train) : Bool :=
  match x.res with
  | some (_, .set) => true
  | some (_, .setting) | none => false

/-- SIGNAL(n) (R82). -/
def signalOn (s : State) (n : SectionId) : Bool :=
  s.tables.sections[n].inUse &&
  (every 4).any (fun t => s.trains[t].hold.head? == some n && resIsSet s.trains[t])

/-- COIL(p, position) (R65, R82). -/
def coilOn (s : State) (p : PointId) (q : PointPos) : Bool :=
  s.tables.points[p].inUse &&
  (match s.pts[p].motion with
    | some m => m.target == q && m.coilCount != 0
    | none => false)

/-- The position a COIL variant names (Table 11-4). -/
def variantPos (v : Nat) : PointPos := if v = 0 then .normal else .reverse

/-- A source that reads an item, off where the stored index names none. -/
def sourceOf {n : Nat} (index : Nat) (f : Fin n → Bool) : Bool :=
  match item n index with
  | some i => f i
  | none => false

/-- The on/off value of a source (Table 7-1, R126). -/
def sourceValue (s : State) (e : OutEntry) : Bool :=
  match e.source with
  | .zero => false
  | .one => true
  | .lamp => sourceOf e.index (fun c : ChannelId => s.tables.lamps[c].inUse && s.lamp.chans[c].on)
  | .flag => sourceOf e.index (fun f : FlagId => s.cue.flags[f].on)
  | .line => sourceOf e.index (fun l : LineId => sceneLine s l)
  | .feed => sourceOf e.index (feedOn s)
  | .cabbit => sourceOf e.index (fun n : SectionId => cabBit s n e.variant)
  | .signal => sourceOf e.index (signalOn s)
  | .coil => sourceOf e.index (fun p : PointId => coilOn s p (variantPos e.variant))
  | .running => sourceOf e.index (fun t : TrainId => s.trains[t].state == .running)
  | .inpos => sourceOf e.index (fun a : AxisId => s.tables.axes[a].inUse && s.axes[a].arrived)
  | .dormant => s.node == .dormant

/-- The value of output entry k, after its invert (R126). -/
def outputBit (s : State) (k : OutputId) : Bool := s.tables.outMap[k].invert ^^ sourceValue s s.tables.outMap[k]

/-- The snapshot: the entries below the output length; the bits beyond are off (R128). -/
def snapshot (s : State) : BitVec 128 :=
  (every 128).foldl (fun image k =>
    if k.val < 8 * s.tables.node.outRegs && outputBit s k then image ||| BitVec.twoPow 128 k.val else image) 0

/-! ## The scene step (R127, R128, R130, R135) -/

/-- A hold-off count decreases; at its last step it ends (R135). -/
def holdOffStep (w : Watch) : Watch := { w with holdOff := w.holdOff - 1 }

/-- A hold-off count reaches 0; one not at its last step is left (R135). -/
def holdOffEnds (w : Watch) : Watch := if w.holdOff ≤ 1 then { w with holdOff := 0 } else w

/-- The dormant step count after a step, and whether the step would start a cycle (R127). -/
def cycleDue (s : State) : Nat × Bool :=
  match s.node with
  | .active | .quiescing => (0, true)
  | .dormant => if 10 ≤ s.chain.dormSteps + 1 then (0, true) else (s.chain.dormSteps + 1, false)

/-- A cycle starts (R128); at the first start after OFF the state becomes OK with both counters 0 (R130). -/
def startCycle (s : State) : State :=
  let image := snapshot s
  let c := { s.chain with image := image, inFlight := some ⟨s.tables.node.outRegs, s.tables.node.inRegs⟩,
                          load := true, strobe := false }
  match s.chain.state with
  | .off => { s with chain := { c with state := .ok, breaks := 0, goods := 0 } }
  | .ok | .fault => { s with chain := c }

/-- The Chain Unit's work at a scene step. A step that finds the chain not configured takes it to OFF, and a cycle in flight is
abandoned with it: in OFF no cycle completes (R130, R132, R171; log entry 26). -/
def stepChain (s : State) : State :=
  let d := cycleDue s
  let c := { s.chain with watches := tab (fun w => holdOffStep s.chain.watches[w]), dormSteps := d.1 }
  if configured s then
    if d.2 && s.chain.inFlight.isNone then startCycle { s with chain := c } else { s with chain := c }
  else { s with chain := { c with state := .off, breaks := 0, goods := 0, inFlight := none } }

/-! ## Input values (R132, R133) -/

/-- The input value of an input: debounced, after its invert (R132). -/
def inputValue (s : State) (k : InputId) : Bool := s.tables.inMap[k].invert ^^ s.chain.inputs[k].deb

/-- The value of a role's target; off where no input has the role (R133). -/
def roleValue (s : State) (role : InRole) (target : Nat) : Bool :=
  (every 64).any (fun k =>
    s.tables.inMap[k].role == role && s.tables.inMap[k].target == target && inputValue s k)

/-- One input's debounce pass with the setting n (R132). -/
def debounce (n : Nat) (x : Input) : Input :=
  if x.raw = x.deb then { x with count := 0 }
  else if n ≤ x.count then { x with deb := x.raw, count := 0 }
  else { x with count := x.count + 1 }

/-- The debounce pass over all inputs (R132). -/
def debouncePass (s : State) : State :=
  { s with chain := { s.chain with
      inputs := tab (fun k => debounce s.tables.inMap[k].debounce s.chain.inputs[k]) } }

/-! ## Watches (R134 to R137) -/

/-- The 64 input values, input k at bit k. -/
def inputValues (s : State) : BitVec 64 :=
  (every 64).foldl (fun v k => if inputValue s k then v ||| BitVec.twoPow 64 k.val else v) 0

/-- A watch matches (R134). -/
def watchMatches (r : WatchRec) (values : BitVec 64) : Bool := (values ^^^ r.pattern) &&& r.mask == 0

/-- A watch fires (R137): the wake, then the cue. -/
def fireWatch (w : WatchId) (s : State) : State :=
  let r := s.tables.watches[w]
  appendCue r.code .input (if r.wake then wake (.watch w) s else s)

/-- One watch is evaluated (R136). -/
def evalWatch (values : BitVec 64) (w : WatchId) (s : State) : State :=
  let r := s.tables.watches[w]
  let x := s.chain.watches[w]
  if r.inUse then
    if watchMatches r values && !x.isMatch && x.holdOff == 0 then fireWatch w (setWatch w ⟨true, r.holdOff⟩ s)
    else setWatch w { x with isMatch := watchMatches r values } s
  else s

/-- The watch evaluation of a completion, in watch order (R136). -/
def evalWatches (s : State) : State :=
  let values := inputValues s
  (every 16).foldl (fun u w => evalWatch values w u) s

/-- The match states taken afresh, without firing, of the watches that a test picks out (R135). -/
def freshMatches (f : WatchId → Bool) (s : State) : State :=
  let values := inputValues s
  { s with chain := { s.chain with
      watches := tab (fun w =>
        if f w then { s.chain.watches[w] with isMatch := watchMatches s.tables.watches[w] values }
        else s.chain.watches[w]) } }

/-! ## Completion (R129, R130, R133) -/

/-- The receivers of a good completion's values, and Node Control's check (R133, R171). -/
inductive HandOff where
  | detectors
  | cabs
  | axes
  | watches
  | check
deriving DecidableEq, Repr

/-- One receiver takes its event. -/
def handOff (h : HandOff) (s : State) : State :=
  match h with
  | .detectors => detectorEvent (fun n => roleValue s .detector n.val) s
  | .cabs => cabFaultEvent (fun t => roleValue s .cabfault t.val) s
  | .axes => axisInputEvent (fun a => roleValue s .home a.val) (fun a => roleValue s .axfault a.val) s
  | .watches => evalWatches s
  | .check => nodeCheck s

/-- The receivers take their events one after another. -/
def handOffs (hs : List HandOff) (s : State) : State :=
  hs.foldl (fun u h => let v := settle u; afterEvent v (handOff h v)) s

/-- The chain's own fields after a completion: outputs, raw inputs and counters (R129, R130). -/
def completed (good : Bool) (cyc : Cycle) (inputs : BitVec 64) (c : Chain) : Chain :=
  if good then
    { c with
      latched := c.image
      strobe := true
      load := false
      inFlight := none
      inputs := tab (fun k =>
        { c.inputs[k] with raw := decide (k.val < 8 * cyc.inRegs) && inputs.getLsbD k.val })
      goods := min 255 (c.goods + 1)
      breaks := 0 }
  else
    { c with strobe := false, load := false, inFlight := none, goods := 0, breaks := min 255 (c.breaks + 1) }

/-- The state after a completion, from the counters already changed (R130). -/
def nextChainState (good : Bool) (c : Chain) : ChainState :=
  match c.state, good with
  | .ok, false => if 3 ≤ c.breaks then .fault else .ok
  | .fault, true => if 3 ≤ c.goods then .ok else .fault
  | st, _ => st

/-- The chain changes state by a completion: CHAIN is latched, and on entering FAULT the Train Unit and the Axis Unit are
told (R130). -/
def chainTurns (to_ : ChainState) (s : State) : State :=
  if s.chain.state = to_ then s
  else
    let u := latch .chain (.chain (to_ == .fault)) { s with chain := { s.chain with state := to_ } }
    if to_ = .fault then handOn [.faultTrains, .faultAxes] u else u

/-- The marker of a whole chain (R128). -/
def marker : Byte := 0xA5

/-- A chain cycle completes (R129 to R133); with no cycle in flight, and in OFF, nothing completes (R132). -/
def completeCycle (ret : Byte) (inputs : BitVec 64) (s : State) : State :=
  match s.chain.state, s.chain.inFlight with
  | .off, _ | _, none => s
  | _, some cyc =>
    let good := ret == marker
    let c := completed good cyc inputs s.chain
    let u := chainTurns (nextChainState good c) { s with chain := c }
    if good && u.chain.state == .ok then
      let o := arrange [.detectors, .cabs, .axes, .watches, .check] (debouncePass u)
      handOffs o.1 o.2
    else nodeCheck (settle u)

end Sys2Proof.Machine
end

