-- ==== Sys2Proof/Machine/Tables.lean ====
section
/-! DEFINITION. The records of the sixteen tables as bytes: decoding with the clamps and refusals of each owner, and encoding
in stored form (Table 11-4, Table 11-5, R177 and the record rule of each chapter). A decoder answers none for BAD_RECORD. -/

namespace Sys2Proof.Machine

/-- Byte i of a record. -/
def at_ (bs : List Byte) (i : Nat) : Nat := (bs.getD i 0).toNat

/-- The two-byte value at offset i (R177). -/
def at2 (bs : List Byte) (i : Nat) : Nat := at_ bs i * 256 + at_ bs (i + 1)

/-- A yes/no field at offset i (R177). -/
def yesAt (bs : List Byte) (i : Nat) : Bool := yes (bs.getD i 0)

/-- A value brought between two bounds. -/
def clamp (lo hi n : Nat) : Nat := max lo (min hi n)

/-! ## Named values (Table 11-5) -/

/-- Dormant clock policy. -/
def decPolicy : Nat → Option Policy
  | 0 => some .keep
  | 1 => some .hold
  | _ => none

/-- Dormant clock policy as its code. -/
def encPolicy : Policy → Nat
  | .keep => 0
  | .hold => 1

/-- List mode. -/
def decListMode : Nat → Option ListMode
  | 0 => some .once
  | 1 => some .loop
  | 2 => some .restart
  | _ => none

/-- List mode as its code. -/
def encListMode : ListMode → Nat
  | .once => 0
  | .loop => 1
  | .restart => 2

/-- Lamp mode. -/
def decLampMode : Nat → Option LampMode
  | 0 => some .follow
  | 1 => some .cue
  | 2 => some .highest
  | 3 => some .lowest
  | _ => none

/-- Lamp mode as its code. -/
def encLampMode : LampMode → Nat
  | .follow => 0
  | .cue => 1
  | .highest => 2
  | .lowest => 3

/-- Direction and home direction. -/
def decDir : Nat → Option Dir
  | 0 => some .forward
  | 1 => some .reverse
  | _ => none

/-- Direction as its code. -/
def encDir : Dir → Nat
  | .forward => 0
  | .reverse => 1

/-- Axis kind. -/
def decKind : Nat → Option AxisKind
  | 0 => some .rotary
  | 1 => some .linear
  | _ => none

/-- Axis kind as its code. -/
def encKind : AxisKind → Nat
  | .rotary => 0
  | .linear => 1

/-- Axis policy. -/
def decAxisPolicy : Nat → Option AxisPolicy
  | 0 => some .forward
  | 1 => some .shortest
  | _ => none

/-- Axis policy as its code. -/
def encAxisPolicy : AxisPolicy → Nat
  | .forward => 0
  | .shortest => 1
  | .unread n => n

/-- Follow dial. -/
def decDial : Nat → Option Dial
  | 0 => some .none
  | 1 => some .second
  | 2 => some .minute
  | 3 => some .hour12
  | 4 => some .day
  | _ => none

/-- Follow dial as its code. -/
def encDial : Dial → Nat
  | .none => 0
  | .second => 1
  | .minute => 2
  | .hour12 => 3
  | .day => 4
  | .unread n => n

/-- A byte that only a ROTARY record reads: any byte of a LINEAR record is stored (R103, R177). -/
def orUnread {α : Type} (k : AxisKind) (unread : Nat → α) (n : Nat) (named : Option α) : Option α :=
  match k, named with
  | _, some x => some x
  | .linear, none => some (unread n)
  | .rotary, none => none

/-- Output source. -/
def decOutSource : Nat → Option OutSource
  | 0 => some .zero
  | 1 => some .one
  | 2 => some .lamp
  | 3 => some .flag
  | 4 => some .line
  | 5 => some .feed
  | 6 => some .cabbit
  | 7 => some .signal
  | 8 => some .coil
  | 9 => some .running
  | 10 => some .inpos
  | 11 => some .dormant
  | _ => none

/-- Output source as its code. -/
def encOutSource : OutSource → Nat
  | .zero => 0
  | .one => 1
  | .lamp => 2
  | .flag => 3
  | .line => 4
  | .feed => 5
  | .cabbit => 6
  | .signal => 7
  | .coil => 8
  | .running => 9
  | .inpos => 10
  | .dormant => 11

/-- Input role. -/
def decRole : Nat → Option InRole
  | 0 => some .none
  | 1 => some .detector
  | 2 => some .home
  | 3 => some .cabfault
  | 4 => some .axfault
  | _ => none

/-- Input role as its code. -/
def encRole : InRole → Nat
  | .none => 0
  | .detector => 1
  | .home => 2
  | .cabfault => 3
  | .axfault => 4

/-! ## Tables 0 to 6 -/

/-- Table 0 (R146, R124, R157). -/
def decNode (bs : List Byte) : Option NodeSettings :=
  (decPolicy (at_ bs 3)).map (fun p => ⟨max 5 (at_ bs 0), min 16 (at_ bs 1), min 8 (at_ bs 2), p⟩)

/-- Table 0 in stored form. -/
def encNode (r : NodeSettings) : List Byte := [byte r.timeout, byte r.outRegs, byte r.inRegs, byte (encPolicy r.policy)]

/-- Table 1 (R4): the count is clamped before the end of the list is checked (log entry 29). -/
def decCueMap (bs : List Byte) : Option CueMapRec :=
  let count := min 4 (at_ bs 2)
  if 512 < at2 bs 0 + count then none else some ⟨at2 bs 0, count⟩

/-- Table 1 in stored form. -/
def encCueMap (r : CueMapRec) : List Byte := bytes2 r.first ++ [byte r.count]

/-- Table 2 and the records of an EXECUTE (R5, R178). -/
def decPool (bs : List Byte) : Option ActionRec :=
  if (decodeAction (actionRec bs)).isSome then some (actionRec bs) else none

/-- Table 2 in stored form. -/
def encPool (r : ActionRec) : List Byte := [byte r.kind, byte r.p1, byte r.p2, byte r.p3]

/-- Table 3 (R31). -/
def decListDir (bs : List Byte) : Option ListDirRec :=
  if 511 < at2 bs 0 then none else (decListMode (at_ bs 2)).map (fun m => ⟨at2 bs 0, m, at_ bs 3⟩)

/-- Table 3 in stored form. -/
def encListDir (r : ListDirRec) : List Byte := bytes2 r.start ++ [byte (encListMode r.mode), byte r.endCue]

/-- Table 4 (R32). -/
def decListEntry (bs : List Byte) : Option ListEntry :=
  match at_ bs 0 with
  | 0 => some ⟨false, at2 bs 1, at_ bs 3⟩
  | 1 => some ⟨true, at2 bs 1, at_ bs 3⟩
  | _ => none

/-- Table 4 in stored form. -/
def encListEntry (r : ListEntry) : List Byte := [flagByte r.isEnd] ++ bytes2 r.delay ++ [byte r.code]

/-- Table 5 (R28). -/
def decAlarm (bs : List Byte) : Option AlarmRec :=
  some ⟨yesAt bs 0, min 86399 (at_ bs 1 * 65536 + at2 bs 2), at_ bs 4, yesAt bs 5⟩

/-- Table 5 in stored form. -/
def encAlarm (r : AlarmRec) : List Byte :=
  [flagByte r.inUse, byte (r.second / 65536)] ++ bytes2 r.second ++ [byte r.code, flagByte r.wake]

/-- Minutes strictly ascending (R42). -/
def ascending : List CurvePoint → Bool
  | [] => true
  | p :: rest =>
    (match rest with
      | [] => true
      | q :: _ => decide (p.minute < q.minute)) && ascending rest

/-- Table 6 (R42): each of the sixteen minutes is clamped (log entry 24). -/
def decCurve (bs : List Byte) : Option CurveRec :=
  let count := min 16 (at_ bs 0)
  let points : Vector CurvePoint 16 :=
    tab (fun k => ⟨min 1439 (at2 bs (1 + 3 * k.val)), at_ bs (3 + 3 * k.val)⟩)
  if ascending (points.toList.take count) then some ⟨count, points⟩ else none

/-- Table 6 in stored form. -/
def encCurve (r : CurveRec) : List Byte :=
  byte r.count :: r.points.toList.flatMap (fun p => bytes2 p.minute ++ [byte p.level])

/-! ## Tables 7 to 11 -/

/-- A lamp drive: pins 0 to 15, 16 for CHAIN (Table 11-4). -/
def decDrive (n : Nat) : Option Drive :=
  if n = 16 then some .chain else (item 16 n).map .pin

/-- A lamp drive as its code. -/
def encDrive : Drive → Nat
  | .pin p => p.val
  | .chain => 16

/-- Table 7 (R40), but for the pin clash. -/
def decLamp (bs : List Byte) : Option LampRec := do
  let drive ← decDrive (at_ bs 1)
  let curve ← optItem 8 (bs.getD 2 0)
  let group ← item 8 (at_ bs 3)
  let mode ← decLampMode (at_ bs 4)
  let line ← optItem 8 (bs.getD 8 0)
  pure ⟨yesAt bs 0, drive, curve, group, mode, min (at_ bs 5) (at_ bs 6), at_ bs 6, at_ bs 7, line, at_ bs 9,
    max 1 (at_ bs 10)⟩

/-- Table 7 in stored form. -/
def encLamp (r : LampRec) : List Byte :=
  [flagByte r.inUse, byte (encDrive r.drive), optByte r.curve, byte r.group.val, byte (encLampMode r.mode), byte r.lo,
   byte r.hi, byte r.dormant, optByte r.flashLine, byte r.flashLevel, byte r.threshold]

/-- Two in-use records that name the same PWM pin (R40). -/
def pinClash (a b : LampRec) : Bool :=
  a.inUse && b.inUse &&
  (match a.drive, b.drive with
    | .pin p, .pin q => p == q
    | _, _ => false)

/-- A next or from byte: a section or none (R59). -/
def branchOk (v : Nat) : Bool := decide (v ≤ 15) || v == 255

/-- The checks of the branches of a present point: their range, the same section, the own index (R59). Those of an absent point
are stored as written (R177). -/
def branchesOk (own : Nat) (p : Option PointId) (x y : Nat) : Bool :=
  p.isNone || (branchOk x && branchOk y && (x == 255 || x != y) && x != own && y != own)

/-- Table 8 (R59; log entry 24), as record `own` of the table. -/
def decSection (own : Nat) (bs : List Byte) : Option SectionRec := do
  let exit ← optItem 8 (bs.getD 1 0)
  let entry ← optItem 8 (bs.getD 4 0)
  let guard_ ← optItem 6 (bs.getD 7 0)
  if branchesOk own exit (at_ bs 2) (at_ bs 3) && branchesOk own entry (at_ bs 5) (at_ bs 6) then
    pure ⟨yesAt bs 0, exit, at_ bs 2, at_ bs 3, entry, at_ bs 5, at_ bs 6, guard_, at2 bs 8, at_ bs 10, at_ bs 11,
      at_ bs 12⟩
  else none

/-- Table 8 in stored form. -/
def encSection (r : SectionRec) : List Byte :=
  [flagByte r.inUse, optByte r.exitPoint, byte r.nextNormal, byte r.nextReverse, optByte r.entryPoint,
   byte r.fromNormal, byte r.fromReverse, optByte r.guardAxis] ++ bytes2 r.guardPos ++
  [byte r.brakeDelay, byte r.entryCue, byte r.releaseCue]

/-- Table 9 (R83). -/
def decTrain (bs : List Byte) : Option TrainRec := do
  let dir ← decDir (at_ bs 1)
  let length := at_ bs 9
  let route : Vector Nat 32 := tab (fun k => at_ bs (10 + k.val))
  if length ≤ 32 ∧ (route.toList.take length).all (fun n => decide (n ≤ 15)) then
    pure ⟨yesAt bs 0, dir, max 1 (at_ bs 2), max 1 (at_ bs 3), max 1 (at_ bs 4), max 1 (at_ bs 5), at_ bs 6,
      at2 bs 7, length, route⟩
  else none

/-- Table 9 in stored form. -/
def encTrain (r : TrainRec) : List Byte :=
  [flagByte r.inUse, byte (encDir r.dir), byte r.cruise, byte r.accel, byte r.brake, byte r.emergency,
   byte r.minDuty] ++ bytes2 r.timeout ++ [byte r.length] ++ r.route.toList.map byte

/-- The steps of a route, the last entry back to the first included (R84). -/
def routeSteps (r : TrainRec) : List (SectionId × SectionId) :=
  (List.range r.length).filterMap (fun i =>
    match routeAt r i, routeAt r ((i + 1) % r.length) with
    | some a, some b => some (a, b)
    | _, _ => none)

/-- Cyclic distance of two route positions, i below j (R84). -/
def cyclic (length i j : Nat) : Nat := min (j - i) (length - (j - i))

/-- Two entries of one section nearer than 4 (R84). -/
def tooClose (r : TrainRec) : Bool :=
  (List.range r.length).any (fun j => (List.range j).any (fun i =>
    routeAt r i == routeAt r j && decide (cyclic r.length i j < 4)))

/-- The route check of an in-use record against table 8 (R84). -/
def routeBad (secs : Vector SectionRec 16) (r : TrainRec) : Bool :=
  r.inUse && (r.length == 0 || tooClose r || (routeSteps r).any (fun st => !reachable secs st.1 st.2))

/-- Table 10 (R64). -/
def decPoint (bs : List Byte) : Option PointRec :=
  let pulse := clamp 1 50 (at_ bs 1)
  some ⟨yesAt bs 0, pulse, max pulse (at_ bs 2)⟩

/-- Table 10 in stored form. -/
def encPoint (r : PointRec) : List Byte := [flagByte r.inUse, byte r.pulse, byte r.throw]

/-- A rotary steps value of 0 or 1 is clamped to 2 (R103). -/
def clampSteps (k : AxisKind) (n : Nat) : Nat :=
  match k with
  | .rotary => max 2 n
  | .linear => n

/-- Table 11 (R103; log entry 24). -/
def decAxis (bs : List Byte) : Option AxisRec := do
  let kind ← decKind (at_ bs 1)
  let dir ← decDir (at_ bs 10)
  let policy ← orUnread kind .unread (at_ bs 16) (decAxisPolicy (at_ bs 16))
  let dial ← orUnread kind .unread (at_ bs 17) (decDial (at_ bs 17))
  let vmax := clamp 1 4000 (at2 bs 6)
  if kind = .linear ∧ dir = .forward then none
  else
    pure ⟨yesAt bs 0, kind, clampSteps kind (at2 bs 2), min vmax (clamp 1 4000 (at2 bs 4)), vmax,
      clamp 1 4000 (at2 bs 8), dir, max 1 (at2 bs 11), at_ bs 13, at2 bs 14, policy, dial, at2 bs 18⟩

/-- Table 11 in stored form. -/
def encAxis (r : AxisRec) : List Byte :=
  [flagByte r.inUse, byte (encKind r.kind)] ++ bytes2 r.steps ++ bytes2 r.vs ++ bytes2 r.vmax ++ bytes2 r.accel ++
  [byte (encDir r.homeDir)] ++ bytes2 r.homeLimit ++ [byte r.holdSteps] ++ bytes2 r.park ++
  [byte (encAxisPolicy r.policy), byte (encDial r.dial)] ++ bytes2 r.offset

/-! ## Tables 12 to 15 -/

/-- How many items a source's index may name; none where the index is not read (Table 7-1, R125). -/
def sourceRange : OutSource → Option Nat
  | .zero | .one | .dormant => none
  | .lamp => some 48
  | .flag => some 32
  | .line => some 8
  | .feed | .cabbit | .signal => some 16
  | .coil => some 8
  | .running => some 4
  | .inpos => some 6

/-- Whether the variant byte is allowed (R125). -/
def variantOk (src : OutSource) (v : Nat) : Bool :=
  match src with
  | .cabbit | .coil => decide (v ≤ 1)
  | .zero | .one | .lamp | .flag | .line | .feed | .signal | .running | .inpos | .dormant => true

/-- Table 12 (R125). -/
def decOut (bs : List Byte) : Option OutEntry := do
  let src ← decOutSource (at_ bs 0)
  if ((sourceRange src).all (fun n => decide (at_ bs 1 < n))) && variantOk src (at_ bs 2) then
    pure ⟨src, at_ bs 1, at_ bs 2, yesAt bs 3⟩
  else none

/-- Table 12 in stored form. -/
def encOut (r : OutEntry) : List Byte := [byte (encOutSource r.source), byte r.index, byte r.variant, flagByte r.invert]

/-- How many targets a role has; none where the target is not read (R131). -/
def roleRange : InRole → Option Nat
  | .none => Option.none
  | .detector => some 16
  | .home | .axfault => some 6
  | .cabfault => some 4

/-- Table 13 (R131), but for the role clash. -/
def decIn (bs : List Byte) : Option InEntry := do
  let role ← decRole (at_ bs 0)
  if (roleRange role).all (fun n => decide (at_ bs 1 < n)) then
    pure ⟨role, at_ bs 1, min 15 (at_ bs 2), yesAt bs 3⟩
  else none

/-- Table 13 in stored form. -/
def encIn (r : InEntry) : List Byte := [byte (encRole r.role), byte r.target, byte r.debounce, flagByte r.invert]

/-- Two entries that name the same role and target (R131). -/
def roleClash (a b : InEntry) : Bool := a.role != .none && a.role == b.role && a.target == b.target

/-- Table 14 (R134). -/
def decWatch (bs : List Byte) : Option WatchRec :=
  some ⟨yesAt bs 0, BitVec.ofNat 64 (bitNum ((bs.drop 1).take 8)), BitVec.ofNat 64 (bitNum ((bs.drop 9).take 8)),
    at_ bs 17, at_ bs 18, yesAt bs 19⟩

/-- Table 14 in stored form. -/
def encWatch (r : WatchRec) : List Byte :=
  [flagByte r.inUse] ++ bitBytes 8 r.mask.toNat ++ bitBytes 8 r.pattern.toNat ++
  [byte r.code, byte r.holdOff, flagByte r.wake]

/-- Table 15 (R12). -/
def decWakeSet (bs : List Byte) : BitVec 256 := BitVec.ofNat 256 (bitNum (bs.take 32))

/-- Table 15 in stored form. -/
def encWakeSet (r : BitVec 256) : List Byte := bitBytes 32 r.toNat

/-! ## Sizes (Table 11-4) -/

/-- Bytes of one record; a table id above 15 counts as 1 (R156). -/
def recordSize : Nat → Nat
  | 0 => 4
  | 1 => 3
  | 2 => 4
  | 3 => 4
  | 4 => 4
  | 5 => 6
  | 6 => 49
  | 7 => 11
  | 8 => 13
  | 9 => 42
  | 10 => 3
  | 11 => 20
  | 12 => 4
  | 13 => 4
  | 14 => 20
  | 15 => 32
  | _ => 1

/-- Records of one table. -/
def recordCount : Nat → Nat
  | 0 => 1
  | 1 => 256
  | 2 => 512
  | 3 => 4
  | 4 => 512
  | 5 => 32
  | 6 => 8
  | 7 => 48
  | 8 => 16
  | 9 => 4
  | 10 => 8
  | 11 => 6
  | 12 => 128
  | 13 => 64
  | 14 => 16
  | 15 => 1
  | _ => 0

/-- A record of a vector in stored form, none beyond its end. -/
def encAt {α : Type} {n : Nat} (v : Vector α n) (enc : α → List Byte) (i : Nat) : List Byte :=
  match item n i with
  | some k => enc v[k]
  | none => []

/-- Record i of a table in stored form (R158). -/
def readRecord (t : Tables) (table i : Nat) : List Byte :=
  match table with
  | 0 => encNode t.node
  | 1 => encAt t.cueMap encCueMap i
  | 2 => encAt t.pool encPool i
  | 3 => encAt t.listDir encListDir i
  | 4 => encAt t.listMem encListEntry i
  | 5 => encAt t.alarms encAlarm i
  | 6 => encAt t.curves encCurve i
  | 7 => encAt t.lamps encLamp i
  | 8 => encAt t.sections encSection i
  | 9 => encAt t.trains encTrain i
  | 10 => encAt t.points encPoint i
  | 11 => encAt t.axes encAxis i
  | 12 => encAt t.outMap encOut i
  | 13 => encAt t.inMap encIn i
  | 14 => encAt t.watches encWatch i
  | 15 => encWakeSet t.wakeSet
  | _ => []

/-! ## The commit of a write (R156) -/

/-- A written vector: the records stored from the first index on. -/
def written {α : Type} {n : Nat} (v : Vector α n) (first : Nat) (recs : List α) : Vector α n :=
  tab (fun i => if first ≤ i.val then recs.getD (i.val - first) v[i] else v[i])

/-- Whether the write holds a record for an index. -/
def inWrite (first count i : Nat) : Bool := decide (first ≤ i ∧ i < first + count)

/-- The position of the first record that does not decode or fails a check. -/
def firstBad {α : Type} (bad : Nat → α → Bool) : Nat → List (Option α) → Option Nat
  | _, [] => none
  | k, none :: _ => some k
  | k, some a :: rest => if bad k a then some k else firstBad bad (k + 1) rest

/-- A clash of the record at a position with a record outside the write, or with one written before it (R40, R131). -/
def clashes {α : Type} {n : Nat} (clash : α → α → Bool) (old : Vector α n) (first : Nat) (recs : List (Option α))
    (position : Nat) (a : α) : Bool :=
  (every n).any (fun j => !inWrite first recs.length j.val && clash a old[j]) ||
  (recs.take position).any (fun b => b.any (clash a))

/-- The write of a vector table: the first bad index, or the state that stores every record. -/
def store {α : Type} {n : Nat} (old : Vector α n) (first : Nat) (recs : List (Option α)) (bad : Nat → α → Bool)
    (put : Vector α n → State) : Except Nat State :=
  match firstBad bad 0 recs with
  | some k => .error (first + k)
  | none => .ok (put (written old first (recs.filterMap id)))

/-- No check beyond the record's own. -/
def noBad {α : Type} (_ : Nat) (_ : α) : Bool := false

/-- Sections after a committed write to table 8 (R61). With every train PARKED every wait queue is empty, so the
re-evaluations it triggers grant nothing. -/
def sectionsCommitted (s : State) : State :=
  { s with secs := tab (fun n =>
      { s.secs[n] with state := if s.tables.sections[n].inUse && s.secs[n].occ then .blocked else .free }) }

/-- The lowest-numbered written record that takes part in a route step that fails (R61); the first index of the write where
no written record does (log entry 28). -/
def routeFailure (s : State) (secs : Vector SectionRec 16) (first count : Nat) : Option Nat :=
  let failing := (every 4).flatMap (fun t =>
    if s.tables.trains[t].inUse then
      (routeSteps s.tables.trains[t]).filter (fun st => !reachable secs st.1 st.2)
    else [])
  if failing.isEmpty then none
  else
    some (((List.range count).map (first + ·)).find? (fun i =>
      failing.any (fun st => st.1.val == i || st.2.val == i)) |>.getD first)

/-- Trains after a committed write to table 9 (R84, R88). -/
def trainsCommitted (first count : Nat) (s : State) : State :=
  { s with trains := tab (fun t =>
      if inWrite first count t.val then
        { s.trains[t] with
          cruise := s.tables.trains[t].cruise
          duty := if s.tables.trains[t].inUse then s.trains[t].duty else 0 }
      else s.trains[t]) }

/-- Points after a committed write to table 10, with the re-evaluation that follows (R64, R77). -/
def pointsCommitted (old : Vector PointRec 8) (s : State) : State :=
  reevaluate none { s with pts := tab (fun p =>
    if old[p].inUse = s.tables.points[p].inUse then s.pts[p] else { s.pts[p] with position := none }) }

/-- An axis after a committed write of its record (R104). R104 names no position for an axis that was out of use and stays so: it is left
as it stands, beyond the new record's range too where that is smaller (DESIGN CHOICE, log entry 23). -/
def axisCommitted (old new : AxisRec) (x : Axis) : Axis :=
  if old.inUse != new.inUse then
    { x with state := .idle, holdTimer := none, pos := takeTarget new x.pos, known := false, arrived := false,
             follow := false }
  else if new.inUse && (old.kind != new.kind || old.steps != new.steps || old.homeDir != new.homeDir) then
    { x with pos := takeTarget new x.pos, known := false, arrived := false }
  else x

/-- Axes after a committed write to table 11 (R104). -/
def axesCommitted (old : Vector AxisRec 6) (s : State) : State :=
  { s with axes := tab (fun a => axisCommitted old[a] s.tables.axes[a] s.axes[a]) }

/-- Watches after a committed write to table 14 (R135). -/
def watchesCommitted (old : Vector WatchRec 16) (first count : Nat) (s : State) : State :=
  let ended := { s with chain := { s.chain with
    watches := tab (fun w =>
      if old[w].inUse && !s.tables.watches[w].inUse then { s.chain.watches[w] with holdOff := 0 }
      else s.chain.watches[w]) } }
  freshMatches (fun w => inWrite first count w.val && s.tables.watches[w].inUse) ended

/-- The owner's lock on an index of a table (R61, R64, R84, R104). -/
def lockedAt (s : State) (table i : Nat) : Bool :=
  match table with
  | 8 => !(every 4).all (fun t => s.trains[t].state == .parked)
  | 9 => sourceOf i (fun t : TrainId => s.trains[t].state != .parked)
  | 10 => sourceOf i (fun p : PointId => pointLocked s p || s.pts[p].motion.isSome)
  | 11 => sourceOf i (fun a : AxisId =>
      axisLocked s a || !(s.axes[a].state == .idle || s.axes[a].state == .holding || axisFaulted s.axes[a]))
  | _ => false

/-- The commit of the records of one table: the first bad index, or the state after the owners have acted. -/
def storeRecords (table first : Nat) (recs : List (List Byte)) (s : State) : Except Nat State :=
  let n := recs.length
  match table with
  | 0 =>
    match recs.map decNode with
    | [some r] => .ok { s with tables := { s.tables with node := r } }
    | _ => .error 0
  | 1 => store s.tables.cueMap first (recs.map decCueMap) noBad (fun v => { s with tables := { s.tables with cueMap := v } })
  | 2 => store s.tables.pool first (recs.map decPool) noBad (fun v => { s with tables := { s.tables with pool := v } })
  | 3 =>
    store s.tables.listDir first (recs.map decListDir) noBad (fun v => { s with tables := { s.tables with listDir := v } })
  | 4 =>
    store s.tables.listMem first (recs.map decListEntry) noBad
      (fun v => { s with tables := { s.tables with listMem := v } })
  | 5 => store s.tables.alarms first (recs.map decAlarm) noBad (fun v => { s with tables := { s.tables with alarms := v } })
  | 6 => store s.tables.curves first (recs.map decCurve) noBad (fun v => { s with tables := { s.tables with curves := v } })
  | 7 =>
    let ds := recs.map decLamp
    store s.tables.lamps first ds (clashes pinClash s.tables.lamps first ds)
      (fun v => lampsCommitted { s with tables := { s.tables with lamps := v } })
  | 8 =>
    let ds := recs.mapIdx (fun k bs => decSection (first + k) bs)
    match store s.tables.sections first ds noBad
        (fun v => sectionsCommitted { s with tables := { s.tables with sections := v } }) with
    | .error k => .error k
    | .ok u =>
      match routeFailure s u.tables.sections first n with
      | some k => .error k
      | none => .ok u
  | 9 =>
    store s.tables.trains first (recs.map decTrain) (fun _ r => routeBad s.tables.sections r)
      (fun v => trainsCommitted first n { s with tables := { s.tables with trains := v } })
  | 10 =>
    store s.tables.points first (recs.map decPoint) noBad
      (fun v => pointsCommitted s.tables.points { s with tables := { s.tables with points := v } })
  | 11 =>
    store s.tables.axes first (recs.map decAxis) noBad
      (fun v => axesCommitted s.tables.axes { s with tables := { s.tables with axes := v } })
  | 12 => store s.tables.outMap first (recs.map decOut) noBad (fun v => { s with tables := { s.tables with outMap := v } })
  | 13 =>
    let ds := recs.map decIn
    store s.tables.inMap first ds (clashes roleClash s.tables.inMap first ds)
      (fun v => { s with tables := { s.tables with inMap := v } })
  | 14 =>
    store s.tables.watches first (recs.map decWatch) noBad
      (fun v => watchesCommitted s.tables.watches first n { s with tables := { s.tables with watches := v } })
  | _ => .ok { s with tables := { s.tables with wakeSet := decWakeSet (recs.getD 0 []) } }

end Sys2Proof.Machine
end

