-- ==== Sys2Proof/Machine/Views.lean ====
section
/-! DEFINITION. The six views of the READ STATE transfer as bytes (R159, R180, Table 11-7). -/

namespace Sys2Proof.Machine

/-- Node state (R180). -/
def NodeState.code : NodeState → Nat
  | .active => 0
  | .quiescing => 1
  | .dormant => 2

/-- Link state (R180). -/
def LinkState.code : LinkState → Nat
  | .searching => 0
  | .locked => 1
  | .lost => 2

/-- Run state (R180). -/
def RunState.code : RunState → Nat
  | .running => 0
  | .held => 1

/-- Chain state (R180). -/
def ChainState.code : ChainState → Nat
  | .off => 0
  | .ok => 1
  | .fault => 2

/-- Player state (R180). -/
def PlayerState.code : PlayerState → Nat
  | .stopped => 0
  | .playing => 1
  | .paused => 2

/-- Latch state (R180). -/
def Latch.code : Latch → Nat
  | .clear => 0
  | .set _ => 1
  | .reporting _ _ => 2

/-- Train state, in the order of R85. -/
def TrainState.code : TrainState → Nat
  | .parked => 0
  | .stopped => 1
  | .waiting => 2
  | .running => 3
  | .approach => 4
  | .stopping => 5
  | .halted _ => 6

/-- Section state (R180). -/
def SecState.code : SecState → Nat
  | .free => 0
  | .reserved _ _ _ => 1
  | .held _ _ => 2
  | .blocked => 3

/-- Phase (R180). -/
def Phase.code : Phase → Nat
  | .setting => 0
  | .set => 1

/-- Point position (Table 11-5). -/
def PointPos.code : PointPos → Nat
  | .normal => 0
  | .reverse => 1

/-- Axis state, in the order of R105. -/
def AxisState.code : AxisState → Nat
  | .idle => 0
  | .holding => 1
  | .homing => 2
  | .seeking => 3
  | .running => 4
  | .stopping => 5
  | .following => 6
  | .fault _ => 7

/-- A value that may be absent, absent reading FFh (R180). -/
def orFF (v : Option Nat) : Byte := byte (v.getD 255)

/-- The halt reason, present while HALTED. -/
def haltedReason : TrainState → Option Nat
  | .halted r => some r.code
  | .parked | .stopped | .waiting | .running | .approach | .stopping => none

/-- The fault reason, present while FAULT. -/
def faultReason : AxisState → Option Nat
  | .fault r => some r.code
  | .idle | .holding | .homing | .seeking | .running | .stopping | .following => none

/-- Three places of a list, empty ones reading FFh. -/
def threePlaces {n : Nat} (xs : List (Fin n)) : List Byte :=
  [orFF ((xs[0]?).map (·.val)), orFF ((xs[1]?).map (·.val)), orFF ((xs[2]?).map (·.val))]

/-- The NODE view. -/
def viewNode (s : State) : List Byte :=
  [byte s.node.code, byte s.link.state.code, byte s.link.address] ++ bytes4 s.clock.time ++ bytes2 s.clock.day ++
  bytes2 s.clock.rate ++ [byte s.clock.run.code, flagByte s.clock.dormantHold, byte s.chain.state.code] ++
  bitBytes 4 ((every 32).foldl (fun n f => n + if s.cue.flags[f].on then 2 ^ f.val else 0) 0) ++
  (every 4).map (fun p => byte s.players[p].state.code) ++ [flagByte s.notices.master] ++
  (every 13).map (fun k => byte s.notices.latches[k].code) ++ bytes2 s.notices.enables.toNat

/-- The TRAIN view of one train. -/
def viewTrain (x : Train) : List Byte :=
  [byte x.state.code, orFF (haltedReason x.state), byte x.headIndex, byte x.hold.length] ++ threePlaces x.hold ++
  [orFF (x.res.map (·.1.val)), orFF (x.res.map (·.2.code)), orFF (x.queued.map (·.val)), flagByte x.retry,
   byte x.speed, byte x.target, byte x.cruise, flagByte x.arrival.isSome] ++ bytes2 (x.arrival.getD 0) ++
  [flagByte x.brakeDelay.isSome, byte (x.brakeDelay.getD 0)]

/-- The phase of a reservation. -/
def phaseOf : SecState → Option Nat
  | .reserved _ p _ => some p.code
  | .free | .held _ _ | .blocked => none

/-- The section the owner came from (R62). -/
def keptOf : SecState → Option Nat
  | .reserved _ _ k => some k.val
  | .held _ k => k.map (·.val)
  | .free | .blocked => none

/-- One section in the SECTIONS view. -/
def viewSection (x : Section) : List Byte :=
  [byte x.state.code, orFF ((ownerOf x.state).map (·.val)), orFF (phaseOf x.state), orFF (keptOf x.state),
   flagByte x.occ, byte x.queue.length] ++ threePlaces x.queue

/-- One point in the SECTIONS view; UNKNOWN reads 2 (Table 11-5). -/
def viewPoint (x : Point) : List Byte :=
  [byte ((x.position.map PointPos.code).getD 2), flagByte x.motion.isSome, orFF (x.slot.map PointPos.code)]

/-- The SECTIONS view. -/
def viewSections (s : State) : List Byte :=
  (every 16).flatMap (fun n => viewSection s.secs[n]) ++ (every 8).flatMap (fun p => viewPoint s.pts[p])

/-- A two-byte value that may be absent: its present mark and its bytes, absent bytes reading FFh (log entry 25). -/
def optBytes2 : Option Nat → List Byte
  | none => [0, 0xFF, 0xFF]
  | some v => 1 :: bytes2 v

/-- The AXIS view of one axis. -/
def viewAxis (x : Axis) : List Byte :=
  [byte x.state.code, orFF (faultReason x.state)] ++ bytes2 x.pos ++ [flagByte x.known, byte (encDir x.dir)] ++
  bytes2 x.v ++ optBytes2 x.target ++ optBytes2 x.runSpeed ++
  [flagByte x.holdTimer.isSome, byte (x.holdTimer.getD 0), flagByte x.arrived, flagByte x.follow]

/-- The LAMPS view; a channel not in use reads 0 (R57). -/
def viewLamps (s : State) : List Byte :=
  (every 48).map (fun c => byte (if s.tables.lamps[c].inUse then s.lamp.chans[c].out else 0))

/-- The COUNTS view. -/
def viewCounts (s : State) : List Byte :=
  bytes2 s.link.damaged ++ [byte s.chain.breaks, byte s.chain.goods, byte s.cue.queue.length, byte s.xfer.replies.length]

/-- A view, or nothing where R159 refuses it with RANGE. -/
def takeView (view index : Byte) (s : State) : Option (List Byte) :=
  match view.toNat with
  | 0 => some (viewNode s)
  | 1 => (item 4 index.toNat).map (fun t => viewTrain s.trains[t])
  | 2 => some (viewSections s)
  | 3 => (item 6 index.toNat).map (fun a => viewAxis s.axes[a])
  | 4 => some (viewLamps s)
  | 5 => some (viewCounts s)
  | _ => none

end Sys2Proof.Machine
end

