-- ==== Sys2Proof/Machine/Transfer.lean ====
section
/-! DEFINITION. The Transfer Unit: outcomes and replies, discards, the eleven transfer kinds, staging and judging, and the
answers given at a grant (Chapter 9); the soft reset (R174). -/

namespace Sys2Proof.Machine

/-! ## Outcomes (R155, R163) -/

/-- The most replies the queue holds (R163). -/
def maxReplies : Nat := 4

/-- Replaces the Transfer Unit's staging and replies. -/
def setXfer (x : Transfer) (s : State) : State := { s with xfer := x }

/-- A reply joins the queue, or is dropped with REPLY_OVERRUN (R163). -/
def joinReply (r : Reply) (s : State) : State :=
  if s.xfer.replies.length < maxReplies then setXfer { s.xfer with replies := s.xfer.replies ++ [r] } s
  else latch .replyOverrun (.result r.kind r.result) s

/-- The outcome of a transfer (R155): a reply where it was addressed, BCAST_REJECT where a broadcast failed. -/
def outcome (via : Opened) (kind : Byte) (result : Result) (data : List Byte) (s : State) : State :=
  match via with
  | .own => joinReply ⟨kind, result, data⟩ s
  | .broadcast => if result = .ok then s else latch .bcastReject (.result kind result) s

/-- The unit is closed and the buffer empty. -/
def closeUnit (s : State) : State := setXfer { s.xfer with opened := none, buf := [] } s

/-- A discard of an open transfer (R153). -/
def discardOpen (reason : Result) (s : State) : State :=
  match s.xfer.opened with
  | none => s
  | some via => outcome via (s.xfer.buf.head?.getD 0) reason [] (closeUnit s)

/-! ## Soft reset (R174) -/

/-- The link after a soft reset: the answer is abandoned, and forwarding resumes from the next frame period (R151). -/
def linkAfterSoftReset (l : Link) : Link := { l with talk := none, retOwn := l.retOwn || l.talk.isSome }

/-- Every block sets its runtime state to its soft reset values (R174, Table 10-2). -/
def softResetState (s : State) : State :=
  freshMatches (fun _ => true)
    { s with
      owed := []
      checkDue := false
      link := linkAfterSoftReset s.link
      xfer := ⟨none, [], [], false⟩
      notices := { s.notices with latches := .replicate 13 .clear }
      cue := ⟨[], s.cue.takes, .replicate 32 ⟨false, none⟩⟩
      clock := Clock.reset
      players := .replicate 4 ⟨.stopped, 0, 0⟩
      lamp := LampUnit.reset
      secs := .replicate 16 ⟨.free, false, []⟩
      pts := .replicate 8 ⟨none, none, none⟩
      trains := tab (fun t => Train.reset s.tables.trains[t].cruise)
      axes := .replicate 6 Axis.reset
      chain := ⟨0, s.chain.latched, .replicate 64 ⟨false, false, 0⟩, if configured s then .ok else .off, 0, 0,
        .replicate 16 ⟨true, 0⟩, none, 0, false, false⟩
      node := .active }

/-! ## The transfer kinds at their commit (R156 to R162, R167) -/

/-- What a commit gives: the result, the reply data, and the state. -/
abbrev Commit := Result × List Byte × State

/-- A commit without reply data. -/
def plain (r : Result) (s : State) : Commit := (r, [], s)

/-- The commit of a WRITE TABLE whose length is right (R156). -/
def commitWrite (table first count : Nat) (records : List Byte) (s : State) : Commit :=
  if 15 < table then plain .badTable s
  else if count = 0 ∨ recordCount table < first + count then plain .range s
  else
    match ((List.range count).map (first + ·)).find? (lockedAt s table) with
    | some i => (.locked, bytes2 i, s)
    | none =>
      match storeRecords table first (pieces (recordSize table) count records) s with
      | .error i => (.badRecord, bytes2 i, s)
      | .ok u => plain .ok u

/-- The count a READ TABLE returns (R158). -/
def readCount (table first count : Nat) : Nat :=
  min (min count (recordCount table - first)) (236 / recordSize table)

/-- The commit of a READ TABLE (R158). -/
def commitRead (table first count : Nat) (s : State) : Commit :=
  if 15 < table then plain .badTable s
  else if recordCount table ≤ first then plain .range s
  else
    let n := readCount table first count
    (.ok, byte table :: bytes2 first ++ [byte n] ++
      (List.range n).flatMap (fun i => readRecord s.tables table (first + i)), s)

/-- The commit of a READ STATE (R159). -/
def commitView (view index : Byte) (s : State) : Commit :=
  match takeView view index s with
  | some data => (.ok, data, s)
  | none => plain .range s

/-- The commit of a CUE transfer (R160). -/
def commitCue (code : Nat) (s : State) : Commit :=
  if code = 0 then plain .range s else plain .ok (appendCue code .request s)

/-- The commit of an EXECUTE whose length is right (R161). -/
def commitExecute (records : List Byte) (s : State) : Commit :=
  let acts := (pieces 4 (records.length / 4) records).map (fun bs => decodeAction (actionRec bs))
  match firstBad noBad 0 acts with
  | some k => (.badRecord, bytes2 k, s)
  | none =>
    let r := runList 0 0 (acts.filterMap id) s
    (.ok, [byte r.1.refused, orFF (r.1.first.map Reason.code)], r.2)

/-- The commit of a NOTICES transfer (R167). -/
def commitNotices (master : Byte) (enables clear : BitVec 16) (s : State) : State :=
  let n := { s.notices with master := yes master, enables := enables.truncate 13 }
  { s with notices := mapLatches (fun k l => if clear.getLsbD k.val then .clear else l) n }

/-- The commit of a DORMANT transfer (R162, R169). -/
def commitDormant (s : State) : Commit :=
  let r := dormantRequest s
  match r.1 with
  | none => plain .ok r.2
  | some _ => plain .state r.2

/-- A commit followed by its outcome. -/
def conclude (via : Opened) (kind : Byte) (c : Commit) : State := outcome via kind c.1 c.2.1 c.2.2

/-- A read opened to broadcast is refused BAD_KIND (R154 item 3). -/
def unlessBroadcast (via : Opened) (s : State) (c : Commit) : Commit :=
  match via with
  | .own => c
  | .broadcast => plain .badKind s

/-- WRITE TABLE, kind 1 (R156). -/
def writeTransfer (via : Opened) (table first count : Nat) (records : List Byte) (s : State) : State :=
  conclude via 1
    (if records.length = count * recordSize table then commitWrite table first count records s
     else plain .badLength s)

/-- READ TABLE, kind 2 (R158). -/
def readTransfer (via : Opened) (table first count : Nat) (s : State) : State :=
  conclude via 2 (unlessBroadcast via s (commitRead table first count s))

/-- READ STATE, kind 3 (R159). -/
def viewTransfer (via : Opened) (view index : Byte) (s : State) : State :=
  conclude via 3 (unlessBroadcast via s (commitView view index s))

/-- SET CLOCK, kind 4 (R160). -/
def clockTransfer (via : Opened) (ms day rate : Nat) (runHold : Byte) (s : State) : State :=
  conclude via 4 (plain .ok (fillPendingSet (setClockPending ms day rate runHold) s))

/-- CUE, kind 5 (R160). -/
def codeTransfer (via : Opened) (code : Nat) (s : State) : State := conclude via 5 (commitCue code s)

/-- EXECUTE, kind 6 (R161): one to eight records of four bytes. -/
def executeTransfer (via : Opened) (records : List Byte) (s : State) : State :=
  conclude via 6
    (if records.length % 4 = 0 ∧ 4 ≤ records.length ∧ records.length ≤ 32 then commitExecute records s
     else plain .badLength s)

/-- NOTICES, kind 7 (R167). -/
def noticesTransfer (via : Opened) (master : Byte) (enables clear : BitVec 16) (s : State) : State :=
  conclude via 7 (plain .ok (commitNotices master enables clear s))

/-- DORMANT, kind 8 (R162). -/
def restTransfer (via : Opened) (s : State) : State := conclude via 8 (commitDormant s)

/-- WAKE, kind 9 (R162). -/
def awakeTransfer (via : Opened) (s : State) : State := conclude via 9 (plain .ok (wake .transfer s))

/-- ALL STOP, kind 10 (R162). -/
def haltTransfer (via : Opened) (s : State) : State := conclude via 10 (plain .ok (allStop s))

/-- SOFT RESET, kind 11 (R162, R174): the reply joins the queue of the reset node. -/
def resetTransfer (via : Opened) (s : State) : State := conclude via 11 (plain .ok (softResetState s))

/-! ## Staging and judging (R152, R154) -/

/-- Whether a byte is a transfer kind the opening allows (R154 item 3). -/
def kindOk (via : Opened) (kind : Byte) : Bool :=
  decide (1 ≤ kind.toNat ∧ kind.toNat ≤ 11) && !(via == .broadcast && (kind == 2 || kind == 3))

/-- The body length a kind of fixed length requires (Table 9-1); WRITE TABLE and EXECUTE check their own. -/
def fixedLength (kind : Nat) : Option Nat :=
  match kind with
  | 2 => some 5
  | 3 => some 3
  | 4 => some 10
  | 5 => some 2
  | 7 => some 6
  | 8 | 9 | 10 | 11 => some 1
  | _ => none

/-- The commit of a body of the right fixed length, by its kind (R156 to R162, Table 11-3). -/
def commitBody (via : Opened) (body : List Byte) (s : State) : State :=
  match at_ body 0 with
  | 1 =>
    if body.length < 5 then conclude via 1 (plain .badLength s)
    else writeTransfer via (at_ body 1) (at2 body 2) (at_ body 4) (body.drop 5) s
  | 2 => readTransfer via (at_ body 1) (at2 body 2) (at_ body 4) s
  | 3 => viewTransfer via (body.getD 1 0) (body.getD 2 0) s
  | 4 => clockTransfer via (at2 body 1 * 65536 + at2 body 3) (at2 body 5) (at2 body 7) (body.getD 9 0) s
  | 5 => codeTransfer via (at_ body 1) s
  | 6 => executeTransfer via (body.drop 1) s
  | 7 => noticesTransfer via (body.getD 1 0) (BitVec.ofNat 16 (at2 body 2)) (BitVec.ofNat 16 (at2 body 4)) s
  | 8 => restTransfer via s
  | 9 => awakeTransfer via s
  | 10 => haltTransfer via s
  | _ => resetTransfer via s

/-- A closed transfer is judged (R154). -/
def judge (via : Opened) (bytes : List Byte) (s : State) : State :=
  let kind := bytes.getD 0 0
  let body := bytes.take (bytes.length - 2)
  if bytes.length < 3 then outcome via kind .badLength [] s
  else if checks body ≠ (at_ bytes (bytes.length - 2), at_ bytes (bytes.length - 1)) then
    outcome via kind .badCheck [] s
  else if !kindOk via kind then outcome via kind .badKind [] s
  else if (fixedLength kind.toNat).any (· != body.length) then outcome via kind .badLength [] s
  else commitBody via body s

/-- An OPEN symbol (R152). -/
def takeOpen (address : Nat) (s : State) : State :=
  let u := discardOpen .interrupted s
  if address = 63 then setXfer { u.xfer with opened := some .broadcast, buf := [] } u
  else if 1 ≤ address ∧ address ≤ 62 ∧ address = u.link.address then
    setXfer { u.xfer with opened := some .own, buf := [] } u
  else u

/-- The most bytes the staging buffer holds (R152). -/
def maxStaged : Nat := 256

/-- A BYTE symbol (R152). -/
def takeByte (v : Byte) (s : State) : State :=
  match s.xfer.opened with
  | none => s
  | some _ =>
    if s.xfer.buf.length < maxStaged then setXfer { s.xfer with buf := s.xfer.buf ++ [v] } s
    else discardOpen .tooLong s

/-- A CLOSE symbol (R152, R154). -/
def takeClose (s : State) : State :=
  match s.xfer.opened with
  | none => s
  | some via => judge via s.xfer.buf (closeUnit s)

/-! ## Answers (R164, R166) -/

/-- The kinds a report carries, in the order of Table 9-3 (R166). -/
def reported (n : Notices) : List (Fin 13) := (every 13).filter (reportable n)

/-- One entry of a report. -/
def reportEntry (n : Notices) (k : Fin 13) : List Byte :=
  byte k.val ::
    (match n.latches[k] with
      | .set d | .reporting d _ => d.bytes
      | .clear => [0, 0, 0])

/-- The bytes of a NOTICE report (Table 11-6). -/
def reportBytes (n : Notices) : List Byte :=
  [2, byte (reported n).length] ++ (reported n).flatMap (reportEntry n)

/-- The answer at a grant (R164): its kind, its bytes, and the state. -/
def giveAnswer (s : State) : AnswerKind × List Byte × State :=
  match s.xfer.replies with
  | r :: _ => (.reply, [1, r.kind, byte r.result.code] ++ r.data, setXfer { s.xfer with lent := true } s)
  | [] =>
    if s.notices.master && !(reported s.notices).isEmpty then
      (.notice, reportBytes s.notices,
        { s with notices := mapLatches (fun k l => if reportable s.notices k then l.report else l) s.notices })
    else (.empty, [3], s)

/-- The Link Port reports the answer sent (R163, R164, R166). -/
def reportSent (a : AnswerKind) (s : State) : State :=
  match a with
  | .reply => setXfer { s.xfer with replies := s.xfer.replies.drop 1, lent := false } s
  | .notice => { s with notices := mapLatches (fun _ l => l.sent) s.notices }
  | .empty => s

/-- The Link Port reports the answer abandoned (R163, R164, R166). -/
def reportAbandoned (a : AnswerKind) (s : State) : State :=
  match a with
  | .reply => setXfer { s.xfer with lent := false } s
  | .notice => { s with notices := mapLatches (fun _ l => l.abandoned) s.notices }
  | .empty => s

end Sys2Proof.Machine
end

