-- ==== Sys2Proof/Machine/Frames.lean ====
section
/-! DEFINITION. The frames of the Scene Link as bytes, their classes, the changes made in forwarding, and the symbols that the
Link Port takes itself (Tables 11-1 and 11-2, R139 to R143, R148 to R151, R176). -/

namespace Sys2Proof.Machine

/-- Replaces the Link Port's state. -/
def setLink (l : Link) (s : State) : State := { s with link := l }

/-! ## Downstream frames -/

/-- The four classes of a downstream frame (R139). -/
inductive FrameClass where
  | failed
  | damaged
  | orphan
  | valid
deriving DecidableEq, Repr

/-- A downstream frame whose check matches: six bytes (R139, Table 11-1). -/
def checkMatches (bs : List Byte) : Bool := bs.length == 6 && crc (bs.take 5) == bs.getD 5 0

/-- The class of an arriving frame (R139). -/
def classify (bs : List Byte) : FrameClass :=
  if checkMatches bs then
    if (bs.getD 0 0).getLsbD 1 then .damaged
    else if (bs.getD 0 0).getLsbD 2 then .orphan
    else .valid
  else .failed

/-- Five frame bytes with their check. -/
def withCheck (bs : List Byte) : List Byte := bs ++ [crc bs]

/-- A failed frame as it is forwarded: damaged flag set, step mark cleared, cue code 0, symbol IDLE with value 0 (log entry
14), the other fields as they arrived or 0 (R140, R176). -/
def failedForward (bs : List Byte) : List Byte :=
  withCheck [(bs.getD 0 0 ||| 0x02) &&& 0xFE, 0, bs.getD 2 0, 0, 0]

/-- The hop an ENUM is forwarded with (R148). -/
def nextHop (hop : Nat) : Nat := if 1 ≤ hop ∧ hop ≤ 62 then hop + 1 else 63

/-- The address an ENUM gives (R148). -/
def hopAddress (hop : Nat) : Nat := if 1 ≤ hop ∧ hop ≤ 62 then hop else 0

/-- Whether a frame carries an ENUM; a value of 64 or more makes it IDLE (R176). -/
def isEnum (bs : List Byte) : Bool := bs.getD 3 0 == 5 && decide (at_ bs 4 < 64)

/-- A valid frame as it is forwarded (R143). -/
def validForward (bs : List Byte) : List Byte :=
  if isEnum bs then withCheck (bs.take 4 ++ [byte (nextHop (at_ bs 4))]) else bs

/-- An own orphan frame (R143). -/
def ownFrame (mark : Bool) : List Byte := withCheck [if mark then 0x05 else 0x04, 0, 0, 0, 0]

/-- The port forwards a frame where the link state in force says so (R143). -/
def forward (bs : List Byte) (s : State) : State :=
  match s.link.state with
  | .searching | .locked => setLink { s.link with downOut := some bs } s
  | .lost => s

/-- In LOST the own frame of this period takes a step mark (R143); a forwarded frame is never changed here (R141). -/
def markOwn (s : State) : State :=
  if s.link.state = .lost ∧ s.link.downOut = some (ownFrame false) then
    setLink { s.link with downOut := some (ownFrame true) } s
  else s

/-- The scene lines of a valid frame are taken (R147). -/
def takeLines (bs : List Byte) (s : State) : State := setLink { s.link with lines := bs.getD 2 0 } s

/-- One more failed frame: the damaged count, and DAMAGED with the lane (R140, R149). -/
def countDamaged (isReturn : Bool) (s : State) : State :=
  latch .damaged (.lane isReturn) (setLink { s.link with damaged := min 65535 (s.link.damaged + 1) } s)

/-! ## Return frames -/

/-- A return frame carrying a symbol (Table 11-2). -/
def retFrame (y : RetSymbol) : List Byte := withCheck [y.type, y.value]

/-- A return frame carrying IDLE. -/
def idleFrame : List Byte := retFrame ⟨0, 0⟩

/-- A return frame whose check matches. -/
def retMatches (bs : List Byte) : Bool := bs.length == 3 && crc (bs.take 2) == bs.getD 2 0

/-- The symbols of an answer: OPEN, its bytes, the two checks, CLOSE (R150). -/
def answerSymbols (address : Nat) (bytes : List Byte) : List RetSymbol :=
  ⟨1, byte address⟩ :: bytes.map (fun b => ⟨2, b⟩) ++
  [⟨2, byte (checks bytes).1⟩, ⟨2, byte (checks bytes).2⟩, ⟨3, 0⟩]

/-- The node is talking (R150). -/
def talking (s : State) : Bool := s.link.talk.isSome

/-- The node's own symbol takes the return frame of this period, unless it has taken it already. -/
def placeOwn (s : State) : State :=
  match s.link.talk with
  | some ⟨k, y :: rest⟩ =>
    if s.link.retOwn then s
    else setLink { s.link with talk := some ⟨k, rest⟩, retOut := some (retFrame y), retOwn := true } s
  | some ⟨_, []⟩ | none => s

/-- The CLOSE of the answer has been sent (R150, R164): only once every symbol has been put on the lane. -/
def answerDone (s : State) : State :=
  match s.link.talk with
  | some ⟨k, []⟩ => reportSent k (setLink { s.link with talk := none } s)
  | some ⟨_, _ :: _⟩ | none => s

/-- An answer in progress is abandoned; forwarding resumes from the next frame period (R151). An answer whose CLOSE this frame
period already carries has been sent, and is reported so: an abandoned one sends no CLOSE (log entry 12). -/
def abandonAnswer (s : State) : State :=
  match s.link.talk with
  | some ⟨k, _ :: _⟩ => reportAbandoned k (setLink { s.link with talk := none, retOwn := true } s)
  | some ⟨_, []⟩ => answerDone s
  | none => s

/-! ## Symbols (R142, R148, R150, R176) -/

/-- A GRANT (R150). -/
def takeGrant (address : Nat) (s : State) : State :=
  if 1 ≤ address ∧ address ≤ 62 ∧ address = s.link.address ∧ !talking s then
    let a := giveAnswer s
    setLink { a.2.2.link with talk := some ⟨a.1, answerSymbols address a.2.1⟩ } a.2.2
  else s

/-- An ENUM (R148). -/
def takeEnum (hop : Nat) (s : State) : State := setLink { s.link with address := hopAddress hop } s

/-- Whether a symbol is not IDLE: types 6 to 255, and an OPEN, GRANT or ENUM of 64 to 255, are IDLE (R176). -/
def symbolActs (type value : Byte) : Bool :=
  match type.toNat with
  | 1 | 4 | 5 => decide (value.toNat < 64)
  | 2 | 3 => true
  | _ => false

/-- A data symbol that is not IDLE (R142). -/
def takeSymbol (type value : Byte) (s : State) : State :=
  match type.toNat with
  | 1 => takeOpen value.toNat s
  | 2 => takeByte value s
  | 3 => takeClose s
  | 4 => takeGrant value.toNat s
  | 5 => takeEnum value.toNat s
  | _ => s

end Sys2Proof.Machine
end

