-- ==== Sys2Proof/Machine/SceneStep.lean ====
section
/-! DEFINITION. The scene step, and the other events that one moment brings to several blocks, taken in any order (R142,
R144, R146). -/

namespace Sys2Proof.Machine

/-- What one block takes as its own event: a scene step, a frame period the Axis Unit has not yet taken (R107), a part of a
valid frame (R142), the lock it completes (R145), and what a link loss tells (R146). -/
inductive Part where
  | clock
  | lists
  | flags
  | lamps
  | points
  | trains
  | axes
  | chain
  | node
  | period
  | cue (code : Nat)
  | symbol (type value : Byte)
  | lock
  | req (r : Req)
  | drop (reason : Result)
  | abandon
deriving DecidableEq, Repr

/-- The link goes LOCKED (R145). -/
def goLocked (s : State) : State :=
  latch .link (.link false) (setLink { s.link with state := .locked, lockRun := 0 } s)

/-- One block takes its part. -/
def runPart (p : Part) (s : State) : State :=
  match p with
  | .clock => stepClock s
  | .lists => stepLists s
  | .flags => stepFlags s
  | .lamps => stepLamps s
  | .points => stepPoints s
  | .trains => stepTrains s
  | .axes => stepAxes s
  | .chain => stepChain s
  | .node => nodeCheck s
  | .period => axisPeriod s
  | .cue code => appendCue code .link s
  | .symbol type value => takeSymbol type value s
  | .lock => goLocked s
  | .req r => runReq r s
  | .drop reason => discardOpen reason s
  | .abandon => abandonAnswer s

/-- A symbol makes its own completion checks, action by action (runOne). -/
def checksItself : Part → Bool
  | .symbol _ _ => true
  | .clock | .lists | .flags | .lamps | .points | .trains | .axes | .chain | .node | .period | .cue _ | .lock | .req _
  | .drop _ | .abandon => false

/-- A part as an event, with the requests settled before it and the completion check after it (R171). -/
def partEvent (p : Part) (s : State) : State :=
  let u := settle s
  if checksItself p then runPart p u else afterEvent u (runPart p u)

/-- Parts taken one after another. -/
def runParts (ps : List Part) (s : State) : State := ps.foldl (fun u p => partEvent p u) s

/-- Parts taken in a free order (log entry 1). -/
def anyOrder (ps : List Part) (s : State) : State :=
  let o := arrange ps s
  runParts o.1 o.2

/-- The nine blocks that take a scene step (R144). -/
def stepParts : List Part := [.clock, .lists, .flags, .lamps, .points, .trains, .axes, .chain, .node]

/-- The parts of a scene step made now: a frame period not yet taken falls together with it (R107). -/
def sceneParts (s : State) : List Part := stepParts ++ (if s.axisDue then [.period] else [])

/-- A scene step sets the step gap to 0 (R144), and the first one after a reset pin releases the output pins (R181). -/
def stepMade (s : State) : State := { setLink { s.link with stepGap := 0 } s with pinsLow := false }

/-- A scene step, together with other parts (R144). -/
def sceneStep (extra : List Part) (s : State) : State := anyOrder (sceneParts s ++ extra) (stepMade s)

end Sys2Proof.Machine
end

