-- ==== Sys2Proof/Machine/Link.lean ====
section
/-! DEFINITION. The Link Port: frame periods, the handling of arriving frames on both lanes, step marks and the lock run, the
fallback timebase and the loss of the link (Chapter 8). -/

namespace Sys2Proof.Machine

/-! ## Frame periods (R138, R107, R143, R149, R150) -/

/-- The two gaps rise by one, as far as their ranges go (R138). -/
def gapsRise (l : Link) : Link := { l with stepGap := min 10200 (l.stepGap + 1), markGap := min 255 (l.markGap + 1) }

/-- The frame the downstream port sends of itself in a period: its own in LOST, none otherwise (R143). -/
def ownDown (l : Link) : Option (List Byte) :=
  match l.state with
  | .lost => some (ownFrame false)
  | .searching | .locked => none

/-- The ports and counts at the start of a frame period (R138, R143, R149), with the link-loss timeout as table 0 then holds it
(R146). -/
def periodLink (timeout : Nat) (l : Link) : Link :=
  { gapsRise l with timeout := timeout, downOut := ownDown l, retOut := some idleFrame, retOwn := false }

/-- The Axis Unit's event of this frame period: now, or together with a scene step of the period, or at its end (R107, log
entry 7). The choice is made whether an axis moves or not, because a scene step taken first may set one moving. -/
def axisFramePeriod (s : State) : State :=
  let d := draw s
  if d.1 % 2 = 0 then partEvent .period d.2 else { d.2 with axisDue := true }

/-- A frame period not yet taken by the Axis Unit is taken. -/
def flushPeriod (s : State) : State := if s.axisDue then partEvent .period s else s

/-- The takes of a new frame period (R6). -/
def freshTakes (s : State) : State := { s with cue := { s.cue with takes := 0 } }

/-- A frame period begins (R138). A step left to the end of the period before has its pulse there, in the period in which it
falls (R106, R181, log entry 31). -/
def beginPeriod (s : State) : State :=
  let s1 := answerDone (turnPulses (flushPeriod s))
  axisFramePeriod (placeOwn (setLink (periodLink s1.tables.node.timeout s1.link) (freshTakes s1)))

/-! ## Step marks (R144, R145) -/

/-- Whether a valid step mark makes a scene step (R144). -/
def markSteps (l : Link) : Bool :=
  match l.state with
  | .locked => decide (30 ≤ l.stepGap)
  | .searching | .lost => true

/-- Whether a mark lengthens the lock run (R145). -/
def lengthens (l : Link) : Bool := decide (30 ≤ l.markGap ∧ l.markGap ≤ 50)

/-- Whether a mark takes the link to LOCKED (R145). -/
def locks (l : Link) : Bool :=
  match l.state with
  | .locked => false
  | .searching | .lost => lengthens l && l.lockRun == 2

/-- The lock run and the mark gap after a mark (R145); in LOCKED neither is touched (log entry 16). -/
def afterMark (l : Link) : Link :=
  match l.state with
  | .locked => l
  | .searching | .lost =>
    { l with markGap := 0, lockRun := if lengthens l then (if l.lockRun = 2 then l.lockRun else l.lockRun + 1) else 1 }

/-- The parts a step mark adds: the lock it completes (R145). -/
def lockPart (l : Link) : List Part := if locks l then [.lock] else []

/-! ## Valid frames (R142) -/

/-- The step mark of a frame. -/
def hasMark (bs : List Byte) : Bool := (bs.getD 0 0).getLsbD 0

/-- The cue and symbol parts of a valid frame, by the link state as it arrives (R142); code 0 and IDLE are no parts. -/
def contentParts (st : LinkState) (bs : List Byte) : List Part :=
  match st with
  | .searching | .locked =>
    (if at_ bs 1 = 0 then [] else [.cue (at_ bs 1)]) ++
    (if symbolActs (bs.getD 3 0) (bs.getD 4 0) then [.symbol (bs.getD 3 0) (bs.getD 4 0)] else [])
  | .lost => []

/-- The parts of a valid frame reach their blocks in any order (R142); the scene lines are taken first (R147). -/
def frameParts (bs : List Byte) (s : State) : State :=
  let u := takeLines bs s
  let content := contentParts s.link.state bs
  if hasMark bs then
    let m := setLink (afterMark u.link) u
    if markSteps u.link then sceneStep (content ++ lockPart u.link) m else anyOrder content m
  else anyOrder content u

/-- A valid frame is handled and then forwarded by the state in force (R142, R143); in LOST the own frame of a period with
a scene step carries a mark. -/
def validFrame (bs : List Byte) (s : State) : State :=
  let u := frameParts bs s
  let v := if hasMark bs then markOwn u else u
  forward (validForward bs) v

/-- A downstream frame arrives (R139 to R143). -/
def arrive6 (bs : List Byte) (s : State) : State :=
  match classify bs with
  | .failed => forward (failedForward bs) (discardOpen .damaged (countDamaged false s))
  | .damaged | .orphan => forward bs (discardOpen .damaged s)
  | .valid => validFrame bs s

/-! ## Return frames (R149, R151, R176) -/

/-- A return frame is put on the lane, unless this period's frame is the node's own. -/
def passReturn (bs : List Byte) (s : State) : State :=
  if s.link.retOwn then s else setLink { s.link with retOut := some bs } s

/-- COLLISION records the symbol type, and the address for an OPEN (R151, R176). -/
def collide (type value : Byte) (s : State) : State :=
  latch .collision (.symbol type (if type = 1 then value else 0)) s

/-- A return frame arrives from downstream (R149, R151). -/
def arrive3 (bs : List Byte) (s : State) : State :=
  if retMatches bs then
    if talking s then placeOwn (if bs.getD 0 0 = 0 then s else collide (bs.getD 0 0) (bs.getD 1 0) s)
    else passReturn bs s
  else
    let u := countDamaged true s
    if talking u then placeOwn u else passReturn idleFrame u

/-! ## The fallback timebase and link loss (R144, R146) -/

/-- The fallback timebase makes a scene step in SEARCHING and LOST when the step gap reaches 40 (R144); in LOST the own frame
of the period carries a mark (R143). -/
def fallback (s : State) : State :=
  match s.link.state with
  | .locked => s
  | .searching | .lost => if 40 ≤ s.link.stepGap then markOwn (sceneStep [] s) else s

/-- Whether the silence has reached the link-loss timeout as read at this frame period: a write within the period is seen from the
next one on (R146). -/
def silent (s : State) : Bool := s.link.state == .locked && decide (40 * s.link.timeout ≤ s.link.stepGap)

/-- The link goes LOST (R146): LINK is latched, and the scene step and what the other blocks are told are taken in a free
order (log entry 1). -/
def loseLink (s : State) : State :=
  if silent s then
    sceneStep [.drop .link, .abandon, .req .linkTrains, .req .linkAxes]
      (latch .link (.link true) (setLink { s.link with state := .lost, lockRun := 0 } s))
  else s

end Sys2Proof.Machine
end

