-- ==== Sys2Proof/Machine/ExecReset.lean ====
section
/-! DEFINITION. The meanings of the reset commands (R174, R175). -/

namespace Sys2Proof.Machine

/-- Power-on and pin reset (R175, Table 10-2): every value as State.reset gives it; the queue of waiting commands and the
choices still to be drawn are no part of the node. -/
def hardReset (s : State) : State :=
  { State.reset with pending := s.pending, choices := s.choices, drawn := s.drawn }

/-- POWER_ON_RESET (R175). -/
def execPowerOnReset (s : State) : Host.Outcome State Fault Refusal := .next (hardReset s)

/-- Pin reset (R175): the same values; the window's output registers are no part of the node and keep what they last took
(R129; log entry 10). -/
def pinResetState (s : State) : State :=
  let u := hardReset s
  { u with chain := { u.chain with latched := s.chain.latched } }

/-- PIN_RESET (R175). -/
def execPinReset (s : State) : Host.Outcome State Fault Refusal := .next (pinResetState s)

/-- SOFT_RESET (R162, R174). -/
def execSoftReset (via : Opened) (s : State) : Host.Outcome State Fault Refusal := .next (resetTransfer via s)

end Sys2Proof.Machine
end

