-- ==== Sys2Proof/Machine/ExecLink.lean ====
section
/-! DEFINITION. The meanings of the commands of the Scene Link, of its timebase, and of the cue engine's takes (Chapters 8
and 1). -/

namespace Sys2Proof.Machine

/-- FRAME_PERIOD (R138). -/
def execFramePeriod (s : State) : Host.Outcome State Fault Refusal := .next (finish (beginPeriod s))

/-- DOWNSTREAM_FRAME (R139). -/
def execDownstreamFrame (bytes : List Byte) (s : State) : Host.Outcome State Fault Refusal :=
  .next (finish (arrive6 bytes s))

/-- RETURN_FRAME (R149). -/
def execReturnFrame (bytes : List Byte) (s : State) : Host.Outcome State Fault Refusal := .next (arrive3 bytes s)

/-- ANSWER_SENT (R164). -/
def execAnswerSent (s : State) : Host.Outcome State Fault Refusal := .next (answerDone s)

/-- FALLBACK_STEP (R144). -/
def execFallbackStep (s : State) : Host.Outcome State Fault Refusal := .next (finish (fallback s))

/-- LINK_LOST (R146). -/
def execLinkLost (s : State) : Host.Outcome State Fault Refusal := .next (finish (loseLink s))

/-- CUE_TAKE (R6). -/
def execCueTake (s : State) : Host.Outcome State Fault Refusal := .next (finish (takeCue s))

end Sys2Proof.Machine
end

