-- ==== Sys2Proof/Machine/ExecTransfer.lean ====
section
/-! DEFINITION. The meanings of the transfer commands: each is the commit of a whole transfer, judged like one that a CLOSE
brings, and it leaves the unit closed (R154 to R162, R167; log entry 33). -/

namespace Sys2Proof.Machine

/-- WRITE_TABLE (R156). -/
def execWriteTable (via : Opened) (table : Byte) (first : BitVec 16) (count : Byte) (records : List Byte) (s : State) :
    Host.Outcome State Fault Refusal :=
  .next (writeTransfer via table.toNat first.toNat count.toNat records (closeUnit s))

/-- READ_TABLE (R158). -/
def execReadTable (via : Opened) (table : Byte) (first : BitVec 16) (count : Byte) (s : State) :
    Host.Outcome State Fault Refusal :=
  .next (readTransfer via table.toNat first.toNat count.toNat (closeUnit s))

/-- READ_STATE (R159). -/
def execReadState (via : Opened) (view index : Byte) (s : State) : Host.Outcome State Fault Refusal :=
  .next (viewTransfer via view index (closeUnit s))

/-- SET_CLOCK (R160). -/
def execSetClock (via : Opened) (ms : BitVec 32) (day rate : BitVec 16) (runHold : Byte) (s : State) :
    Host.Outcome State Fault Refusal :=
  .next (clockTransfer via ms.toNat day.toNat rate.toNat runHold (closeUnit s))

/-- CUE_TRANSFER (R160). -/
def execCueTransfer (via : Opened) (code : Byte) (s : State) : Host.Outcome State Fault Refusal :=
  .next (codeTransfer via code.toNat (closeUnit s))

/-- EXECUTE (R161). -/
def execExecute (via : Opened) (records : List Byte) (s : State) : Host.Outcome State Fault Refusal :=
  .next (finish (executeTransfer via records (closeUnit s)))

/-- NOTICES (R167). -/
def execNotices (via : Opened) (master : Byte) (enables clear : BitVec 16) (s : State) :
    Host.Outcome State Fault Refusal :=
  .next (noticesTransfer via master enables clear (closeUnit s))

/-- DORMANT_TRANSFER (R162, R169). -/
def execDormantTransfer (via : Opened) (s : State) : Host.Outcome State Fault Refusal :=
  .next (finish (restTransfer via (closeUnit s)))

/-- WAKE_TRANSFER (R162, R172). -/
def execWakeTransfer (via : Opened) (s : State) : Host.Outcome State Fault Refusal :=
  .next (finish (awakeTransfer via (closeUnit s)))

/-- ALL_STOP_TRANSFER (R162, R173). -/
def execAllStopTransfer (via : Opened) (s : State) : Host.Outcome State Fault Refusal :=
  .next (finish (haltTransfer via (closeUnit s)))

end Sys2Proof.Machine
end

