-- ==== Sys2Proof/Machine/ExecTimed.lean ====
section
/-! DEFINITION. The meanings of the commands that are moments of the node's own time: the one part of a scene step, a frame
period or a chain cycle that the row names, where it is due; where it is not due nothing changes (log entry 4). -/

namespace Sys2Proof.Machine

/-- DORMANT_COMPLETE (R171). -/
def execDormantComplete (s : State) : Host.Outcome State Fault Refusal := .next (nodeCheck s)

/-- PENDING_SET_APPLY (R27). -/
def execPendingSetApply (s : State) : Host.Outcome State Fault Refusal := .next (applyPendingSet s)

/-- LIST_ENTRY_FIRE (R35). -/
def execListEntryFire (player : PlayerId) (s : State) : Host.Outcome State Fault Refusal :=
  .next (countdownEnds player s)

/-- CUE_FADE_END (R47). -/
def execCueFadeEnd (channel : ChannelId) (s : State) : Host.Outcome State Fault Refusal :=
  let x := s.lamp.chans[channel]
  .next (setChan channel { x with layer := x.layer.map fadeEnds } s)

/-- MASTER_FADE_END (R50). -/
def execMasterFadeEnd (group : GroupId) (s : State) : Host.Outcome State Fault Refusal :=
  .next (setMaster group (fadeEnds s.lamp.masters[group]) s)

/-- FLAG_PULSE_END (R21). -/
def execFlagPulseEnd (flag : FlagId) (s : State) : Host.Outcome State Fault Refusal :=
  .next (setFlag flag (flagPulseEnds s.cue.flags[flag]) s)

/-- COIL_END (R67). -/
def execCoilEnd (point : PointId) (s : State) : Host.Outcome State Fault Refusal := .next (coilEnds point s)

/-- THROW_COMPLETE (R67). -/
def execThrowComplete (point : PointId) (s : State) : Host.Outcome State Fault Refusal := .next (throwEnds point s)

/-- CHAIN_CYCLE_COMPLETE (R129). -/
def execChainCycleComplete (ret : Byte) (inputs : BitVec 64) (s : State) : Host.Outcome State Fault Refusal :=
  .next (finish (completeCycle ret inputs s))

/-- WATCH_HOLDOFF_END (R135). -/
def execWatchHoldoffEnd (watch : WatchId) (s : State) : Host.Outcome State Fault Refusal :=
  .next (setWatch watch (holdOffEnds s.chain.watches[watch]) s)

/-- BRAKE_DELAY_END (R89 item 1). -/
def execBrakeDelayEnd (train : TrainId) (s : State) : Host.Outcome State Fault Refusal :=
  .next (setTrain train (brakeDelayEnds s.trains[train]) s)

/-- ARRIVAL_TIMEOUT (R89 item 2, R98). -/
def execArrivalTimeout (train : TrainId) (s : State) : Host.Outcome State Fault Refusal :=
  .next (arrivalTimesOut train s)

/-- HOLD_TIMER_END (R115). -/
def execHoldTimerEnd (axis : AxisId) (s : State) : Host.Outcome State Fault Refusal :=
  .next (setAxis axis (holdEnds s.axes[axis]) s)

/-- HOME_LIMIT (R116, R118), with the completion check that an axis entering FAULT brings (R171). -/
def execHomeLimit (axis : AxisId) (s : State) : Host.Outcome State Fault Refusal :=
  .next (afterEvent s (homeLimitPasses axis s))

end Sys2Proof.Machine
end

