-- ==== Sys2Proof/Machine/Dispatch.lean ====
section
/-! DEFINITION. The command's effect on everything but the queue of waiting commands: one meaning for each row. -/

namespace Sys2Proof.Machine

def exec (i : Instr) (s : State) : Host.Outcome State Fault Refusal :=
  match i with
  | .powerOnReset => Sys2Proof.Machine.execPowerOnReset s
  | .pinReset => Sys2Proof.Machine.execPinReset s
  | .framePeriod => Sys2Proof.Machine.execFramePeriod s
  | .downstreamFrame bytes => Sys2Proof.Machine.execDownstreamFrame bytes s
  | .returnFrame bytes => Sys2Proof.Machine.execReturnFrame bytes s
  | .answerSent => Sys2Proof.Machine.execAnswerSent s
  | .fallbackStep => Sys2Proof.Machine.execFallbackStep s
  | .linkLost => Sys2Proof.Machine.execLinkLost s
  | .cueTake => Sys2Proof.Machine.execCueTake s
  | .writeTable via table first count records => Sys2Proof.Machine.execWriteTable via table first count records s
  | .readTable via table first count => Sys2Proof.Machine.execReadTable via table first count s
  | .readState via view index => Sys2Proof.Machine.execReadState via view index s
  | .setClock via ms day rate runHold => Sys2Proof.Machine.execSetClock via ms day rate runHold s
  | .cueTransfer via code => Sys2Proof.Machine.execCueTransfer via code s
  | .execute via records => Sys2Proof.Machine.execExecute via records s
  | .notices via master enables clear => Sys2Proof.Machine.execNotices via master enables clear s
  | .dormantTransfer via => Sys2Proof.Machine.execDormantTransfer via s
  | .wakeTransfer via => Sys2Proof.Machine.execWakeTransfer via s
  | .allStopTransfer via => Sys2Proof.Machine.execAllStopTransfer via s
  | .softReset via => Sys2Proof.Machine.execSoftReset via s
  | .dormantComplete => Sys2Proof.Machine.execDormantComplete s
  | .pendingSetApply => Sys2Proof.Machine.execPendingSetApply s
  | .listEntryFire player => Sys2Proof.Machine.execListEntryFire player s
  | .cueFadeEnd channel => Sys2Proof.Machine.execCueFadeEnd channel s
  | .masterFadeEnd group => Sys2Proof.Machine.execMasterFadeEnd group s
  | .flagPulseEnd flag => Sys2Proof.Machine.execFlagPulseEnd flag s
  | .coilEnd point => Sys2Proof.Machine.execCoilEnd point s
  | .throwComplete point => Sys2Proof.Machine.execThrowComplete point s
  | .chainCycleComplete ret inputs => Sys2Proof.Machine.execChainCycleComplete ret inputs s
  | .watchHoldoffEnd watch => Sys2Proof.Machine.execWatchHoldoffEnd watch s
  | .brakeDelayEnd train => Sys2Proof.Machine.execBrakeDelayEnd train s
  | .arrivalTimeout train => Sys2Proof.Machine.execArrivalTimeout train s
  | .holdTimerEnd axis => Sys2Proof.Machine.execHoldTimerEnd axis s
  | .homeLimit axis => Sys2Proof.Machine.execHomeLimit axis s

end Sys2Proof.Machine
end

