-- ==== Sys2Proof/Machine/Pins.lean ====
section
/-! DEFINITION. The levels of the output pins (Table 11-8, R55, R88, R106, R181), as functions of the state: what the window sees.
The two link outputs are `downOut` and `retOut` of the Link Port. -/

namespace Sys2Proof.Machine

/-- A cab's direction line: active while the train's record is in use with direction REVERSE (R88), so it takes the record's
direction at the commit of a write, and is inactive for a train taken out of use (R84). -/
def cabDirLine (s : State) (t : TrainId) : Bool := s.tables.trains[t].inUse && s.tables.trains[t].dir == .reverse

/-- An axis is energised in every state but IDLE and FAULT (R106). -/
def energised (x : Axis) : Bool :=
  match x.state with
  | .idle | .fault _ => false
  | .holding | .homing | .seeking | .running | .stopping | .following => true

/-- An axis's enable line: active while the axis is in use (R104) and energised (R106). -/
def enableLine (s : State) (a : AxisId) : Bool := s.tables.axes[a].inUse && energised s.axes[a]

/-- An axis's direction line: active while the direction is REVERSE (R106). -/
def axisDirLine (s : State) (a : AxisId) : Bool := s.axes[a].dir == .reverse

/-- What CHAIN OUT shifts in the cycle in flight (R128): the marker, high bit first, and then the output image from its last entry
down, so that entry 0 comes to stand in register 0 (log entry 31). -/
def chainStream (s : State) : List Bool :=
  match s.chain.inFlight with
  | none => []
  | some cyc =>
    (List.range 8).reverse.map (fun i => marker.getLsbD i) ++
    (List.range (8 * cyc.outRegs)).reverse.map (fun k => s.chain.image.getLsbD k)

/-- The output pins (section 11.6). A PWM pin is its duty (of 255), a step line the number of its pulses:
`axStep` in the present frame period so far, `axStepLast` in the one before, which are all it had (R181). CHAIN STROBE is the pulse
of the last completion and CHAIN LOAD that of the last start (log entry 31), CHAIN OUT the stream of the cycle in flight. CHAIN
CLK, its shift clock, carries no value: its timing alone is left out (log entry 34). -/
structure Pins where
  lamp : Vector Nat 16
  cab : Vector Nat 4
  cabDir : Vector Bool 4
  axStep : Vector Nat 6
  axStepLast : Vector Nat 6
  axDir : Vector Bool 6
  axEn : Vector Bool 6
  strobe : Bool
  load : Bool
  chainOut : List Bool
deriving DecidableEq, Repr

/-- Every pin low. -/
def Pins.low : Pins :=
  ⟨.replicate 16 0, .replicate 4 0, .replicate 4 false, .replicate 6 0, .replicate 6 0, .replicate 6 false,
    .replicate 6 false, false, false, []⟩

/-- The pins as the node drives them (R181): low from a reset pin or power-on to the first scene step. -/
def pins (s : State) : Pins :=
  if s.pinsLow then Pins.low
  else
    { lamp := s.lamp.pins
      cab := tab (fun t => s.trains[t].duty)
      cabDir := tab (cabDirLine s)
      axStep := tab (fun a => s.axes[a].pulses)
      axStepLast := tab (fun a => s.axes[a].lastPulses)
      axDir := tab (axisDirLine s)
      axEn := tab (enableLine s)
      strobe := s.chain.strobe
      load := s.chain.load
      chainOut := chainStream s }

end Sys2Proof.Machine
end

