-- ==== Sys2Proof/Safety.lean ====
section
/-! DEFINITION. What every step keeps: the ranges that the manual gives for what the node holds, the agreement of trains and
sections, and what holds of a node at rest. -/

namespace Sys2Proof.Machine

/-- At most 32 cues, none of code 0 (R1, R2), and at most two takes in a frame period (R6). -/
def CueInRange (c : CueEngine) : Prop :=
  c.queue.length ≤ maxCues ∧ (∀ x ∈ c.queue, x.code ≠ 0) ∧ c.takes ≤ maxTakes

/-- A pending set's values (R26). -/
def PendingInRange (p : PendingSet) : Prop :=
  p.time < dayMs ∧ ∀ x ∈ p.setting, x.day ≤ 65535 ∧ x.rate ≤ 65535

/-- Model time, day count and rate, and the pending set (R22). -/
def ClockInRange (c : Clock) : Prop :=
  c.time < dayMs ∧ c.day ≤ 65535 ∧ c.rate ≤ 65535 ∧ ∀ p ∈ c.pendingSet, PendingInRange p

/-- Address (R148), damaged count (R140), gaps (R138) and lock run (R145). -/
def LinkInRange (l : Link) : Prop :=
  l.address ≤ 62 ∧ l.damaged ≤ 65535 ∧ l.stepGap ≤ 10200 ∧ l.markGap ≤ 255 ∧ l.lockRun ≤ 2

/-- The staging buffer (R152) and the reply queue (R163). -/
def XferInRange (x : Transfer) : Prop := x.buf.length ≤ maxStaged ∧ x.replies.length ≤ maxReplies

/-- The break and good counters (R130) and the dormant step count (R127). -/
def ChainInRange (c : Chain) : Prop := c.breaks ≤ 255 ∧ c.goods ≤ 255 ∧ c.dormSteps ≤ 9

/-- The limits of a lamp record (R40). -/
def LampRecInRange (r : LampRec) : Prop := r.lo ≤ r.hi ∧ r.hi ≤ 255

/-- Output levels (R53) and pin duties (R55). -/
def LampInRange (u : LampUnit) : Prop := (∀ c : ChannelId, u.chans[c].out ≤ 255) ∧ ∀ p : PinId, u.pins[p] ≤ 255

/-- The speeds and steps of an axis record (R103). -/
def AxisRecInRange (r : AxisRec) : Prop := r.vs ≤ r.vmax ∧ r.vmax ≤ 4000 ∧ (r.kind = .rotary → 2 ≤ r.steps)

/-- A position of the axis (R105). -/
def PosInRange (r : AxisRec) (pos : Nat) : Prop :=
  match r.kind with
  | .rotary => pos < r.steps
  | .linear => pos ≤ r.steps

/-- Velocity, accumulator, run speed, and the position of an in-use axis (R105), under a record in range. -/
def AxisInRange (r : AxisRec) (x : Axis) : Prop :=
  AxisRecInRange r ∧ x.v ≤ 4000 ∧ x.acc < 4000 ∧ (∀ q ∈ x.runSpeed, q ≤ 4000) ∧ (r.inUse = true → PosInRange r x.pos)

/-- The stored records that the ranges above rest on: parameters of actions (R5) and lamp limits (R40). -/
def TablesInRange (t : Tables) : Prop :=
  (∀ i : Fin 512, t.pool[i].p1 ≤ 255 ∧ t.pool[i].p2 ≤ 255) ∧ ∀ c : ChannelId, LampRecInRange t.lamps[c]

/-- Everything in its range, as it stands inside a command too. -/
structure HeldInRange (s : State) : Prop where
  cue : CueInRange s.cue
  clock : ClockInRange s.clock
  link : LinkInRange s.link
  xfer : XferInRange s.xfer
  chain : ChainInRange s.chain
  lamp : LampInRange s.lamp
  tables : TablesInRange s.tables
  axes : ∀ a : AxisId, AxisInRange s.tables.axes[a] s.axes[a]

/-- Everything in its range, and no request of one block to another left owed between commands. -/
def InRange (s : State) : Prop := HeldInRange s ∧ s.owed = []

/-! ## Trains, sections, rest -/

/-- A route as an in-use record holds it: 1 to 32 entries, each a section (R83, R84). -/
def RouteOk (r : TrainRec) : Prop := 1 ≤ r.length ∧ r.length ≤ 32 ∧ ∀ i : Fin 32, i.val < r.length → r.route[i] ≤ 15

/-- What holds of a train and its sections (R62, R84, R86, R87). -/
structure TrainConsistent (s : State) (t : TrainId) : Prop where
  route : s.tables.trains[t].inUse = true ∨ s.trains[t].state ≠ .parked → RouteOk s.tables.trains[t]
  holdsFew : s.trains[t].hold.length ≤ 3
  holdsOnce : s.trains[t].hold.Nodup
  holds : ∀ n : SectionId, n ∈ s.trains[t].hold ↔ ∃ kept, s.secs[n].state = .held t kept
  holdsNone : s.trains[t].hold = [] ↔ s.trains[t].state = .parked
  reserves : ∀ (n : SectionId) ph, s.trains[t].res = some (n, ph) ↔ ∃ kept, s.secs[n].state = .reserved t ph kept
  waits : ∀ n : SectionId, t ∈ s.secs[n].queue ↔ s.trains[t].queued = some n
  waitsFree : s.trains[t].queued ≠ none →
    s.trains[t].res = none ∧ (s.trains[t].state = .waiting ∨ s.trains[t].state = .approach)
  unreserved : s.trains[t].state = .parked ∨ s.trains[t].state = .stopped → s.trains[t].res = none
  running : s.trains[t].state = .running →
    s.trains[t].target = s.trains[t].cruise ∧ ∃ n, s.trains[t].res = some (n, .set)
  target : s.trains[t].state ≠ .running → s.trains[t].state ≠ .approach → s.trains[t].target = 0

/-- What holds of a section (R62). -/
structure SectionConsistent (s : State) (n : SectionId) : Prop where
  unused : s.tables.sections[n].inUse = false → s.secs[n].state = .free
  queueFew : s.secs[n].queue.length ≤ 3
  queueOnce : s.secs[n].queue.Nodup

/-- Trains and sections agree (R62, R84, R86, R87). -/
def TrackConsistent (s : State) : Prop := (∀ t, TrainConsistent s t) ∧ ∀ n, SectionConsistent s n

/-- A node at rest: while QUIESCING and DORMANT no train is RUNNING, APPROACH or WAITING (R101), and while DORMANT every cab
speed is 0 and no axis is HOMING, SEEKING, RUNNING or STOPPING (R171). -/
structure RestConsistent (s : State) : Prop where
  trains : s.node ≠ .active → ∀ t : TrainId, restsAtDormant s.trains[t] = false
  speeds : s.node = .dormant → ∀ t : TrainId, s.trains[t].speed = 0
  axes : s.node = .dormant → ∀ a : AxisId, s.axes[a].state ≠ .homing ∧ s.axes[a].state ≠ .seeking ∧
    s.axes[a].state ≠ .running ∧ s.axes[a].state ≠ .stopping

/-- The commands that may change a table: a WRITE TABLE (R156), the hard resets (R175), and a downstream frame whose symbol is
CLOSE, which may commit a WRITE TABLE (R154). -/
def writesTables : Instr → Bool
  | .writeTable _ _ _ _ _ | .powerOnReset | .pinReset => true
  | .downstreamFrame bytes => bytes.getD 3 0 == 3
  | _ => false

end Sys2Proof.Machine
end

