-- ==== Sys2Proof/Certificates/Slice0/Obligations.lean ====
section
/-! DEFINITION. The statements about the Scene Node model that the provers are asked to prove. A premise `owed = []` is part
of the invariant InRange: between commands no request of one block to another is left over (log entry 6). -/

open Sys2Proof Sys2Proof.Machine Host

/-! ## The queue of commands, the invariant, the tables -/

/-- A step runs the command at the front of the queue on the state with the queue's rest. -/
def Obligations.StepRunsFrontCommand : Prop :=
  ∀ (c : Instr) (rest : List Instr) (s : State),
    s.pending = c :: rest → step s = exec c { s with pending := rest }

/-- Every command, on every state, answers a next state, and no command touches the queue of waiting commands. -/
def Obligations.EveryCommandAnswersNext : Prop :=
  ∀ (c : Instr) (s : State), ∃ t, exec c s = .next t ∧ t.pending = s.pending

/-- The state after power-on reset is in range, its trains and sections agree, and it meets what holds of a node at rest. -/
def Obligations.ResetMeetsInvariants : Prop :=
  InRange State.reset ∧ TrackConsistent State.reset ∧ RestConsistent State.reset

/-- Every step from a state in range leads to a state in range. -/
def Obligations.StepKeepsInRange : Prop :=
  ∀ s : State, InRange s → ∃ t, step s = .next t ∧ InRange t

/-- The sixteen tables are left as they stand by every command but a WRITE TABLE, a hard reset, and a downstream frame
whose symbol is CLOSE (which may commit a WRITE TABLE). -/
def Obligations.TablesChangeOnlyByWritesOrResets : Prop :=
  ∀ (c : Instr) (s : State), writesTables c = false → ∃ t, exec c s = .next t ∧ t.tables = s.tables

/-! ## Resets -/

/-- Power-on and pin reset: the runtime values of every block, every watch matching (no record is in use, and its all-off mask
always matches), and every output pin low. -/
def Obligations.HardResetRuntimeValues : Prop :=
  ∀ (c : Instr) (s : State), c = .powerOnReset ∨ c = .pinReset →
    ∃ t, exec c s = .next t ∧ t.pending = s.pending ∧ t.node = .active ∧
      t.link.state = .searching ∧ t.link.address = 0 ∧ t.link.lines = 0 ∧ t.link.damaged = 0 ∧ t.link.stepGap = 0 ∧
      t.link.markGap = 255 ∧ t.link.lockRun = 0 ∧ t.link.timeout = 20 ∧ t.link.talk = none ∧
      t.xfer = ⟨none, [], [], false⟩ ∧ t.notices.master = true ∧
      (∀ k : Fin 13, t.notices.latches[k] = .clear ∧ t.notices.enables.getLsbD k.val = true) ∧
      t.cue.queue = [] ∧ (∀ f : FlagId, t.cue.flags[f] = ⟨false, none⟩) ∧
      t.clock = ⟨0, 0, 0, .held, false, none⟩ ∧ (∀ p : PlayerId, t.players[p] = ⟨.stopped, 0, 0⟩) ∧
      (∀ c : ChannelId, t.lamp.chans[c] = ⟨none, 0, false⟩) ∧ (∀ g : GroupId, t.lamp.masters[g] = ⟨255, none⟩) ∧
      (∀ p : PinId, t.lamp.pins[p] = 0) ∧ (∀ n : SectionId, t.secs[n] = ⟨.free, false, []⟩) ∧
      (∀ p : PointId, t.pts[p] = ⟨none, none, none⟩) ∧
      (∀ k : TrainId, t.trains[k] = ⟨.parked, 0, [], none, none, false, 0, 0, 100, none, none, 0, false⟩) ∧
      (∀ a : AxisId, t.axes[a].state = .idle ∧ t.axes[a].pos = 0 ∧ t.axes[a].known = false ∧
        t.axes[a].dir = .forward ∧ t.axes[a].v = 0 ∧ t.axes[a].acc = 0 ∧ t.axes[a].target = none ∧
        t.axes[a].runSpeed = none ∧ t.axes[a].turn = none ∧ t.axes[a].stopPt = none ∧ t.axes[a].homePhase = none ∧
        t.axes[a].holdTimer = none ∧ t.axes[a].arrived = false ∧ t.axes[a].follow = false) ∧
      t.chain.image = 0 ∧ (∀ k : InputId, t.chain.inputs[k] = ⟨false, false, 0⟩) ∧ t.chain.state = .off ∧
      t.chain.breaks = 0 ∧ t.chain.goods = 0 ∧ (∀ w : WatchId, t.chain.watches[w] = ⟨true, 0⟩) ∧
      t.chain.inFlight = none ∧ t.chain.dormSteps = 0 ∧ pins t = Pins.low

/-- Power-on and pin reset: the records of the sixteen tables, where the manual gives their values. -/
def Obligations.HardResetTableValues : Prop :=
  ∀ (c : Instr) (s : State), c = .powerOnReset ∨ c = .pinReset →
    ∃ t, exec c s = .next t ∧
      t.tables.node = ⟨20, 0, 0, .keep⟩ ∧ (∀ i : Fin 256, t.tables.cueMap[i] = ⟨0, 0⟩) ∧
      (∀ i : Fin 512, t.tables.pool[i] = ⟨0, 0, 0, 0⟩) ∧ (∀ i : PlayerId, t.tables.listDir[i] = ⟨0, .once, 0⟩) ∧
      (∀ i : Fin 512, t.tables.listMem[i].isEnd = true) ∧ (∀ i : AlarmId, t.tables.alarms[i] = ⟨false, 0, 0, false⟩) ∧
      (∀ i : CurveId, t.tables.curves[i] = ⟨0, .replicate 16 ⟨0, 0⟩⟩) ∧
      (∀ c : ChannelId, t.tables.lamps[c] = ⟨false, .chain, none, 0, .follow, 0, 255, 0, none, 0, 128⟩) ∧
      (∀ n : SectionId, t.tables.sections[n].inUse = false ∧ t.tables.sections[n].exitPoint = none ∧
        t.tables.sections[n].entryPoint = none ∧ t.tables.sections[n].guardAxis = none ∧
        t.tables.sections[n].brakeDelay = 0 ∧ t.tables.sections[n].entryCue = 0 ∧
        t.tables.sections[n].releaseCue = 0) ∧
      (∀ k : TrainId, t.tables.trains[k] = ⟨false, .forward, 100, 2, 4, 32, 0, 0, 0, .replicate 32 0⟩) ∧
      (∀ p : PointId, t.tables.points[p] = ⟨false, 5, 25⟩) ∧
      (∀ a : AxisId, t.tables.axes[a] =
        ⟨false, .rotary, 200, 50, 400, 20, .reverse, 400, 50, 0, .forward, .none, 0⟩) ∧
      (∀ k : OutputId, t.tables.outMap[k] = ⟨.zero, 0, 0, false⟩) ∧
      (∀ k : InputId, t.tables.inMap[k].role = .none ∧ t.tables.inMap[k].debounce = 0 ∧
        t.tables.inMap[k].invert = false) ∧
      (∀ w : WatchId, t.tables.watches[w] = ⟨false, 0, 0, 0, 0, false⟩) ∧ t.tables.wakeSet = 0

/-- SOFT RESET: what it keeps, what it clears, and its reply. -/
def Obligations.SoftResetKeepsAndClears : Prop :=
  ∀ (via : Opened) (s : State), ∃ t, exec (.softReset via) s = .next t ∧
    t.tables = s.tables ∧ t.link.state = s.link.state ∧ t.link.address = s.link.address ∧
    t.link.lines = s.link.lines ∧ t.link.damaged = s.link.damaged ∧ t.link.stepGap = s.link.stepGap ∧
    t.link.markGap = s.link.markGap ∧ t.link.lockRun = s.link.lockRun ∧ t.link.timeout = s.link.timeout ∧
    t.link.talk = none ∧
    t.notices = ⟨.replicate 13 .clear, s.notices.master, s.notices.enables⟩ ∧
    t.xfer = ⟨none, [], (match via with | .own => [⟨11, .ok, []⟩] | .broadcast => []), false⟩ ∧
    t.cue.queue = [] ∧ (∀ f : FlagId, t.cue.flags[f] = ⟨false, none⟩) ∧
    t.clock = ⟨0, 0, 0, .held, false, none⟩ ∧ (∀ p : PlayerId, t.players[p] = ⟨.stopped, 0, 0⟩) ∧
    (∀ c : ChannelId, t.lamp.chans[c] = ⟨none, 0, false⟩) ∧ (∀ g : GroupId, t.lamp.masters[g] = ⟨255, none⟩) ∧
    (∀ p : PinId, t.lamp.pins[p] = 0) ∧ (∀ n : SectionId, t.secs[n] = ⟨.free, false, []⟩) ∧
    (∀ p : PointId, t.pts[p] = ⟨none, none, none⟩) ∧
    (∀ k : TrainId, t.trains[k] =
      ⟨.parked, 0, [], none, none, false, 0, 0, s.tables.trains[k].cruise, none, none, 0, false⟩) ∧
    (∀ a : AxisId, t.axes[a].state = .idle ∧ t.axes[a].pos = 0 ∧ t.axes[a].known = false ∧
      t.axes[a].dir = .forward ∧ t.axes[a].v = 0 ∧ t.axes[a].acc = 0 ∧ t.axes[a].target = none ∧
      t.axes[a].runSpeed = none ∧ t.axes[a].turn = none ∧ t.axes[a].stopPt = none ∧ t.axes[a].homePhase = none ∧
      t.axes[a].holdTimer = none ∧ t.axes[a].arrived = false ∧ t.axes[a].follow = false) ∧
    t.chain.image = 0 ∧ t.chain.latched = s.chain.latched ∧
    (∀ k : InputId, t.chain.inputs[k] = ⟨false, false, 0⟩) ∧
    t.chain.state = (if s.tables.node.outRegs = 0 ∧ s.tables.node.inRegs = 0 then .off else .ok) ∧
    t.chain.breaks = 0 ∧ t.chain.goods = 0 ∧ t.chain.inFlight = none ∧ t.chain.dormSteps = 0 ∧
    (∀ w : WatchId, t.chain.watches[w] = ⟨watchMatches s.tables.watches[w] (inputValues t), 0⟩) ∧
    t.node = .active

/-! ## The frame periods -/

/-- FRAME_PERIOD on every state: both gaps rise within their ranges, the link-loss timeout is read from table 0, the takes start anew,
and the link's other lasting values, the tables, flags, clock, players, lamps and points stay. Where no axis moves and no answer is being sent, the pulses counted
become those of the period that ended, none is given in the new one, an IDLE return frame is sent, in LOST an own orphan frame, and
nothing else changes but the choice when the Axis Unit takes the period (at an even choice now, at an odd one it is left due). The
fields downOut, retOut, retOwn, takes, pulses, lastPulses, axisDue and the choices are the model's form of these (log entries 1, 7, 8,
12 and 31). -/
def Obligations.FramePeriodCountsAndPorts : Prop :=
  ∀ s : State, s.owed = [] →
    (∃ t, exec .framePeriod s = .next t ∧
      t.link.stepGap = min 10200 (s.link.stepGap + 1) ∧ t.link.markGap = min 255 (s.link.markGap + 1) ∧
      t.link.state = s.link.state ∧ t.link.address = s.link.address ∧ t.link.lines = s.link.lines ∧
      t.link.damaged = s.link.damaged ∧ t.link.lockRun = s.link.lockRun ∧
      t.link.timeout = s.tables.node.timeout ∧ t.cue.takes = 0 ∧
      t.cue.flags = s.cue.flags ∧ t.tables = s.tables ∧ t.clock = s.clock ∧ t.players = s.players ∧
      t.lamp = s.lamp ∧ t.pts = s.pts ∧ t.owed = []) ∧
    (s.axisDue = false → s.link.talk = none →
      (∀ a : AxisId, s.tables.axes[a].inUse = true → generates s.axes[a] = false) →
      exec .framePeriod s = .next { (draw s).2 with
        axisDue := decide ((draw s).1 % 2 = 1)
        link := { s.link with
          stepGap := min 10200 (s.link.stepGap + 1)
          markGap := min 255 (s.link.markGap + 1)
          timeout := s.tables.node.timeout
          downOut := match s.link.state with
            | .lost => some (withCheck [0x04, 0, 0, 0, 0])
            | .searching | .locked => none
          retOut := some (withCheck [0, 0])
          retOwn := false }
        cue := { s.cue with takes := 0 }
        axes := tab (fun a => { s.axes[a] with lastPulses := s.axes[a].pulses, pulses := 0 }) })

/-- Every step keeps trains and sections in agreement: a hold list holds at most three sections, each HELD by its train, a
reservation and a place in a wait queue stand on both sides, and a RUNNING train holds a SET reservation and has cruise in effect
as its target. -/
def Obligations.StepKeepsTrackConsistent : Prop :=
  ∀ s : State, TrackConsistent s → ∃ t, step s = .next t ∧ TrackConsistent t

/-- Every step keeps what holds at rest: in QUIESCING and DORMANT no train is RUNNING, APPROACH or WAITING, and in DORMANT every
cab speed is 0 and no axis is HOMING, SEEKING, RUNNING or STOPPING. -/
def Obligations.StepKeepsRestConsistent : Prop :=
  ∀ s : State, s.owed = [] → TrackConsistent s → RestConsistent s →
    ∃ t, step s = .next t ∧ t.owed = [] ∧ TrackConsistent t ∧ RestConsistent t

/-- FRAME_PERIOD for a SEEKING axis. Its frame period moves it: v joins the accumulator; at 4,000 the axis makes one step and one
pulse (none while the pins are held low), and the step that reaches the target stops it. When in the period that is, is a choice
(log entry 7): at an even choice now, at an odd one it is left for the scene step it falls together with, and a step made by the
fallback timebase leaves none over; what no scene step took is taken as the period ends, and its pulse counts among those of the
period that ends (log entry 31). -/
def Obligations.FramePeriodMovesSeekingAxis : Prop :=
  (∀ (s : State) (a : AxisId) (g c : Nat) (rest : List Nat), s.owed = [] → s.choices = c :: rest →
    s.tables.axes[a].inUse = true → s.axes[a].state = .seeking → s.axes[a].target = some g → s.axes[a].turn = none →
    let x := s.axes[a]
    let r := s.tables.axes[a]
    let p := stepPos r x.dir x.pos
    let moved :=
      if x.acc + x.v < 4000 then { x with acc := x.acc + x.v }
      else if p = g then
        { x with
          state := if r.holdSteps = 0 then .idle else .holding
          holdTimer := if r.holdSteps = 0 then none else some r.holdSteps
          pos := p, v := 0, acc := 0, target := none, runSpeed := none, stopPt := none, homePhase := none,
          homeCount := 0, dial := none, arrived := true }
      else { x with acc := x.acc + x.v - 4000, pos := p }
    let pulse := if 4000 ≤ x.acc + x.v then 1 else 0
    (s.axisDue = false → c % 2 = 0 →
      ∃ t, exec .framePeriod s = .next t ∧ t.axisDue = false ∧
        t.axes[a] = { moved with lastPulses := x.pulses, pulses := if s.pinsLow then 0 else pulse }) ∧
    (s.axisDue = false → c % 2 = 1 →
      ∃ t, exec .framePeriod s = .next t ∧ t.axisDue = true ∧
        t.axes[a] = { x with lastPulses := x.pulses, pulses := 0 }) ∧
    (s.axisDue = true → c % 2 = 1 →
      (∀ b : AxisId, b ≠ a → s.tables.axes[b].inUse = true → generates s.axes[b] = false) →
      ∃ t, exec .framePeriod s = .next t ∧ t.axisDue = true ∧
        t.axes[a] = { moved with lastPulses := if s.pinsLow then 0 else x.pulses + pulse, pulses := 0 })) ∧
  (∀ s : State, s.owed = [] → s.link.state ≠ .locked → 40 ≤ s.link.stepGap →
    ∃ t, exec .fallbackStep s = .next t ∧ t.axisDue = false)

/-! ## Downstream frames -/

/-- The frame check and the four classes: a frame followed by its check leaves the remainder 0, the manual's three examples
hold, and the class is the one R139's table gives. -/
def Obligations.FrameCheckAndClasses : Prop :=
  (∀ bs : List Byte, crc (bs ++ [crc bs]) = 0) ∧
  crc [0x00] = 0x00 ∧ crc [0x01] = 0x07 ∧ crc [0x01, 0x00] = 0x15 ∧
  (∀ bs : List Byte, ¬ (bs.length = 6 ∧ crc (bs.take 5) = bs.getD 5 0) → classify bs = .failed) ∧
  (∀ f c l y v : Byte,
    (f.getLsbD 1 = true → classify (withCheck [f, c, l, y, v]) = .damaged) ∧
    (f.getLsbD 1 = false → f.getLsbD 2 = true → classify (withCheck [f, c, l, y, v]) = .orphan) ∧
    (f.getLsbD 1 = false → f.getLsbD 2 = false → classify (withCheck [f, c, l, y, v]) = .valid))

/-- A failed frame: one more on the damaged count, DAMAGED with lane DOWNSTREAM, an open transfer discarded with DAMAGED, and the
frame forwarded in SEARCHING and LOCKED with the damaged flag set, the mark cleared, cue code 0 and symbol IDLE; nothing
else changes. The IDLE's value 0 is the model's choice (log entry 14). -/
def Obligations.FailedFrame : Prop :=
  ∀ (bs : List Byte) (s : State), ¬ (bs.length = 6 ∧ crc (bs.take 5) = bs.getD 5 0) → s.owed = [] →
    let sent := withCheck [(bs.getD 0 0 ||| 0x02) &&& 0xFE, 0, bs.getD 2 0, 0, 0]
    let link := { s.link with
      damaged := min 65535 (s.link.damaged + 1)
      downOut := match s.link.state with
        | .lost => s.link.downOut
        | .searching | .locked => some sent }
    (s.xfer.opened = none →
      exec (.downstreamFrame bs) s = .next (latch .damaged (.lane false) { s with link := link })) ∧
    (∀ via, s.xfer.opened = some via →
      exec (.downstreamFrame bs) s = .next (outcome via (s.xfer.buf.head?.getD 0) .damaged []
        (latch .damaged (.lane false)
          { s with link := link, xfer := { s.xfer with opened := none, buf := [] } })))

/-- A damaged or an orphan frame: an open transfer is discarded with DAMAGED, the frame is forwarded unchanged in SEARCHING and
LOCKED, and nothing else changes. -/
def Obligations.DamagedOrOrphanFrame : Prop :=
  ∀ (f c l y v : Byte) (s : State), f.getLsbD 1 = true ∨ f.getLsbD 2 = true → s.owed = [] →
    let bs := withCheck [f, c, l, y, v]
    let link := { s.link with
      downOut := match s.link.state with
        | .lost => s.link.downOut
        | .searching | .locked => some bs }
    (s.xfer.opened = none → exec (.downstreamFrame bs) s = .next { s with link := link }) ∧
    (∀ via, s.xfer.opened = some via →
      exec (.downstreamFrame bs) s = .next (outcome via (s.xfer.buf.head?.getD 0) .damaged []
        { s with link := link, xfer := { s.xfer with opened := none, buf := [] } }))

/-- A valid frame without a step mark and with an IDLE symbol: in every link state the held lines take its lines; in SEARCHING and
LOCKED it is forwarded unchanged and a nonzero cue code joins the queue (or is dropped with CUE_OVERRUN when it is full);
nothing else changes. -/
def Obligations.ValidFrameBringsLinesAndCue : Prop :=
  ∀ (f c l y v : Byte) (s : State), f.getLsbD 0 = false → f.getLsbD 1 = false → f.getLsbD 2 = false →
    symbolActs y v = false → s.owed = [] →
    let bs := withCheck [f, c, l, y, v]
    let u := { s with link := { s.link with lines := l, downOut := some bs } }
    (s.link.state = .lost →
      exec (.downstreamFrame bs) s = .next { s with link := { s.link with lines := l } }) ∧
    (s.link.state ≠ .lost → c = 0 → exec (.downstreamFrame bs) s = .next u) ∧
    (s.link.state ≠ .lost → c ≠ 0 → s.cue.queue.length < 32 →
      exec (.downstreamFrame bs) s = .next { u with
        cue := { s.cue with queue := s.cue.queue ++ [⟨c.toNat, .link⟩] } }) ∧
    (s.link.state ≠ .lost → c ≠ 0 → 32 ≤ s.cue.queue.length →
      exec (.downstreamFrame bs) s = .next (latch .cueOverrun (.cue c.toNat .link) u))

/-- An ENUM in SEARCHING or LOCKED: hops 1 to 62 are taken as the address and forwarded one higher; 0 and 63 give address 0
and are forwarded as 63. -/
def Obligations.EnumGivesAddress : Prop :=
  ∀ (f l h : Byte) (s : State), f.getLsbD 0 = false → f.getLsbD 1 = false → f.getLsbD 2 = false →
    h.toNat < 64 → s.link.state ≠ .lost → s.owed = [] →
    exec (.downstreamFrame (withCheck [f, 0, l, 5, h])) s = .next { s with
      link := { s.link with
        lines := l
        address := if 1 ≤ h.toNat ∧ h.toNat ≤ 62 then h.toNat else 0
        downOut := some (withCheck [f, 0, l, 5, if 1 ≤ h.toNat ∧ h.toNat ≤ 62 then h + 1 else 63]) } }

/-- A GRANT to the node's own address while it is not talking: the oldest reply is lent and becomes the answer; with no reply,
the SET latches whose kind enables are on turn to REPORTING in a NOTICE report while the master enable is on; else the answer
is the single byte EMPTY. -/
def Obligations.GrantStartsAnswer : Prop :=
  ∀ (f l g : Byte) (s : State), f.getLsbD 0 = false → f.getLsbD 1 = false → f.getLsbD 2 = false →
    g.toNat = s.link.address → 1 ≤ s.link.address → s.link.address ≤ 62 → s.link.talk = none →
    s.link.state ≠ .lost → s.owed = [] →
    let bs := withCheck [f, 0, l, 4, g]
    let link := { s.link with lines := l, downOut := some bs }
    (∀ r more, s.xfer.replies = r :: more →
      exec (.downstreamFrame bs) s = .next { s with
        link := { link with
          talk := some ⟨.reply, answerSymbols s.link.address ([1, r.kind, byte r.result.code] ++ r.data)⟩ }
        xfer := { s.xfer with lent := true } }) ∧
    (s.xfer.replies = [] → (∀ k : Fin 13, s.notices.master = true → reportable s.notices k = false) →
      exec (.downstreamFrame bs) s = .next { s with
        link := { link with talk := some ⟨.empty, [⟨1, g⟩, ⟨2, 3⟩, ⟨2, 3⟩, ⟨2, 3⟩, ⟨3, 0⟩]⟩ } }) ∧
    (s.xfer.replies = [] → s.notices.master = true → (∃ k : Fin 13, reportable s.notices k = true) →
      exec (.downstreamFrame bs) s = .next { s with
        link := { link with talk := some ⟨.notice, answerSymbols s.link.address (reportBytes s.notices)⟩ }
        notices := { s.notices with
          latches := tab (fun k =>
            match s.notices.latches[k] with
            | .set d => if s.notices.enables.getLsbD k.val then .reporting d none else .set d
            | x => x) } })

/-- OPEN, BYTE and CLOSE symbols in SEARCHING and LOCKED: an OPEN to the own address or to broadcast opens a closed unit with
the buffer empty and another leaves it closed; a BYTE joins the buffer, and a 257th discards the transfer with TOO_LONG; a
closed unit ignores BYTE and CLOSE. An OPEN on an open unit discards the transfer in hand with INTERRUPTED and then acts as on
a closed one. -/
def Obligations.TransferSymbolsAreStaged : Prop :=
  ∀ (f l v : Byte) (s : State), f.getLsbD 0 = false → f.getLsbD 1 = false → f.getLsbD 2 = false →
    s.link.state ≠ .lost → s.owed = [] →
    let frame := fun y : Byte => withCheck [f, 0, l, y, v]
    let u := fun y : Byte => { s with link := { s.link with lines := l, downOut := some (frame y) } }
    (s.xfer.opened = none → v.toNat < 64 →
      exec (.downstreamFrame (frame 1)) s = .next { u 1 with
        xfer :=
          if v.toNat = 63 then { s.xfer with opened := some .broadcast, buf := [] }
          else if 1 ≤ v.toNat ∧ v.toNat = s.link.address then { s.xfer with opened := some .own, buf := [] }
          else s.xfer }) ∧
    (∀ via, s.xfer.opened = some via → v.toNat < 64 →
      let w := outcome via (s.xfer.buf.head?.getD 0) .interrupted []
        { u 1 with xfer := { s.xfer with opened := none, buf := [] } }
      exec (.downstreamFrame (frame 1)) s = .next { w with
        xfer :=
          if v.toNat = 63 then { w.xfer with opened := some .broadcast, buf := [] }
          else if 1 ≤ v.toNat ∧ v.toNat = s.link.address then { w.xfer with opened := some .own, buf := [] }
          else w.xfer }) ∧
    (∀ via, s.xfer.opened = some via → s.xfer.buf.length < 256 →
      exec (.downstreamFrame (frame 2)) s = .next { u 2 with xfer := { s.xfer with buf := s.xfer.buf ++ [v] } }) ∧
    (∀ via, s.xfer.opened = some via → 256 ≤ s.xfer.buf.length →
      exec (.downstreamFrame (frame 2)) s = .next (outcome via (s.xfer.buf.head?.getD 0) .tooLong []
        { u 2 with xfer := { s.xfer with opened := none, buf := [] } })) ∧
    (∀ y : Byte, s.xfer.opened = none → y = 2 ∨ y = 3 →
      exec (.downstreamFrame (frame y)) s = .next (u y))

/-- A CLOSE judges the staged bytes: too few bytes, wrong checks, an unknown kind and a wrong length have their results in that
order, and a body that passes is committed as the row of its kind. -/
def Obligations.CloseJudgesTransfer : Prop :=
  ∀ (f l : Byte) (via : Opened) (s : State), f.getLsbD 0 = false → f.getLsbD 1 = false → f.getLsbD 2 = false →
    s.link.state ≠ .lost → s.owed = [] → s.xfer.opened = some via →
    let bs := withCheck [f, 0, l, 3, 0]
    let v := { s with link := { s.link with lines := l, downOut := some bs } }
    let u := { v with xfer := { s.xfer with opened := none, buf := [] } }
    let done := fun (kind : Byte) (r : Result) => Outcome.next (φ := Fault) (ρ := Refusal) (outcome via kind r [] u)
    (s.xfer.buf.length < 3 →
      exec (.downstreamFrame bs) s = done (s.xfer.buf.head?.getD 0) .badLength) ∧
    (∀ body a b, body ≠ [] → s.xfer.buf = body ++ [a, b] → checks body ≠ (a.toNat, b.toNat) →
      exec (.downstreamFrame bs) s = done (body.getD 0 0) .badCheck) ∧
    (∀ body a b, body ≠ [] → s.xfer.buf = body ++ [a, b] → checks body = (a.toNat, b.toNat) →
      ((body.getD 0 0).toNat = 0 ∨ 11 < (body.getD 0 0).toNat ∨
        (via = .broadcast ∧ (body.getD 0 0 = 2 ∨ body.getD 0 0 = 3))) →
      exec (.downstreamFrame bs) s = done (body.getD 0 0) .badKind) ∧
    (∀ (kind : Byte) (more : List Byte) (a b : Byte) (n : Nat), s.xfer.buf = kind :: more ++ [a, b] →
      checks (kind :: more) = (a.toNat, b.toNat) → more.length + 1 ≠ n →
      (kind.toNat, n) ∈ [(4, 10), (5, 2), (7, 6), (8, 1), (9, 1), (10, 1), (11, 1)] ∨
        (via = .own ∧ (kind.toNat, n) ∈ [(2, 5), (3, 3)]) ∨ (kind = 1 ∧ more.length < 4) →
      exec (.downstreamFrame bs) s = done kind .badLength) ∧
    (∀ (body : List Byte) (a b : Byte), s.xfer.buf = body ++ [a, b] → checks body = (a.toNat, b.toNat) →
      (∀ t h g n records, body = [1, t, h, g, n] ++ records →
        exec (.downstreamFrame bs) s =
          exec (.writeTable via t (BitVec.ofNat 16 (h.toNat * 256 + g.toNat)) n records) v) ∧
      (∀ t h g n, body = [2, t, h, g, n] → via = .own →
        exec (.downstreamFrame bs) s = exec (.readTable via t (BitVec.ofNat 16 (h.toNat * 256 + g.toNat)) n) v) ∧
      (∀ view i, body = [3, view, i] → via = .own →
        exec (.downstreamFrame bs) s = exec (.readState via view i) v) ∧
      (∀ m3 m2 m1 m0 d1 d0 r1 r0 h, body = [4, m3, m2, m1, m0, d1, d0, r1, r0, h] →
        exec (.downstreamFrame bs) s = exec (.setClock via
          (BitVec.ofNat 32 (m3.toNat * 16777216 + m2.toNat * 65536 + m1.toNat * 256 + m0.toNat))
          (BitVec.ofNat 16 (d1.toNat * 256 + d0.toNat)) (BitVec.ofNat 16 (r1.toNat * 256 + r0.toNat)) h) v) ∧
      (∀ c, body = [5, c] → exec (.downstreamFrame bs) s = exec (.cueTransfer via c) v) ∧
      (∀ records, body = 6 :: records → exec (.downstreamFrame bs) s = exec (.execute via records) v) ∧
      (∀ m e1 e0 c1 c0, body = [7, m, e1, e0, c1, c0] →
        exec (.downstreamFrame bs) s = exec (.notices via m (BitVec.ofNat 16 (e1.toNat * 256 + e0.toNat))
          (BitVec.ofNat 16 (c1.toNat * 256 + c0.toNat))) v) ∧
      (body = [8] → exec (.downstreamFrame bs) s = exec (.dormantTransfer via) v) ∧
      (body = [9] → exec (.downstreamFrame bs) s = exec (.wakeTransfer via) v) ∧
      (body = [10] → exec (.downstreamFrame bs) s = exec (.allStopTransfer via) v) ∧
      (body = [11] → exec (.downstreamFrame bs) s = exec (.softReset via) v))

/-! ## Step marks, the lock, the fallback timebase, link loss -/

/-- A valid frame with a step mark and an IDLE symbol makes a scene step in SEARCHING and LOST, and in LOCKED while the step
gap is 30 or more: the step gap becomes 0, every pulse count takes one step, and every master fade takes one step. In LOCKED at a
lower step gap the mark is ignored: the frame's lines are taken and it is forwarded, and with cue code 0 nothing else changes. That
a mark in LOCKED leaves the mark gap as it stands is the model's reading (log entry 16). -/
def Obligations.StepMarksMakeSceneSteps : Prop :=
  ∀ (f c l y v : Byte) (s : State), f.getLsbD 0 = true → f.getLsbD 1 = false → f.getLsbD 2 = false →
    symbolActs y v = false → s.owed = [] →
    let bs := withCheck [f, c, l, y, v]
    ((s.link.state = .locked → 30 ≤ s.link.stepGap) →
      ∃ t, exec (.downstreamFrame bs) s = .next t ∧
        t.link.stepGap = 0 ∧ t.link.lines = l ∧ t.link.address = s.link.address ∧
        t.link.damaged = s.link.damaged ∧ (t.link.state ≠ .lost → t.link.downOut = some bs) ∧
        t.tables = s.tables ∧
        (∀ k : FlagId, t.cue.flags[k] = match s.cue.flags[k].pulse with
          | none => s.cue.flags[k]
          | some n => if n ≤ 1 then ⟨false, none⟩ else ⟨s.cue.flags[k].on, some (n - 1)⟩) ∧
        (∀ g : GroupId, t.lamp.masters[g] = fadeStep s.lamp.masters[g]) ∧
        (s.link.state = .locked → t.link.state = .locked ∧ t.link.lockRun = s.link.lockRun)) ∧
    (s.link.state = .locked → s.link.stepGap < 30 → c = 0 →
      exec (.downstreamFrame bs) s = .next { s with
        link := { s.link with lines := l, downOut := some bs } })

/-- A step mark in SEARCHING or LOST: at a mark gap outside 30 to 50 it starts a new run; inside, it lengthens the run, and
on a run of two already it takes the link to LOCKED, with lock run 0 and LINK latched with LOCKED. -/
def Obligations.ThirdMarkLocks : Prop :=
  ∀ (f c l y v : Byte) (s : State), f.getLsbD 0 = true → f.getLsbD 1 = false → f.getLsbD 2 = false →
    symbolActs y v = false → s.owed = [] → s.link.state ≠ .locked → s.link.lockRun ≤ 2 →
    ∃ t, exec (.downstreamFrame (withCheck [f, c, l, y, v])) s = .next t ∧ t.link.markGap = 0 ∧
      (¬ (30 ≤ s.link.markGap ∧ s.link.markGap ≤ 50) →
        t.link.state = s.link.state ∧ t.link.lockRun = 1 ∧ latchOf t .link = latchOf s .link) ∧
      (30 ≤ s.link.markGap → s.link.markGap ≤ 50 → s.link.lockRun < 2 →
        t.link.state = s.link.state ∧ t.link.lockRun = s.link.lockRun + 1 ∧ latchOf t .link = latchOf s .link) ∧
      (30 ≤ s.link.markGap → s.link.markGap ≤ 50 → s.link.lockRun = 2 →
        t.link.state = .locked ∧ t.link.lockRun = 0 ∧ t.link.stepGap = 0 ∧
        latchOf t .link = (latchOf s .link).take (.link false))

/-- The fallback timebase: in SEARCHING and LOST, at a step gap of 40 or more, it makes a scene step, which an ACTIVE node's
clock, players, flags and masters each take exactly once; otherwise nothing changes. That a step gap above 40 makes the step too
is the model's reading (log entry 5). -/
def Obligations.FallbackStepReachesBlocks : Prop :=
  ∀ s : State, s.owed = [] →
    (s.link.state = .locked ∨ s.link.stepGap < 40 → exec .fallbackStep s = .next s) ∧
    (s.link.state ≠ .locked → 40 ≤ s.link.stepGap → s.node = .active → ClockInRange s.clock →
      ∃ t, exec .fallbackStep s = .next t ∧ t.node = .active ∧ t.owed = [] ∧ t.tables = s.tables ∧
        t.link.stepGap = 0 ∧ t.link.state = s.link.state ∧ t.link.address = s.link.address ∧
        t.link.lines = s.link.lines ∧ t.link.markGap = s.link.markGap ∧ t.link.lockRun = s.link.lockRun ∧
        t.clock = (match s.clock.pendingSet with
          | some p => applySet p s.clock
          | none =>
            if s.clock.run = .running ∧ s.clock.dormantHold = false then
              { s.clock with
                time := (s.clock.time + s.clock.rate) % 86400000
                day := if s.clock.time + s.clock.rate < 86400000 then s.clock.day else (s.clock.day + 1) % 65536 }
            else s.clock) ∧
        t.players = (stepLists s).players ∧
        (∀ k : FlagId, t.cue.flags[k] = flagStep s.cue.flags[k]) ∧
        (∀ g : GroupId, t.lamp.masters[g] = fadeStep s.lamp.masters[g]))

/-- LINK_LOST in LOCKED, once the step gap has reached 40 × the timeout read at this frame period: the link goes LOST with lock run 0 and step gap 0,
LINK is latched with LOST, an open transfer is discarded with LINK, and an answer being sent is abandoned (a report's latches are
SET again with what they reported); one whose CLOSE is on the lane already has been sent (log entry 12). WAITING, RUNNING, APPROACH
and STOPPING trains halt, and RUNNING axes stop. Before that, or in another link state, nothing changes. That a step gap above
40 × the timeout brings the loss too is the model's reading (log entry 5). -/
def Obligations.LinkLostEntersLost : Prop :=
  ∀ s : State, s.owed = [] →
    (s.link.state ≠ .locked ∨ s.link.stepGap < 40 * s.link.timeout → exec .linkLost s = .next s) ∧
    (s.link.state = .locked → 40 * s.link.timeout ≤ s.link.stepGap →
      ∃ t, exec .linkLost s = .next t ∧ t.link.state = .lost ∧ t.link.lockRun = 0 ∧ t.link.stepGap = 0 ∧
        t.link.address = s.link.address ∧ t.link.lines = s.link.lines ∧ t.link.damaged = s.link.damaged ∧
        t.link.talk = none ∧ t.tables = s.tables ∧
        ((∀ rest, s.link.talk ≠ some ⟨.notice, rest⟩) → latchOf t .link = (latchOf s .link).take (.link true)) ∧
        (∀ y rest, s.link.talk = some ⟨.notice, y :: rest⟩ → latchOf t .link = match latchOf s .link with
          | .clear => .set (.link true)
          | .set d | .reporting d _ => .set d) ∧
        (s.link.talk = some ⟨.notice, []⟩ → latchOf t .link = match latchOf s .link with
          | .clear | .reporting _ none => .set (.link true)
          | .set d | .reporting _ (some d) => .set d) ∧
        t.xfer.opened = none ∧
        (s.xfer.opened = none → t.xfer.buf = s.xfer.buf) ∧ (s.xfer.opened ≠ none → t.xfer.buf = []) ∧
        (∀ kept, s.xfer.replies = kept ∧ s.link.talk ≠ some ⟨.reply, []⟩ ∨
            (∃ sent, s.xfer.replies = sent :: kept ∧ s.link.talk = some ⟨.reply, []⟩) →
          (s.xfer.opened ≠ some .own → t.xfer.replies = kept) ∧
          (s.xfer.opened = some .own → s.xfer.replies.length < 4 →
            t.xfer.replies = kept ++ [⟨s.xfer.buf.head?.getD 0, .link, []⟩])) ∧
        (∀ rest, s.link.talk = some ⟨.reply, rest⟩ → t.xfer.lent = false) ∧
        (TrackConsistent s → ∀ k : TrainId,
          (s.trains[k].state = .parked → t.trains[k].state = .parked) ∧
          (s.trains[k].state = .waiting ∨ s.trains[k].state = .running ∨ s.trains[k].state = .approach →
            (t.trains[k].state = .halted .link ∨ t.trains[k].state = .halted .lost ∨
              t.trains[k].state = .halted .guard) ∧ t.trains[k].target = 0) ∧
          t.trains[k].state ≠ .waiting ∧ t.trains[k].state ≠ .running ∧ t.trains[k].state ≠ .approach ∧
          t.trains[k].state ≠ .stopping) ∧
        (∀ a : AxisId, t.axes[a].state ≠ .running ∧
          (s.axes[a].state = .running → (∀ n : SectionId, s.tables.sections[n].guardAxis ≠ some a) →
            t.axes[a].state = .stopping ∨ t.axes[a].state = .holding ∨ t.axes[a].state = .idle)))

/-! ## The return lane -/

/-- A return frame from downstream. While the node is not talking and its own frame of the period is not fixed: sent on as it
arrived when its check matches; otherwise IDLE is sent, the damaged count rises and DAMAGED is latched with RETURN. While the node
talks it is not passed on: the node's own next symbol is sent in the period (unless it is on the lane already), an IDLE leaves
no notice, another symbol latches COLLISION with its type, and with the address of an OPEN, and a frame whose check fails is
counted, latches DAMAGED and is no collision. Three readings are the model's: the IDLE's value 0 (log entry 14), the failed frame while
the node talks (log entry 13), and `retOwn`, the frame of the period that is fixed (log entry 12). -/
def Obligations.ReturnFrames : Prop :=
  (∀ s : State, s.link.talk = none → s.link.retOwn = false →
    (∀ y v : Byte, exec (.returnFrame (withCheck [y, v])) s =
      .next { s with link := { s.link with retOut := some (withCheck [y, v]) } }) ∧
    (∀ bs : List Byte, ¬ (bs.length = 3 ∧ crc (bs.take 2) = bs.getD 2 0) →
      exec (.returnFrame bs) s = .next (latch .damaged (.lane true) { s with
        link := { s.link with damaged := min 65535 (s.link.damaged + 1), retOut := some (withCheck [0, 0]) } }))) ∧
  (∀ (k : AnswerKind) (mine : RetSymbol) (rest : List RetSymbol) (s : State),
    s.link.talk = some ⟨k, mine :: rest⟩ →
    let sent := if s.link.retOwn then s.link else
      { s.link with talk := some ⟨k, rest⟩, retOut := some (withCheck [mine.type, mine.value]), retOwn := true }
    (∀ v : Byte, exec (.returnFrame (withCheck [0, v])) s = .next { s with link := sent }) ∧
    (∀ y v : Byte, y ≠ 0 →
      exec (.returnFrame (withCheck [y, v])) s =
        .next (latch .collision (.symbol y (if y = 1 then v else 0)) { s with link := sent })) ∧
    (∀ bs : List Byte, ¬ (bs.length = 3 ∧ crc (bs.take 2) = bs.getD 2 0) →
      exec (.returnFrame bs) s = .next (latch .damaged (.lane true) { s with
        link := { sent with damaged := min 65535 (s.link.damaged + 1) } })))

/-- ANSWER_SENT, once every symbol of the answer has been put on the lane: a sent reply leaves the queue; a sent report
leaves its latches CLEAR, or SET with the later detail; an EMPTY answer changes nothing more. Before that nothing changes. -/
def Obligations.AnswerSentEndsAnswer : Prop :=
  ∀ s : State,
    ((∀ k, s.link.talk ≠ some ⟨k, []⟩) → exec .answerSent s = .next s) ∧
    (s.link.talk = some ⟨.reply, []⟩ → exec .answerSent s = .next { s with
      link := { s.link with talk := none }
      xfer := { s.xfer with replies := s.xfer.replies.drop 1, lent := false } }) ∧
    (s.link.talk = some ⟨.notice, []⟩ → exec .answerSent s = .next { s with
      link := { s.link with talk := none }
      notices := { s.notices with
        latches := tab (fun k =>
          match s.notices.latches[k] with
          | .reporting _ none => .clear
          | .reporting _ (some later) => .set later
          | x => x) } }) ∧
    (s.link.talk = some ⟨.empty, []⟩ → exec .answerSent s = .next { s with link := { s.link with talk := none } })

/-! ## Cues -/

/-- CUE_TAKE with an empty queue, or after two takes of the frame period, changes nothing; in DORMANT a cue that is not in
the wake set is removed without effect and counts as a take, and so does a cue with an empty list in ACTIVE. -/
def Obligations.CueTakeLimitsAndEmptyTakes : Prop :=
  ∀ s : State, s.owed = [] →
    (s.cue.queue = [] ∨ 2 ≤ s.cue.takes → exec .cueTake s = .next s) ∧
    (∀ c rest, s.cue.queue = c :: rest → s.cue.takes < 2 →
      (s.node = .dormant ∧ s.tables.wakeSet.getLsbD c.code = false) ∨
        (s.node = .active ∧ ∃ h : c.code < 256, s.tables.cueMap[c.code].count = 0) →
      exec .cueTake s = .next { s with cue := { s.cue with queue := rest, takes := s.cue.takes + 1 } })

/-- CUE_TAKE of a cue whose list is FLAG SET, TRAIN RUN of a train not in use, FLAG SET: the actions run in order, the refused
one latches REFUSED with the cue's code, its position 1 and RANGE, and the list goes on. In ACTIVE, and in QUIESCING with the code
outside the wake set, nothing else changes; in QUIESCING and DORMANT with the code in the wake set the node becomes ACTIVE
first, with WAKE latched by the cue. That a QUIESCING node refuses this TRAIN RUN for RANGE and not DORMANT is the model's reading (log
entry 9). -/
def Obligations.CueTakeRunsItsList : Prop :=
  ∀ (s : State) (c : Cue) (rest : List Cue) (i j k : Fin 512) (f g : FlagId) (t : TrainId) (p q : Nat),
    s.owed = [] → s.cue.queue = c :: rest → s.cue.takes < 2 →
    (∃ h : c.code < 256, s.tables.cueMap[c.code] = ⟨i.val, 3⟩) → j.val = i.val + 1 → k.val = i.val + 2 →
    s.tables.pool[i] = ⟨4, f.val, p, q⟩ → s.tables.pool[j] = ⟨10, t.val, p, q⟩ → s.tables.pool[k] = ⟨4, g.val, p, q⟩ →
    s.tables.trains[t].inUse = false →
    let cue := ⟨rest, s.cue.takes + 1, (s.cue.flags.set f ⟨true, none⟩).set g ⟨true, none⟩⟩
    (s.node = .active ∨ (s.node = .quiescing ∧ s.tables.wakeSet.getLsbD c.code = false) →
      exec .cueTake s = .next (latch .refused (.refused c.code 1 .range) { s with cue := cue })) ∧
    (s.node ≠ .active → s.tables.wakeSet.getLsbD c.code = true →
      ∃ u, exec .cueTake s = .next u ∧ u.node = .active ∧ u.owed = [] ∧
        latchOf u .wake = (latchOf s .wake).take (.wake (.cue c.code)) ∧
        latchOf u .refused = (latchOf s .refused).take (.refused c.code 1 .range) ∧ u.cue = cue ∧
        u.clock = { s.clock with dormantHold := false } ∧ u.trains = s.trains ∧ u.tables = s.tables)

/-! ## Transfers -/

/-- What becomes of an outcome: a reply joins the queue while it holds fewer than four and is dropped with REPLY_OVERRUN
otherwise; a broadcast gives no reply, and BCAST_REJECT unless the result is OK. What latching a notice does: its own latch alone
changes, CLEAR to SET, REPORTING without a later detail to REPORTING with one; SET, and REPORTING with a later detail, stay. -/
def Obligations.OutcomesAndLatches : Prop :=
  (∀ (kind : Byte) (r : Result) (d : List Byte) (s : State),
    (s.xfer.replies.length < 4 →
      outcome .own kind r d s = { s with xfer := { s.xfer with replies := s.xfer.replies ++ [⟨kind, r, d⟩] } }) ∧
    (4 ≤ s.xfer.replies.length → outcome .own kind r d s = latch .replyOverrun (.result kind r) s) ∧
    (r = .ok → outcome .broadcast kind r d s = s) ∧
    (r ≠ .ok → outcome .broadcast kind r d s = latch .bcastReject (.result kind r) s)) ∧
  (∀ (k : NoticeKind) (d : Detail) (s : State),
    (latchOf s k = .clear → latchOf (latch k d s) k = .set d) ∧
    (∀ d0, latchOf s k = .set d0 → latch k d s = s) ∧
    (∀ d0, latchOf s k = .reporting d0 none → latchOf (latch k d s) k = .reporting d0 (some d)) ∧
    (∀ d0 l, latchOf s k = .reporting d0 (some l) → latch k d s = s) ∧
    (∀ k', k' ≠ k → latchOf (latch k d s) k' = latchOf s k') ∧
    { latch k d s with notices := s.notices } = s ∧ (latch k d s).notices.master = s.notices.master ∧
    (latch k d s).notices.enables = s.notices.enables)

/-- WRITE_TABLE: a wrong length, a table above 15 and a wrong range are refused in that order, and every refused write leaves
the node as it stood but for the outcome. -/
def Obligations.WriteTableRefusals : Prop :=
  ∀ (via : Opened) (table : Byte) (first : BitVec 16) (count : Byte) (records : List Byte) (s : State),
    let u := { s with xfer := { s.xfer with opened := none, buf := [] } }
    let c := Instr.writeTable via table first count records
    (records.length ≠ count.toNat * recordSize table.toNat → exec c s = .next (outcome via 1 .badLength [] u)) ∧
    (records.length = count.toNat * recordSize table.toNat → 15 < table.toNat →
      exec c s = .next (outcome via 1 .badTable [] u)) ∧
    (records.length = count.toNat * recordSize table.toNat → table.toNat ≤ 15 →
      count = 0 ∨ recordCount table.toNat < first.toNat + count.toNat →
      exec c s = .next (outcome via 1 .range [] u)) ∧
    (records.length = count.toNat * recordSize table.toNat →
      let w := commitWrite table.toNat first.toNat count.toNat records u
      exec c s = .next (outcome via 1 w.1 w.2.1 w.2.2) ∧ (w.1 ≠ .ok → w.2.2 = u))

/-- WRITE_TABLE: a train that is not PARKED locks its record of table 9 and every record of table 8; a cue map record that
R4 accepts is stored with its count clamped to 4. -/
def Obligations.WriteTableLocksAndStores : Prop :=
  ∀ (via : Opened) (s : State),
    let u := { s with xfer := { s.xfer with opened := none, buf := [] } }
    (∀ (t : TrainId) (records : List Byte), records.length = 42 → s.trains[t].state ≠ .parked →
      exec (.writeTable via 9 (BitVec.ofNat 16 t.val) 1 records) s = .next (outcome via 1 .locked [0, byte t.val] u)) ∧
    (∀ (t : TrainId) (n : SectionId) (records : List Byte), records.length = 13 → s.trains[t].state ≠ .parked →
      exec (.writeTable via 8 (BitVec.ofNat 16 n.val) 1 records) s = .next (outcome via 1 .locked [0, byte n.val] u)) ∧
    (∀ (i : Fin 256) (hi lo n : Byte),
      let first := hi.toNat * 256 + lo.toNat
      (first + min 4 n.toNat ≤ 512 →
        exec (.writeTable via 1 (BitVec.ofNat 16 i.val) 1 [hi, lo, n]) s = .next (outcome via 1 .ok []
          { u with tables := { s.tables with cueMap := s.tables.cueMap.set i ⟨first, min 4 n.toNat⟩ } })) ∧
      (512 < first + min 4 n.toNat →
        exec (.writeTable via 1 (BitVec.ofNat 16 i.val) 1 [hi, lo, n]) s =
          .next (outcome via 1 .badRecord [0, byte i.val] u)))

/-- The stored form of every record is accepted again and stands for the same record, and has the size of its table, in the
tables 0 to 14; and the wake set is the bits of its 32 bytes. The branch and from bytes of an absent point and the policy and dial
bytes of a LINEAR axis are accepted whatever they are and read back as written; that no refusal of R59 or R103 reaches them is the
model's reading (log entry 24). -/
def Obligations.StoredRecordsReadBack : Prop :=
  (∀ bs r, decNode bs = some r → decNode (encNode r) = some r ∧ (encNode r).length = 4) ∧
  (∀ bs r, decCueMap bs = some r → decCueMap (encCueMap r) = some r ∧ (encCueMap r).length = 3) ∧
  (∀ bs r, decPool bs = some r → decPool (encPool r) = some r ∧ (encPool r).length = 4) ∧
  (∀ bs r, decListDir bs = some r → decListDir (encListDir r) = some r ∧ (encListDir r).length = 4) ∧
  (∀ bs r, decListEntry bs = some r → decListEntry (encListEntry r) = some r ∧ (encListEntry r).length = 4) ∧
  (∀ bs r, decAlarm bs = some r → decAlarm (encAlarm r) = some r ∧ (encAlarm r).length = 6) ∧
  (∀ bs r, decCurve bs = some r → decCurve (encCurve r) = some r ∧ (encCurve r).length = 49) ∧
  (∀ bs r, decLamp bs = some r → decLamp (encLamp r) = some r ∧ (encLamp r).length = 11) ∧
  (∀ n bs r, decSection n bs = some r → decSection n (encSection r) = some r ∧ (encSection r).length = 13) ∧
  (∀ bs r, decTrain bs = some r → decTrain (encTrain r) = some r ∧ (encTrain r).length = 42) ∧
  (∀ bs r, decPoint bs = some r → decPoint (encPoint r) = some r ∧ (encPoint r).length = 3) ∧
  (∀ bs r, decAxis bs = some r → decAxis (encAxis r) = some r ∧ (encAxis r).length = 20) ∧
  (∀ bs r, decOut bs = some r → decOut (encOut r) = some r ∧ (encOut r).length = 4) ∧
  (∀ bs r, decIn bs = some r → decIn (encIn r) = some r ∧ (encIn r).length = 4) ∧
  (∀ bs r, decWatch bs = some r → decWatch (encWatch r) = some r ∧ (encWatch r).length = 20) ∧
  (∀ w : BitVec 256, decWakeSet (encWakeSet w) = w ∧ (encWakeSet w).length = 32) ∧
  (∀ n bs r, decSection n bs = some r →
    (bs.getD 1 0 = 0xFF → (encSection r).getD 2 0 = bs.getD 2 0 ∧ (encSection r).getD 3 0 = bs.getD 3 0 ∧
      ∀ x y : Byte, (decSection n ((bs.set 2 x).set 3 y)).isSome = true) ∧
    (bs.getD 4 0 = 0xFF → (encSection r).getD 5 0 = bs.getD 5 0 ∧ (encSection r).getD 6 0 = bs.getD 6 0 ∧
      ∀ x y : Byte, (decSection n ((bs.set 5 x).set 6 y)).isSome = true)) ∧
  (∀ bs r, decAxis bs = some r → r.kind = .linear →
    (encAxis r).getD 16 0 = bs.getD 16 0 ∧ (encAxis r).getD 17 0 = bs.getD 17 0 ∧
    ∀ x y : Byte, (decAxis ((bs.set 16 x).set 17 y)).isSome = true)

/-- READ_TABLE: refused above table 15 and beyond the table's end, BAD_KIND when broadcast; otherwise the reply carries the
table, the first index, the lowered count and that many records in stored form; the tables are left as they stand. -/
def Obligations.ReadTableReply : Prop :=
  ∀ (table : Byte) (first : BitVec 16) (count : Byte) (s : State),
    let u := { s with xfer := { s.xfer with opened := none, buf := [] } }
    let n := min (min count.toNat (recordCount table.toNat - first.toNat)) (236 / recordSize table.toNat)
    exec (.readTable .broadcast table first count) s = .next (outcome .broadcast 2 .badKind [] u) ∧
    (15 < table.toNat → exec (.readTable .own table first count) s = .next (outcome .own 2 .badTable [] u)) ∧
    (table.toNat ≤ 15 → recordCount table.toNat ≤ first.toNat →
      exec (.readTable .own table first count) s = .next (outcome .own 2 .range [] u)) ∧
    (table.toNat ≤ 15 → first.toNat < recordCount table.toNat →
      exec (.readTable .own table first count) s = .next (outcome .own 2 .ok
        (table :: byte (first.toNat / 256) :: byte first.toNat :: byte n ::
          (List.range n).flatMap (fun i => readRecord s.tables table.toNat (first.toNat + i))) u))

/-- READ_STATE: BAD_KIND when broadcast; RANGE for an unknown view and for a train or axis beyond the last; otherwise a
reply of at most 240 bytes that changes nothing else, with the bytes of COUNTS and LAMPS written out. -/
def Obligations.ReadStateReply : Prop :=
  ∀ (view index : Byte) (s : State),
    let u := { s with xfer := { s.xfer with opened := none, buf := [] } }
    exec (.readState .broadcast view index) s = .next (outcome .broadcast 3 .badKind [] u) ∧
    (5 < view.toNat ∨ (view = 1 ∧ 3 < index.toNat) ∨ (view = 3 ∧ 5 < index.toNat) →
      exec (.readState .own view index) s = .next (outcome .own 3 .range [] u)) ∧
    (¬ (5 < view.toNat ∨ (view = 1 ∧ 3 < index.toNat) ∨ (view = 3 ∧ 5 < index.toNat)) →
      ∃ d, d.length ≤ 240 ∧ exec (.readState .own view index) s = .next (outcome .own 3 .ok d u)) ∧
    exec (.readState .own 5 index) s = .next (outcome .own 3 .ok
      [byte (s.link.damaged / 256), byte s.link.damaged, byte s.chain.breaks, byte s.chain.goods,
       byte s.cue.queue.length, byte s.xfer.replies.length] u) ∧
    exec (.readState .own 4 index) s = .next (outcome .own 3 .ok
      (List.ofFn (fun c : ChannelId => byte (if s.tables.lamps[c].inUse then s.lamp.chans[c].out else 0))) u)

/-- R160: SET CLOCK fills the pending set, clamping the model time, and is answered OK; CUE refuses code 0 with RANGE, appends any
other code with source REQUEST, and is answered OK even where the full queue drops the cue with CUE_OVERRUN. -/
def Obligations.SetClockAndCueTransfers : Prop :=
  ∀ (via : Opened) (s : State),
    let u := { s with xfer := { s.xfer with opened := none, buf := [] } }
    (∀ (ms : BitVec 32) (day rate : BitVec 16) (runHold : Byte),
      exec (.setClock via ms day rate runHold) s = .next (outcome via 4 .ok [] { u with
        clock := { s.clock with
          pendingSet := some ⟨min ms.toNat 86399999,
            some ⟨day.toNat, rate.toNat, if runHold = 0 then .held else .running⟩⟩ } })) ∧
    exec (.cueTransfer via 0) s = .next (outcome via 5 .range [] u) ∧
    (∀ code : Byte, code ≠ 0 → s.cue.queue.length < 32 →
      exec (.cueTransfer via code) s = .next (outcome via 5 .ok [] { u with
        cue := { s.cue with queue := s.cue.queue ++ [⟨code.toNat, .request⟩] } })) ∧
    (∀ code : Byte, code ≠ 0 → 32 ≤ s.cue.queue.length →
      exec (.cueTransfer via code) s =
        .next (outcome via 5 .ok [] (latch .cueOverrun (.cue code.toNat .request) u)))

/-- EXECUTE: a wrong length is BAD_LENGTH; a bad record is BAD_RECORD with its position and nothing runs; an action on an item
not in use and a start while the node rests are refused with RANGE and DORMANT, latch REFUSED with code 0 and the position,
and the transfer is answered OK with the number refused and the first reason. That RANGE comes before DORMANT, for a resting
node, is the model's reading (log entry 9). -/
def Obligations.ExecuteRefusals : Prop :=
  ∀ (via : Opened) (s : State), s.owed = [] →
    let u := { s with xfer := { s.xfer with opened := none, buf := [] } }
    (∀ records : List Byte, ¬ (records.length % 4 = 0 ∧ 4 ≤ records.length ∧ records.length ≤ 32) →
      exec (.execute via records) s = .next (outcome via 6 .badLength [] u)) ∧
    (∀ k p q r : Byte, 28 < k.toNat →
      exec (.execute via [0, 0, 0, 0, k, p, q, r]) s = .next (outcome via 6 .badRecord [0, 1] u)) ∧
    (∀ (t : TrainId) (q r : Byte), s.tables.trains[t].inUse = false →
      exec (.execute via [10, byte t.val, q, r]) s =
        .next (outcome via 6 .ok [1, 4] (latch .refused (.refused 0 0 .range) u))) ∧
    (∀ (p : PlayerId) (q r : Byte), s.node ≠ .active →
      exec (.execute via [7, byte p.val, q, r]) s =
        .next (outcome via 6 .ok [1, 0] (latch .refused (.refused 0 0 .dormant) u)))

/-- EXECUTE of one FLAG SET, FLAG CLEAR or FLAG PULSE: the flag and its pulse count, a pulse of 0 steps counting as 1; of one
GROUP SET, or of one LAMP SET on an in-use channel: at once with 0 fade units, otherwise a fade of 10 × units steps from the level
as it stands. Nothing else changes but the outcome. -/
def Obligations.ExecuteFlagAndLampActions : Prop :=
  ∀ (via : Opened) (q r : Byte) (s : State), s.owed = [] →
    let u := { s with xfer := { s.xfer with opened := none, buf := [] } }
    let flagged := fun (f : FlagId) (x : Flag) => { u with cue := { s.cue with flags := s.cue.flags.set f x } }
    let toward := fun cur : Nat =>
      if r = 0 then (⟨q.toNat, none⟩ : Level) else ⟨cur, some ⟨cur, q.toNat, 10 * r.toNat, 0⟩⟩
    (∀ f : FlagId,
      exec (.execute via [4, byte f.val, q, r]) s = .next (outcome via 6 .ok [0, 0xFF] (flagged f ⟨true, none⟩)) ∧
      exec (.execute via [5, byte f.val, q, r]) s = .next (outcome via 6 .ok [0, 0xFF] (flagged f ⟨false, none⟩)) ∧
      exec (.execute via [6, byte f.val, q, r]) s =
        .next (outcome via 6 .ok [0, 0xFF] (flagged f ⟨true, some (max q.toNat 1)⟩))) ∧
    (∀ g : GroupId, exec (.execute via [3, byte g.val, q, r]) s = .next (outcome via 6 .ok [0, 0xFF]
      { u with lamp := { s.lamp with masters := s.lamp.masters.set g (toward s.lamp.masters[g].value) } })) ∧
    (∀ c : ChannelId, s.tables.lamps[c].inUse = true →
      exec (.execute via [1, byte c.val, q, r]) s = .next (outcome via 6 .ok [0, 0xFF]
        { u with lamp := { s.lamp with chans := s.lamp.chans.set c { s.lamp.chans[c] with
            layer := some (toward (match s.lamp.chans[c].layer with
              | some l => l.value
              | none => s.lamp.chans[c].out)) } } }))

/-- R37: LIST STOP is accepted in every node state and every player state; the player goes to STOPPED with its index and
countdown as they stood, nothing else changes, and a player so stopped stays STOPPED when the players wake. -/
def Obligations.ListStopStopsPlayer : Prop :=
  ∀ (p : PlayerId) (s : State),
    let stopped := { s with players := s.players.set p { s.players[p] with state := .stopped } }
    (∀ code, runAction code (.listStop p) s = (none, stopped)) ∧
    (s.players[p].state = .stopped → stopped = s) ∧
    (wakeLists stopped).players[p].state = .stopped ∧
    (∀ (via : Opened) (q r : Byte), s.owed = [] →
      exec (.execute via [8, byte p.val, q, r]) s = .next (outcome via 6 .ok [0, 0xFF]
        { stopped with xfer := { s.xfer with opened := none, buf := [] } }))

/-- R66 and R68, a throw request. To an IDLE point: a request for the position it has leaves everything as it stands; any other
makes it MOVING toward that position with the counts of its record, its position kept; UNKNOWN equals neither. To a MOVING point:
it fills the pending slot, replacing what it held, and the throw in progress carries on; at completion the slot is dropped if
it equals the position reached, and starts a new throw otherwise. -/
def Obligations.ThrowRequests : Prop :=
  ∀ (p : PointId) (q : PointPos) (s : State),
    (s.pts[p].motion = none → s.pts[p].position = some q → throwRequest (p, q) s = s) ∧
    (s.pts[p].motion = none → s.pts[p].position ≠ some q → throwRequest (p, q) s = { s with
      pts := s.pts.set p { s.pts[p] with
        motion := some ⟨q, s.tables.points[p].throw, s.tables.points[p].pulse⟩ } }) ∧
    (∀ m : Throw, s.pts[p].motion = some m →
      throwRequest (p, q) s = { s with pts := s.pts.set p { s.pts[p] with slot := some q } } ∧
      (∀ q', throwRequest (p, q) (throwRequest (p, q') s) = throwRequest (p, q) s) ∧
      (∀ r : PointRec, throwDone r m { s.pts[p] with slot := some q } =
        if q = m.target then ⟨some m.target, none, none⟩
        else ⟨some m.target, some ⟨q, r.throw, r.pulse⟩, none⟩))

/-- EXECUTE of one POINT THROW on an in-use point: refused INTERLOCK while a section that is RESERVED or HELD locks the point,
else taken as a throw request. -/
def Obligations.ExecutePointThrow : Prop :=
  ∀ (via : Opened) (p : PointId) (q : PointPos) (r : Byte) (s : State), s.owed = [] →
    s.tables.points[p].inUse = true →
    let u := { s with xfer := { s.xfer with opened := none, buf := [] } }
    let code : Byte := match q with
      | .normal => 0
      | .reverse => 1
    ((∃ n : SectionId, s.tables.sections[n].inUse = true ∧ ownerOf s.secs[n].state ≠ none ∧
        (s.tables.sections[n].exitPoint = some p ∨ s.tables.sections[n].entryPoint = some p)) →
      exec (.execute via [14, byte p.val, code, r]) s =
        .next (outcome via 6 .ok [1, 1] (latch .refused (.refused 0 0 .interlock) u))) ∧
    ((∀ n : SectionId, s.tables.sections[n].inUse = true → ownerOf s.secs[n].state ≠ none →
        s.tables.sections[n].exitPoint ≠ some p ∧ s.tables.sections[n].entryPoint ≠ some p) →
      exec (.execute via [14, byte p.val, code, r]) s =
        .next (outcome via 6 .ok [0, 0xFF] (throwRequest (p, q) u)))

/-- EXECUTE of one TRAIN PLACE on a PARKED in-use train: the FREE or BLOCKED section of the route entry becomes HELD and the
train STOPPED on it. EXECUTE of one TRAIN CLEAR on a STOPPED in-use train with one section and no reservation, while no train
waits in a queue: the section becomes FREE, or BLOCKED while occupied, its release cue is appended, and the train is PARKED. -/
def Obligations.ExecuteTrainPlaceAndClear : Prop :=
  ∀ (via : Opened) (t : TrainId) (n : SectionId) (s : State), s.owed = [] → s.tables.trains[t].inUse = true →
    let u := { s with xfer := { s.xfer with opened := none, buf := [] } }
    (∀ (i : Fin 32) (r : Byte), i.val < s.tables.trains[t].length → s.tables.trains[t].route[i] = n.val →
      s.trains[t].state = .parked → s.tables.sections[n].inUse = true →
      s.secs[n].state = .free ∨ s.secs[n].state = .blocked → s.trains[t].speed = 0 →
      exec (.execute via [9, byte t.val, byte i.val, r]) s = .next (outcome via 6 .ok [0, 0xFF] { u with
        secs := s.secs.set n { s.secs[n] with state := .held t none }
        trains := s.trains.set t { s.trains[t] with
          state := .stopped, hold := [n], headIndex := i.val, speed := 0, target := 0 } })) ∧
    (∀ (kept : Option SectionId) (q r : Byte), s.trains[t].state = .stopped → s.trains[t].hold = [n] →
      s.trains[t].queued = none → s.secs[n].state = .held t kept → (∀ m : SectionId, s.secs[m].queue = []) →
      (∀ (m : SectionId) ph k, s.secs[m].state ≠ .reserved t ph k) →
      exec (.execute via [12, byte t.val, q, r]) s = .next (outcome via 6 .ok [0, 0xFF]
        (appendCue s.tables.sections[n].releaseCue .sectionCue { u with
          secs := s.secs.set n { s.secs[n] with state := if s.secs[n].occ then .blocked else .free }
          trains := s.trains.set t { s.trains[t] with
            state := .parked, hold := [], res := none, queued := none, arrival := none, brakeDelay := none,
            retry := false, target := 0 } })))

/-- TRAIN RUN of a STOPPED train at speed 0 sends a request for the next section of its route, and the answer is taken. GRANTED SET,
where the step needs no point and no guard: the section is RESERVED and the train RUNNING at cruise in effect. With an exit point
that leads there in NORMAL and that no section but the train's own locks: GRANTED SET where it stands in NORMAL, else GRANTED SETTING with
the point thrown and the train WAITING. A section that is not FREE: QUEUED, or FULL where three trains wait. THROW_COMPLETE then
makes the SETTING reservation SET, and a WAITING or APPROACH train goes on RUNNING. -/
def Obligations.RequestsAreAnswered : Prop :=
  (∀ (via : Opened) (t : TrainId) (h n : SectionId) (i : Fin 32) (q r : Byte) (s : State), s.owed = [] →
    s.node = .active → s.chain.state ≠ .fault → s.tables.trains[t].inUse = true → s.trains[t].state = .stopped →
    s.trains[t].overload = false → s.trains[t].speed = 0 → s.trains[t].hold.head? = some h →
    i.val = (s.trains[t].headIndex + 1) % s.tables.trains[t].length → s.tables.trains[t].route[i] = n.val →
    let x := s.trains[t]
    let done := fun (u : State) => Outcome.next (φ := Fault) (ρ := Refusal) (outcome via 6 .ok [0, 0xFF] u)
    let sent := fun (y : Section) (z : Train) => { s with
      xfer := { s.xfer with opened := none, buf := [] }, secs := s.secs.set n y, trains := s.trains.set t z }
    let reserved := fun ph : Phase =>
      { s.secs[n] with state := .reserved t ph h, queue := s.secs[n].queue.filter (· != t) }
    let runs := { x with
      state := .running, target := x.cruise, brakeDelay := none, res := some (n, .set), arrival := some 0,
      queued := none, retry := false }
    let waits := { x with
      state := .waiting, target := 0, brakeDelay := none, res := none, arrival := none, queued := none, retry := false }
    (s.tables.sections[n].inUse = true → s.secs[n].state = .free → s.tables.sections[h].exitPoint = none →
      s.tables.sections[n].entryPoint = none → s.tables.sections[n].guardAxis = none →
      exec (.execute via [10, byte t.val, q, r]) s = done (sent (reserved .set) runs)) ∧
    (∀ p : PointId, s.tables.sections[n].inUse = true → s.secs[n].state = .free →
      s.tables.sections[h].exitPoint = some p → s.tables.sections[h].nextNormal = n.val →
      s.tables.sections[n].entryPoint = none → s.tables.sections[n].guardAxis = none →
      s.tables.points[p].inUse = true → s.pts[p].motion = none → s.secs[h].state = .held t none →
      (∀ m : SectionId, m ≠ h → ownerOf s.secs[m].state ≠ some t) →
      (∀ m : SectionId, m ≠ h → ownerOf s.secs[m].state ≠ none →
        s.tables.sections[m].exitPoint ≠ some p ∧ s.tables.sections[m].entryPoint ≠ some p) →
      (s.pts[p].position = some .normal →
        exec (.execute via [10, byte t.val, q, r]) s = done (sent (reserved .set) runs)) ∧
      (s.pts[p].position ≠ some .normal →
        exec (.execute via [10, byte t.val, q, r]) s =
          done { sent (reserved .setting) { waits with res := some (n, .setting) } with
            pts := s.pts.set p { s.pts[p] with
              motion := some ⟨.normal, s.tables.points[p].throw, s.tables.points[p].pulse⟩ } })) ∧
    (s.secs[n].state ≠ .free → s.secs[n].queue.length < 3 →
      exec (.execute via [10, byte t.val, q, r]) s =
        done (sent { s.secs[n] with queue := s.secs[n].queue ++ [t] } { waits with queued := some n })) ∧
    (s.secs[n].state ≠ .free → 3 ≤ s.secs[n].queue.length →
      exec (.execute via [10, byte t.val, q, r]) s = done (sent s.secs[n] { waits with retry := true }))) ∧
  (∀ (p : PointId) (n kept : SectionId) (k : TrainId) (m : Throw) (s : State),
    s.pts[p].motion = some m → m.throwCount ≤ 1 → m.target = .normal → s.pts[p].slot = none →
    s.secs[n].state = .reserved k .setting kept → (∀ o : SectionId, o ≠ n → ∀ j f, s.secs[o].state ≠ .reserved j .setting f) →
    s.tables.sections[kept].exitPoint = some p → s.tables.sections[kept].nextNormal = n.val →
    s.tables.sections[n].entryPoint = none → s.tables.sections[n].guardAxis = none →
    s.trains[k].res = some (n, .setting) →
    let told := fun x : Train => { s with
      pts := s.pts.set p ⟨some .normal, none, none⟩
      secs := s.secs.set n { s.secs[n] with state := .reserved k .set kept }
      trains := s.trains.set k { x with res := some (n, .set), arrival := some 0 } }
    (s.trains[k].state = .waiting ∨ s.trains[k].state = .approach →
      exec (.throwComplete p) s = .next (told { s.trains[k] with
        state := .running, target := s.trains[k].cruise, brakeDelay := none })) ∧
    (s.trains[k].state = .stopping ∨ (∃ why, s.trains[k].state = .halted why) →
      exec (.throwComplete p) s = .next (told s.trains[k])))

/-- EXECUTE of one AXIS SEEK on an IDLE or HOLDING in-use axis, or on one FOLLOWING at v 0, that knows its position, is not
locked and is not at the target: SEEKING at Vs to the position taken mod N (ROTARY) or clamped to N (LINEAR); LINEAR toward the
target, ROTARY forward or, with policy SHORTEST, in reverse where that is the shorter way. -/
def Obligations.ExecuteAxisSeekFromRest : Prop :=
  ∀ (via : Opened) (a : AxisId) (hi lo : Byte) (s : State), s.owed = [] → s.node = .active →
    s.tables.axes[a].inUse = true → s.axes[a].known = true →
    s.axes[a].state = .idle ∨ s.axes[a].state = .holding ∨ (s.axes[a].state = .following ∧ s.axes[a].v = 0) →
    (∀ n : SectionId, s.tables.sections[n].guardAxis = some a → ownerOf s.secs[n].state = none) →
    let r := s.tables.axes[a]
    let x := s.axes[a]
    (match r.kind with
      | .rotary => x.pos < r.steps ∧ (r.policy = .forward ∨ r.policy = .shortest)
      | .linear => x.pos ≤ r.steps) →
    let g := match r.kind with
      | .rotary => (hi.toNat * 256 + lo.toNat) % r.steps
      | .linear => min (hi.toNat * 256 + lo.toNat) r.steps
    g ≠ x.pos →
    exec (.execute via [16, byte a.val, hi, lo]) s = .next (outcome via 6 .ok [0, 0xFF] { s with
      xfer := { s.xfer with opened := none, buf := [] }
      axes := s.axes.set a { x with
        state := .seeking, target := some g, v := r.vs, acc := 0, runSpeed := none, turn := none, stopPt := none,
        dial := none, holdTimer := none, arrived := false, follow := false
        dir := match r.kind with
          | .linear => if x.pos < g then .forward else .reverse
          | .rotary =>
            if r.policy = .shortest ∧ (x.pos + r.steps - g) % r.steps < (g + r.steps - x.pos) % r.steps then .reverse
            else .forward } })

/-- NOTICES: the master enable and the thirteen kind enables are set, the latches named in the clear mask become CLEAR
whatever their state, and the others keep theirs. A latch so cleared stays CLEAR when the answer in progress is later reported
sent or abandoned; only REPLY_OVERRUN can be SET again, by the transfer's own reply at a full reply queue. -/
def Obligations.NoticesTransferSetsAndClears : Prop :=
  ∀ (via : Opened) (master : Byte) (enables clear : BitVec 16) (s : State),
    (exec (.notices via master enables clear) s = .next (outcome via 7 .ok [] { s with
      xfer := { s.xfer with opened := none, buf := [] }
      notices := {
        latches := tab (fun k => if clear.getLsbD k.val then .clear else s.notices.latches[k])
        master := master != 0
        enables := enables.truncate 13 } })) ∧
    (∀ k : NoticeKind, clear.getLsbD k.idx.val = true →
      k ≠ .replyOverrun ∨ via = .broadcast ∨ s.xfer.replies.length < 4 →
      ∃ t, exec (.notices via master enables clear) s = .next t ∧ latchOf t k = .clear ∧
        (∃ u, exec .answerSent t = .next u ∧ latchOf u k = .clear) ∧ latchOf (abandonAnswer t) k = .clear)

/-! ## Node states -/

/-- DORMANT: refused STATE while WAKE is SET or REPORTING; accepted without change in QUIESCING and DORMANT. In ACTIVE the rest
begins: every PLAYING player PAUSED, the dormant hold set under the policy HOLD, RUNNING and rolling APPROACH trains STOPPING,
WAITING ones STOPPED or STOPPING, in-use RUNNING axes parked or stopped and FOLLOWING ones standing under HOLD (an axis that guards a
section may take a guard seek instead, so those are left out). The node is QUIESCING, and stays so in this command where no axis
moved; where an axis that moved comes to rest in it, the check of R171, which the model makes after the four requests (log entry
27), takes the node to DORMANT if everything stands. -/
def Obligations.DormantTransferBeginsRest : Prop :=
  ∀ (via : Opened) (s : State), s.owed = [] →
    let u := { s with xfer := { s.xfer with opened := none, buf := [] } }
    let moves := fun x : Axis => x.state = .homing ∨ x.state = .seeking ∨ x.state = .running ∨ x.state = .stopping
    (latchOf s .wake ≠ .clear → exec (.dormantTransfer via) s = .next (outcome via 8 .state [] u)) ∧
    (latchOf s .wake = .clear → s.node ≠ .active → exec (.dormantTransfer via) s = .next (outcome via 8 .ok [] u)) ∧
    (latchOf s .wake = .clear → s.node = .active → ∃ t, exec (.dormantTransfer via) s = .next t ∧
      (t.node = .quiescing ∨ t.node = .dormant) ∧
      ((∀ a : AxisId, ¬ moves s.axes[a]) → t.node = .quiescing) ∧
      (∀ a : AxisId, s.tables.axes[a].inUse = true → s.axes[a].state = .running → s.axes[a].known = false →
        s.axes[a].v ≤ s.tables.axes[a].vs → (∀ b : AxisId, b ≠ a → ¬ moves s.axes[b]) →
        (∀ k : TrainId, s.trains[k].speed = 0 ∧ s.trains[k].state ≠ .waiting ∧ s.trains[k].state ≠ .running ∧
          s.trains[k].state ≠ .approach) → s.chain.inFlight = none →
        t.node = .dormant) ∧
      t.owed = [] ∧ t.tables = s.tables ∧ t.lamp = s.lamp ∧ t.chain = s.chain ∧
      t.clock = { s.clock with
        dormantHold := s.clock.dormantHold || decide (s.tables.node.policy = .hold) } ∧
      (∀ p : PlayerId, t.players[p] = { s.players[p] with
        state := if s.players[p].state = .playing then .paused else s.players[p].state }) ∧
      (TrackConsistent s → ∀ k : TrainId,
        (s.trains[k].state = .running ∨ (s.trains[k].state = .approach ∧ 0 < s.trains[k].speed) →
          t.trains[k].state = .stopping) ∧
        (s.trains[k].state = .waiting ∨ s.trains[k].state = .approach →
          t.trains[k].state = .stopped ∨ t.trains[k].state = .stopping) ∧
        (s.trains[k].state ≠ .running → s.trains[k].state ≠ .approach → s.trains[k].state ≠ .waiting →
          t.trains[k].state = s.trains[k].state)) ∧
      (∀ a : AxisId, (∀ n : SectionId, s.tables.sections[n].guardAxis ≠ some a) →
        let x := s.axes[a]
        let y := t.axes[a]
        let r := s.tables.axes[a]
        let stands := y.v = 0 ∧ (y.state = .idle ∨ y.state = .holding)
        (r.inUse = false ∨ (x.state ≠ .running ∧ x.state ≠ .following) → y = x) ∧
        (r.inUse = true → x.state = .following →
          (s.tables.node.policy = .keep → y = x) ∧ (s.tables.node.policy = .hold → stands ∧ y.follow = true)) ∧
        (r.inUse = true → x.state = .running → x.known = true →
          (stands ∧ y.arrived = true) ∨ (y.state = .seeking ∧ y.target = some (match r.kind with
            | .rotary => r.park % r.steps
            | .linear => min r.park r.steps))) ∧
        (r.inUse = true → x.state = .running → x.known = false →
          (x.v ≤ r.vs → stands) ∧ (r.vs < x.v → y.v = x.v ∧ y.state = .stopping))))

/-- WAKE: nothing but the outcome in ACTIVE; in QUIESCING and DORMANT the node becomes ACTIVE with WAKE latched by TRANSFER,
the dormant hold is cleared, every PAUSED player goes on PLAYING, and the axes marked follow-on-wake lose the mark. -/
def Obligations.WakeTransferEndsRest : Prop :=
  ∀ (via : Opened) (s : State), s.owed = [] →
    (s.node = .active → exec (.wakeTransfer via) s =
      .next (outcome via 9 .ok [] { s with xfer := { s.xfer with opened := none, buf := [] } })) ∧
    (s.node ≠ .active → ∃ t, exec (.wakeTransfer via) s = .next t ∧ t.node = .active ∧ t.owed = [] ∧
      latchOf t .wake = (latchOf s .wake).take (.wake .transfer) ∧
      t.clock = { s.clock with dormantHold := false } ∧
      (∀ p : PlayerId, t.players[p] = { s.players[p] with
        state := if s.players[p].state = .paused then .playing else s.players[p].state }) ∧
      (∀ a : AxisId, t.axes[a].follow = false ∧
        (s.axes[a].follow = false → t.axes[a] = s.axes[a]) ∧
        (s.axes[a].follow = true → s.axes[a].known = true →
          s.axes[a].state = .idle ∨ s.axes[a].state = .holding → t.axes[a].state = .following)) ∧
      t.trains = s.trains ∧ t.tables = s.tables)

/-- ALL STOP: accepted in every node state. Every train in WAITING, RUNNING, APPROACH, STOPPING or HALTED is HALTED for
ALLSTOP (OVERRUN, LOST and LENGTH are kept), PARKED and STOPPED trains stay so. An in-use HOMING, SEEKING or RUNNING axis comes to
rest at once with v not above Vs, and is STOPPING otherwise, with the target it had before a turn-about; a FOLLOWING one comes to
rest with follow-on-wake no, and the others are left: that an IDLE or HOLDING axis keeps its follow-on-wake mark is the model's
reading (log entry 35). An ACTIVE node stays ACTIVE and a DORMANT one DORMANT. -/
def Obligations.AllStopHaltsTrainsAndAxes : Prop :=
  ∀ (via : Opened) (s : State), s.owed = [] →
    ∃ t, exec (.allStopTransfer via) s = .next t ∧ t.owed = [] ∧ t.tables = s.tables ∧
      (s.node = .active → t.node = .active) ∧ (s.node = .dormant → t.node = .dormant) ∧
      (∀ k : TrainId,
        (s.trains[k].state = .waiting ∨ s.trains[k].state = .running ∨ s.trains[k].state = .approach ∨
            s.trains[k].state = .stopping →
          t.trains[k].state = .halted .allstop ∧ t.trains[k].target = 0) ∧
        (∀ why, s.trains[k].state = .halted why → t.trains[k].target = 0 ∧
          t.trains[k].state = .halted (if why = .overrun ∨ why = .lost ∨ why = .length then why else .allstop)) ∧
        (s.trains[k].state = .parked ∨ s.trains[k].state = .stopped → t.trains[k].state = s.trains[k].state)) ∧
      (∀ a : AxisId, s.tables.axes[a].inUse = true →
        let x := s.axes[a]
        let r := s.tables.axes[a]
        let rests := fun y : Axis => { y with
          state := if r.holdSteps = 0 then .idle else .holding
          holdTimer := if r.holdSteps = 0 then none else some r.holdSteps
          v := 0, acc := 0, target := none, runSpeed := none, turn := none, stopPt := none, homePhase := none,
          homeCount := 0, dial := none }
        (x.state = .homing ∨ x.state = .seeking ∨ x.state = .running →
          t.axes[a] =
            if x.v ≤ r.vs then rests { x with arrived := false }
            else { x with
              state := .stopping, target := if x.turn = none then x.target else x.stopPt, runSpeed := none,
              turn := none, stopPt := none, homePhase := none, homeCount := 0 }) ∧
        (x.state = .following → t.axes[a] = rests { x with follow := false }) ∧
        (x.state = .idle ∨ x.state = .holding ∨ x.state = .stopping ∨ (∃ why, x.state = .fault why) →
          t.axes[a] = x)) ∧
      t.clock = s.clock ∧ t.players = s.players ∧ t.lamp = s.lamp ∧ t.chain = s.chain

/-- DORMANT_COMPLETE: in QUIESCING, with every cab speed 0, no axis HOMING, SEEKING, RUNNING or STOPPING and no chain cycle in
flight, the node becomes DORMANT and nothing else changes; otherwise nothing changes. -/
def Obligations.DormantCompleteChecksStand : Prop :=
  ∀ s : State, s.owed = [] →
    let stands := (∀ t : TrainId, s.trains[t].speed = 0) ∧ s.chain.inFlight = none ∧
      (∀ a : AxisId, s.axes[a].state ≠ .homing ∧ s.axes[a].state ≠ .seeking ∧ s.axes[a].state ≠ .running ∧
        s.axes[a].state ≠ .stopping)
    (s.node = .quiescing → stands → exec .dormantComplete s = .next { s with node := .dormant }) ∧
    (s.node ≠ .quiescing ∨ ¬ stands → exec .dormantComplete s = .next s)

/-! ## Moments of the node's own time (log entry 4: where the moment is not due, the model changes nothing) -/

/-- LIST_ENTRY_FIRE of a PLAYING player at its last count. A CUE entry below index 511 appends its code and the player arrives
at the next entry: with a delay above 0 it waits for that delay; with delay 0 the entry fires in the same step. An END in ONCE or
RESTART stops the player, appends the end cue and latches LIST_END; in LOOP it appends the end cue and arrives at the start
entry, without LIST_END. A LOOP whose start is the END itself fires it sixteen times (here without an end cue) and then waits on it
with countdown 1. -/
def Obligations.ListEntryFires : Prop :=
  ∀ (p : PlayerId) (s : State) (i : Fin 512), s.players[p].state = .playing → s.players[p].countdown ≤ 1 →
    s.players[p].index = i.val →
    (∀ (j : Fin 512) (delay code d code' : Nat), j.val = i.val + 1 →
      s.tables.listMem[i] = ⟨false, delay, code⟩ → s.tables.listMem[j] = ⟨false, d, code'⟩ → 0 < d →
      exec (.listEntryFire p) s = .next { appendCue code .list s with
        players := s.players.set p ⟨.playing, j.val, d⟩ }) ∧
    (∀ (j k : Fin 512) (delay code code' d code'' : Nat), j.val = i.val + 1 → k.val = i.val + 2 →
      s.tables.listMem[i] = ⟨false, delay, code⟩ → s.tables.listMem[j] = ⟨false, 0, code'⟩ →
      s.tables.listMem[k] = ⟨false, d, code''⟩ → 0 < d →
      exec (.listEntryFire p) s = .next { appendCue code' .list (appendCue code .list s) with
        players := s.players.set p ⟨.playing, k.val, d⟩ }) ∧
    (∀ delay code : Nat, s.tables.listMem[i] = ⟨true, delay, code⟩ → s.tables.listDir[p].mode ≠ .loop →
      exec (.listEntryFire p) s = .next (latch .listEnd (.player p) (appendCue s.tables.listDir[p].endCue .list
        { s with players := s.players.set p ⟨.stopped, i.val, 0⟩ }))) ∧
    (∀ (j : Fin 512) (delay code d code' : Nat), s.tables.listMem[i] = ⟨true, delay, code⟩ →
      s.tables.listDir[p].mode = .loop → s.tables.listDir[p].start = j.val →
      s.tables.listMem[j] = ⟨false, d, code'⟩ → 0 < d →
      exec (.listEntryFire p) s = .next { appendCue s.tables.listDir[p].endCue .list s with
        players := s.players.set p ⟨.playing, j.val, d⟩ }) ∧
    (∀ delay code : Nat, s.tables.listMem[i] = ⟨true, delay, code⟩ → s.tables.listDir[p].mode = .loop →
      s.tables.listDir[p].start = i.val → s.tables.listDir[p].endCue = 0 →
      exec (.listEntryFire p) s = .next { s with players := s.players.set p ⟨.playing, i.val, 1⟩ })

/-- PENDING_SET_APPLY: the carried values become the clock's and the set becomes absent; with no set present nothing changes.
CUE_FADE_END and MASTER_FADE_END at the last step of the fade: the value becomes the to-level and the fade is removed.
FLAG_PULSE_END and WATCH_HOLDOFF_END at the last count: the flag clears with its count removed; the hold-off count becomes 0
with the match state kept. Nothing else changes. -/
def Obligations.ClockFadesPulsesAndHoldOffs : Prop :=
  ∀ s : State,
    (s.clock.pendingSet = none → exec .pendingSetApply s = .next s) ∧
    (∀ ms, s.clock.pendingSet = some ⟨ms, none⟩ →
      exec .pendingSetApply s = .next { s with clock := { s.clock with time := ms, pendingSet := none } }) ∧
    (∀ ms day rate run, s.clock.pendingSet = some ⟨ms, some ⟨day, rate, run⟩⟩ →
      exec .pendingSetApply s = .next { s with clock := ⟨ms, day, rate, run, s.clock.dormantHold, none⟩ }) ∧
    (∀ (c : ChannelId) (v : Nat) (f : Fade), f.len ≤ f.elapsed + 1 → s.lamp.chans[c].layer = some ⟨v, some f⟩ →
      exec (.cueFadeEnd c) s = .next { s with lamp := { s.lamp with
        chans := s.lamp.chans.set c { s.lamp.chans[c] with layer := some ⟨f.to_, none⟩ } } }) ∧
    (∀ (g : GroupId) (v : Nat) (f : Fade), f.len ≤ f.elapsed + 1 → s.lamp.masters[g] = ⟨v, some f⟩ →
      exec (.masterFadeEnd g) s = .next { s with lamp := { s.lamp with
        masters := s.lamp.masters.set g ⟨f.to_, none⟩ } }) ∧
    (∀ (f : FlagId) (n : Nat), s.cue.flags[f].pulse = some n → n ≤ 1 →
      exec (.flagPulseEnd f) s = .next { s with cue := { s.cue with flags := s.cue.flags.set f ⟨false, none⟩ } }) ∧
    (∀ w : WatchId, s.chain.watches[w].holdOff ≤ 1 →
      exec (.watchHoldoffEnd w) s = .next { s with chain := { s.chain with
        watches := s.chain.watches.set w ⟨s.chain.watches[w].isMatch, 0⟩ } })

/-- COIL_END and THROW_COMPLETE of a MOVING point, at the last count: the coil count becomes 0; the position becomes the
target and the point IDLE, or MOVING anew toward another position in its slot. -/
def Obligations.CoilAndThrowEnd : Prop :=
  ∀ (p : PointId) (m : Throw) (s : State), s.pts[p].motion = some m →
    (m.coilCount ≤ 1 → exec (.coilEnd p) s = .next { s with
      pts := s.pts.set p { s.pts[p] with motion := some { m with coilCount := 0 } } }) ∧
    (m.throwCount ≤ 1 → ∀ q, s.pts[p].slot = some q → q ≠ m.target →
      exec (.throwComplete p) s = .next { s with
        pts := s.pts.set p ⟨some m.target, some ⟨q, s.tables.points[p].throw, s.tables.points[p].pulse⟩, none⟩ }) ∧
    (m.throwCount ≤ 1 → s.pts[p].slot = none ∨ s.pts[p].slot = some m.target →
      ∃ t, exec (.throwComplete p) s = .next t ∧ t.pts = s.pts.set p ⟨some m.target, none, none⟩ ∧
        t.axes = s.axes ∧ t.tables = s.tables ∧
        ((∀ n : SectionId, ∀ k o, s.secs[n].state ≠ .reserved k .setting o) →
          t = { s with pts := s.pts.set p ⟨some m.target, none, none⟩ }))

/-- BRAKE_DELAY_END of an APPROACH train at its last count: the counter is removed and the target becomes 0. ARRIVAL_TIMEOUT of a
RUNNING or STOPPING train, rolling on a SET reservation, whose next count reaches its timeout: it is HALTED for LOST. -/
def Obligations.TrainCountersRunOut : Prop :=
  ∀ (k : TrainId) (s : State),
    (∀ n, s.trains[k].state = .approach → s.trains[k].brakeDelay = some n → n ≤ 1 →
      exec (.brakeDelayEnd k) s = .next { s with
        trains := s.trains.set k { s.trains[k] with brakeDelay := none, target := 0 } }) ∧
    (∀ (n : SectionId) (count : Nat), s.trains[k].state = .running ∨ s.trains[k].state = .stopping →
      s.trains[k].res = some (n, .set) → 0 < s.trains[k].speed → s.trains[k].queued = none →
      s.trains[k].arrival = some count → 0 < s.tables.trains[k].timeout →
      s.tables.trains[k].timeout ≤ min 65535 (count + 1) →
      exec (.arrivalTimeout k) s = .next (latch .trainHalt (.halt k .lost) { s with
        trains := s.trains.set k { s.trains[k] with
          state := .halted .lost, target := 0, arrival := some (min 65535 (count + 1)), queued := none,
          retry := false, brakeDelay := none } }))

/-- HOLD_TIMER_END of a HOLDING axis at its last count: IDLE with the timer removed. HOME_LIMIT of a HOMING axis whose next
step is due beyond its limit, in an ACTIVE node, where no section names the axis as guard: FAULT with reason HOME, its motion
removed, known, arrived and follow-on-wake no, and AXIS_FAULT latched. -/
def Obligations.AxisTimersRunOut : Prop :=
  ∀ (a : AxisId) (s : State),
    (∀ n, s.axes[a].state = .holding → s.axes[a].holdTimer = some n → n ≤ 1 →
      exec (.holdTimerEnd a) s = .next { s with
        axes := s.axes.set a { s.axes[a] with state := .idle, holdTimer := none } }) ∧
    (s.tables.axes[a].inUse = true → s.axes[a].state = .homing → 4000 ≤ s.axes[a].acc + s.axes[a].v →
      s.tables.axes[a].homeLimit ≤ s.axes[a].homeCount → s.node = .active →
      (∀ n : SectionId, s.tables.sections[n].guardAxis ≠ some a) →
      exec (.homeLimit a) s = .next (latch .axisFault (.axis a .home) { s with
        axes := s.axes.set a { s.axes[a] with
          state := .fault .home, v := 0, acc := 0, target := none, runSpeed := none, turn := none, stopPt := none,
          homePhase := none, homeCount := 0, holdTimer := none, dial := none, known := false, arrived := false,
          follow := false } }))

/-! ## The expansion chain -/

/-- CHAIN_CYCLE_COMPLETE with no cycle in flight, or in OFF, changes nothing. A bad completion keeps image, outputs, raw values and
debounced values, adds to the break counter and clears the good counter; below three breaks an OK chain stays OK and nothing else
changes; the third takes it to FAULT, latches CHAIN, and leaves no train WAITING, RUNNING, APPROACH or STOPPING and no axis HOMING. -/
def Obligations.BadChainCycle : Prop :=
  ∀ (ret : Byte) (inputs : BitVec 64) (s : State), ret ≠ 0xA5 → s.owed = [] →
    (s.chain.inFlight = none ∨ s.chain.state = .off → exec (.chainCycleComplete ret inputs) s = .next s) ∧
    (∀ cyc, s.chain.inFlight = some cyc → s.chain.state = .ok → s.node = .active →
      let c := { s.chain with
        strobe := false, load := false, inFlight := none, goods := 0, breaks := min 255 (s.chain.breaks + 1) }
      (s.chain.breaks < 2 → exec (.chainCycleComplete ret inputs) s = .next { s with chain := c }) ∧
      (2 ≤ s.chain.breaks → ∃ t, exec (.chainCycleComplete ret inputs) s = .next t ∧
        t.chain = { c with state := .fault } ∧ t.node = .active ∧ t.owed = [] ∧
        latchOf t .chain = (latchOf s .chain).take (.chain true) ∧ t.tables = s.tables ∧
        (∀ k : TrainId, t.trains[k].state ≠ .waiting ∧ t.trains[k].state ≠ .running ∧
          t.trains[k].state ≠ .approach ∧ t.trains[k].state ≠ .stopping) ∧
        (∀ a : AxisId, t.axes[a].state ≠ .homing)))

/-- A good completion in OK, or the third in a row in FAULT, which returns to OK with CHAIN latched: the output registers take
the image, the raw values the shifted inputs below the input length, the good counter rises and the break counter clears, every
input takes one debounce pass, the values of the roles are handed to the sections, the cabs and the axes, and every in-use watch
is evaluated once against the input values. A good completion in FAULT before the third takes the raw values and counts, and
nothing else changes. -/
def Obligations.GoodChainCycle : Prop :=
  ∀ (inputs : BitVec 64) (cyc : Cycle) (s : State), s.chain.inFlight = some cyc → s.owed = [] →
    let raw := fun k : InputId => decide (k.val < 8 * cyc.inRegs) && inputs.getLsbD k.val
    (s.chain.state = .ok ∨ (s.chain.state = .fault ∧ 2 ≤ s.chain.goods) →
      ∃ t, exec (.chainCycleComplete 0xA5 inputs) s = .next t ∧ t.chain.latched = s.chain.image ∧
        t.chain.image = s.chain.image ∧ t.chain.inFlight = none ∧ t.chain.state = .ok ∧ t.chain.breaks = 0 ∧
        t.chain.goods = min 255 (s.chain.goods + 1) ∧ t.tables = s.tables ∧ t.owed = [] ∧
        latchOf t .chain = (if s.chain.state = .ok then latchOf s .chain
          else (latchOf s .chain).take (.chain false)) ∧
        (∀ k : InputId, t.chain.inputs[k] =
          (let x := s.chain.inputs[k]
           if raw k = x.deb then ⟨raw k, x.deb, 0⟩
           else if s.tables.inMap[k].debounce ≤ x.count then ⟨raw k, raw k, 0⟩
           else ⟨raw k, x.deb, x.count + 1⟩)) ∧
        (∀ n : SectionId, t.secs[n].occ = roleValue t .detector n.val) ∧
        (∀ k : TrainId, t.trains[k].overload = roleValue t .cabfault k.val) ∧
        (∀ a : AxisId, t.axes[a].homeIn = roleValue t .home a.val ∧ t.axes[a].faultIn = roleValue t .axfault a.val) ∧
        (∀ w : WatchId,
          let r := s.tables.watches[w]
          let x := s.chain.watches[w]
          let m := watchMatches r (inputValues t)
          t.chain.watches[w] =
            if r.inUse = false then x
            else if m = true ∧ x.isMatch = false ∧ x.holdOff = 0 then ⟨true, r.holdOff⟩
            else ⟨m, x.holdOff⟩)) ∧
    (s.chain.state = .fault → s.chain.goods < 2 → s.node = .active →
      exec (.chainCycleComplete 0xA5 inputs) s = .next { s with chain := { s.chain with
        latched := s.chain.image, strobe := true, load := false, inFlight := none,
        goods := min 255 (s.chain.goods + 1), breaks := 0
        inputs := tab (fun k => { s.chain.inputs[k] with raw := raw k }) } })

/-- What an arrival does to an in-use section and its train, and that a detector event with one change is that change. FREE:
BLOCKED with STRAY. HELD and BLOCKED: the occupancy alone. RESERVED SETTING: the train is HALTED for OVERRUN at speed 0. RESERVED SET:
the train's entry, refused for LENGTH where it would hold four sections; a taken entry makes the section HELD with its kept step and
the head, appends the entry cue, and releases the head before it where that is clear. A STOPPING or HALTED train sends no
request; a RUNNING one is granted a FREE next section that needs nothing and stays RUNNING, is granted one behind its guard axis SETTING
while that seeks, and is QUEUED, or FULL behind three waiters, for one not FREE: then it goes to APPROACH with the brake delay of its
new head, or to WAITING at speed 0. That TRAIN_HALT records the reason of the halt that latches it, also where the train keeps an
earlier reason, is the model's reading (log entry 19). -/
def Obligations.ArrivalsActBySectionState : Prop :=
  ∀ (n : SectionId) (s : State),
    let occupied := fun st : SecState => { s with secs := s.secs.set n { s.secs[n] with occ := true, state := st } }
    let same := occupied s.secs[n].state
    (∀ v : SectionId → Bool, (∀ m, m ≠ n → v m = s.secs[m].occ) → v n = true → s.secs[n].occ = false →
      detectorEvent v s = arrival n s) ∧
    (s.tables.sections[n].inUse = false → arrival n s = same) ∧
    (s.tables.sections[n].inUse = true →
      (s.secs[n].state = .free → arrival n s = latch .stray (.sectionAt n) (occupied .blocked)) ∧
      (s.secs[n].state = .blocked ∨ (∃ k o, s.secs[n].state = .held k o) → arrival n s = same) ∧
      (∀ k o, s.secs[n].state = .reserved k .setting o → s.trains[k].res = some (n, .setting) →
        s.trains[k].queued = none →
        arrival n s = latch .trainHalt (.halt k .overrun) { same with
          trains := s.trains.set k { s.trains[k] with
            state := .halted (if s.trains[k].state = .halted .lost then .lost
              else if s.trains[k].state = .halted .length then .length else .overrun)
            target := 0, speed := 0, duty := 0, queued := none, retry := false, brakeDelay := none } }) ∧
      (∀ k o head tail, s.secs[n].state = .reserved k .set o → s.trains[k].hold = head :: tail → head ≠ n →
        let x := s.trains[k]
        let y := { x with
          hold := n :: x.hold, headIndex := (x.headIndex + 1) % s.tables.trains[k].length, res := none, arrival := none }
        let held := occupied (.held k (some o))
        let cued := appendCue s.tables.sections[n].entryCue .sectionCue
        (3 ≤ tail.length ∨ (2 ≤ tail.length ∧ s.secs[head].occ = true) → x.queued = none →
          x.state = .running ∨ x.state = .stopping ∨ (∃ why, x.state = .halted why) →
          arrival n s = latch .trainHalt (.halt k .length) { same with
            trains := s.trains.set k { x with
              state := .halted (if x.state = .halted .overrun then .overrun
                else if x.state = .halted .lost then .lost else .length)
              target := 0, queued := none, retry := false, brakeDelay := none } }) ∧
        (tail.length ≤ 1 → s.secs[head].occ = true → x.state = .stopping ∨ (∃ why, x.state = .halted why) →
          arrival n s = cued { held with trains := s.trains.set k y }) ∧
        (tail.length ≤ 2 → s.secs[head].occ = false → x.state = .stopping ∨ (∃ why, x.state = .halted why) →
          (∀ m : SectionId, s.secs[m].queue = []) →
          arrival n s = appendCue s.tables.sections[head].releaseCue .sectionCue (cued { held with
            secs := held.secs.set head { s.secs[head] with state := .free }
            trains := s.trains.set k { y with hold := y.hold.filter (· != head) } })) ∧
        (∀ (m : SectionId) (i : Fin 32), tail.length ≤ 1 → s.secs[head].occ = true → x.state = .running →
          i.val = (y.headIndex + 1) % s.tables.trains[k].length → s.tables.trains[k].route[i] = m.val → m ≠ n →
          let delay := s.tables.sections[n].brakeDelay
          let back := fun z : Train =>
            if x.speed = 0 then { z with state := .waiting, target := 0, brakeDelay := none }
            else { z with
              state := .approach
              target := if delay = 0 then 0 else min x.speed x.cruise
              brakeDelay := if delay = 0 then none else some delay }
          let queue := s.secs[m].queue
          let reserved := fun ph : Phase =>
            held.secs.set m { s.secs[m] with state := .reserved k ph n, queue := queue.filter (· != k) }
          let plainStep := s.tables.sections[n].exitPoint = none ∧ s.tables.sections[m].entryPoint = none
          (s.secs[m].state ≠ .free → queue.length < 3 →
            arrival n s = cued { held with
              secs := held.secs.set m { s.secs[m] with queue := queue ++ [k] }
              trains := s.trains.set k (back { y with queued := some m, retry := false }) }) ∧
          (s.secs[m].state ≠ .free → 3 ≤ queue.length →
            arrival n s = cued { held with trains := s.trains.set k (back { y with queued := none, retry := true }) }) ∧
          (s.secs[m].state = .free → s.tables.sections[m].inUse = true → plainStep →
            s.tables.sections[m].guardAxis = none →
            arrival n s = cued { held with
              secs := reserved .set
              trains := s.trains.set k { y with
                state := .running, res := some (m, .set), arrival := some 0, queued := none, retry := false
                target := x.cruise, brakeDelay := none } }) ∧
          (∀ a : AxisId, s.secs[m].state = .free → s.tables.sections[m].inUse = true → plainStep →
            s.tables.sections[m].guardAxis = some a →
            (∀ j : SectionId, j ≠ m → s.tables.sections[j].guardAxis ≠ some a) →
            s.tables.axes[a].inUse = true → s.axes[a].known = true →
            s.axes[a].state ≠ .homing → (∀ why, s.axes[a].state ≠ .fault why) →
            let g := s.tables.sections[m].guardPos
            s.axes[a].pos ≠ takeTarget s.tables.axes[a] g →
            arrival n s = cued { held with
              secs := reserved .setting
              axes := s.axes.set a { (seekOrder s.tables.axes[a] g s.axes[a]).1 with follow := false }
              trains := s.trains.set k (back { y with res := some (m, .setting), queued := none, retry := false }) }))))

/-- What a clearing does to an in-use section, and that a detector event with one change is that change. RESERVED, FREE, and HELD at
the head of its train: the occupancy alone. HELD behind the head: released, with its release cue. BLOCKED: FREE. Both free the section
for the waiters (here none), and a train that waits for it alone and whose step needs nothing is granted it and goes RUNNING. -/
def Obligations.ClearingsReleaseAndGrant : Prop :=
  ∀ (n : SectionId) (s : State),
    let clear := fun st : SecState => { s with secs := s.secs.set n { s.secs[n] with occ := false, state := st } }
    let same := clear s.secs[n].state
    let noneWaits := ∀ m : SectionId, s.secs[m].queue = []
    (∀ v : SectionId → Bool, (∀ m, m ≠ n → v m = s.secs[m].occ) → v n = false → s.secs[n].occ = true →
      detectorEvent v s = clearing n s) ∧
    (s.tables.sections[n].inUse = false → clearing n s = same) ∧
    (s.tables.sections[n].inUse = true →
      (s.secs[n].state = .free ∨ (∃ k ph o, s.secs[n].state = .reserved k ph o) → clearing n s = same) ∧
      (∀ k o, s.secs[n].state = .held k o →
        (s.trains[k].hold.head? = some n → clearing n s = same) ∧
        (s.trains[k].hold.head? ≠ some n → noneWaits →
          clearing n s = appendCue s.tables.sections[n].releaseCue .sectionCue { clear .free with
            trains := s.trains.set k { s.trains[k] with hold := s.trains[k].hold.filter (· != n) } })) ∧
      (s.secs[n].state = .blocked → noneWaits → clearing n s = clear .free) ∧
      (∀ (k : TrainId) (head : SectionId), s.secs[n].state = .blocked → s.secs[n].queue = [k] →
        (∀ m : SectionId, m ≠ n → s.secs[m].queue = []) → s.trains[k].hold.head? = some head →
        s.tables.sections[head].exitPoint = none → s.tables.sections[n].entryPoint = none →
        s.tables.sections[n].guardAxis = none →
        clearing n s = { s with
          secs := s.secs.set n ⟨.reserved k .set head, false, []⟩
          trains := s.trains.set k { s.trains[k] with
            state := .running, target := s.trains[k].cruise, brakeDelay := none, res := some (n, .set),
            arrival := some 0, queued := none, retry := false } }))

/-! ## Levels, speeds, motion -/

/-- R51 and R53: the master stage gives (P × M + 127) / 255 of the master's level as the step left it, the limit stage 0 for
0 and the greater of lo and the lesser of hi and Q otherwise; so a lamp channel's output is 0 or lies from lo to hi. -/
def Obligations.MasterAndLimitStages : Prop :=
  (∀ P M : Nat, masterStage P M = (P * M + 127) / 255) ∧
  (∀ x : Nat, x ≤ 255 → masterStage x 255 = x ∧ masterStage 255 x = x ∧ masterStage x 0 = 0 ∧ masterStage 0 x = 0) ∧
  masterStage 1 128 = 1 ∧ masterStage 1 127 = 0 ∧
  (∀ (s : State) (c : ChannelId), s.tables.lamps[c].inUse = true → s.node = .active →
    s.tables.lamps[c].flashLine = none →
    let r := s.tables.lamps[c]
    let P := mix r.mode (sceneValue s r) (s.lamp.chans[c].layer.map fadeStep)
    let Q := (P * (stepLamps s).lamp.masters[r.group].value + 127) / 255
    (stepLamps s).lamp.chans[c].out = if Q = 0 then 0 else max r.lo (min r.hi Q)) ∧
  (∀ (s : State) (c : ChannelId), s.tables.lamps[c].inUse = true →
    s.tables.lamps[c].lo ≤ s.tables.lamps[c].hi →
    let out := (stepLamps s).lamp.chans[c].out
    out = 0 ∨ (s.tables.lamps[c].lo ≤ out ∧ out ≤ s.tables.lamps[c].hi))

/-- The ramp moves a train's speed toward its target and never past it, rising by accel, falling by brake, or by emergency while
HALTED; the duty is 0 at speed 0, never below the minimum at any other, and 255 at 255. From the first scene step on, the cab pin
gives the duty, and the direction line is active while the record is in use with REVERSE. A write that takes a PARKED train out of
use gives duty 0 and an inactive direction line; one of an in-use record whose route passes sets cruise in effect and the
direction line, and keeps the duty. -/
def Obligations.CabDutyAndDirection : Prop :=
  (∀ (r : TrainRec) (x : Train),
    (x.speed < x.target → (ramp r x).speed = min x.target (x.speed + r.accel)) ∧
    (x.speed = x.target → (ramp r x).speed = x.speed) ∧
    (x.target < x.speed → (∃ why, x.state = .halted why) →
      (ramp r x).speed = max x.target (x.speed - r.emergency)) ∧
    (x.target < x.speed → (∀ why, x.state ≠ .halted why) → (ramp r x).speed = max x.target (x.speed - r.brake)) ∧
    (ramp r x).duty = cabDuty r.minDuty (ramp r x).speed) ∧
  (∀ d : Nat, d ≤ 255 → cabDuty d 0 = 0 ∧ cabDuty d 255 = 255) ∧
  (∀ d v : Nat, d ≤ 255 → 0 < v → v ≤ 255 →
    cabDuty d v = d + ((255 - d) * v + 127) / 255 ∧ d ≤ cabDuty d v ∧ cabDuty d v ≤ 255) ∧
  (∀ (s : State) (k : TrainId), s.pinsLow = false →
    (pins s).cab[k] = s.trains[k].duty ∧
    ((pins s).cabDir[k] = true ↔ s.tables.trains[k].inUse = true ∧ s.tables.trains[k].dir = .reverse)) ∧
  (∀ (via : Opened) (k : TrainId) (records : List Byte) (r : TrainRec) (s : State), records.length = 42 →
    decTrain records = some r → s.trains[k].state = .parked →
    r.inUse = false ∨ routeBad s.tables.sections r = false →
    exec (.writeTable via 9 (BitVec.ofNat 16 k.val) 1 records) s = .next (outcome via 1 .ok [] { s with
      xfer := { s.xfer with opened := none, buf := [] }
      tables := { s.tables with trains := s.tables.trains.set k r }
      trains := s.trains.set k { s.trains[k] with
        cruise := r.cruise, duty := if r.inUse then s.trains[k].duty else 0 } }))

/-- A scene step of the Axis Unit sets a SEEKING axis without a turn-about to the velocity of the profile, and leaves it
within Vs to Vmax while the target is not reached. The axis's lines: from the first scene step on, the enable line is active for an
in-use axis in every state but IDLE and FAULT, the direction line while the direction is REVERSE, and the step line gives the
pulses counted in the present frame period and in the one before; before that every output pin is low. -/
def Obligations.ProfileAndAxisLines : Prop :=
  (∀ (s : State) (a : AxisId) (g : Nat), s.tables.axes[a].inUse = true → s.axes[a].state = .seeking →
    s.axes[a].turn = none → s.axes[a].target = some g →
    let r := s.tables.axes[a]
    let x := s.axes[a]
    let d := remaining r x.dir x.pos g
    let b := x.v * x.v / (200 * r.accel)
    (stepAxis a s).axes[a] = { x with
      v := if d = 0 then 0
        else if d ≤ b + x.v / 100 then max r.vs (x.v - r.accel)
        else min r.vmax (max r.vs (x.v + r.accel)) } ∧
    (d ≠ 0 → r.vs ≤ r.vmax → x.v ≤ r.vmax →
      r.vs ≤ (stepAxis a s).axes[a].v ∧ (stepAxis a s).axes[a].v ≤ r.vmax)) ∧
  (∀ (s : State) (a : AxisId), s.pinsLow = false →
    ((pins s).axEn[a] = true ↔
      s.tables.axes[a].inUse = true ∧ s.axes[a].state ≠ .idle ∧ ∀ why, s.axes[a].state ≠ .fault why) ∧
    ((pins s).axDir[a] = true ↔ s.axes[a].dir = .reverse) ∧ (pins s).axStep[a] = s.axes[a].pulses ∧
    (pins s).axStepLast[a] = s.axes[a].lastPulses) ∧
  (∀ s : State, s.pinsLow = true → pins s = Pins.low)
end

