-- ==== Sys2Proof/Laws/State.lean ====
section
/-! SUPPORT. One lemma for each field under each update of the state, so that no proof unfolds a record update. -/

namespace Sys2Proof.Machine

/-! ## setSec -/

section
variable (n : SectionId) (x : Section) (s : State)
@[simp] theorem setSec_pending : (setSec n x s).pending = s.pending := rfl
@[simp] theorem setSec_choices : (setSec n x s).choices = s.choices := rfl
@[simp] theorem setSec_drawn : (setSec n x s).drawn = s.drawn := rfl
@[simp] theorem setSec_owed : (setSec n x s).owed = s.owed := rfl
@[simp] theorem setSec_axisDue : (setSec n x s).axisDue = s.axisDue := rfl
@[simp] theorem setSec_checkDue : (setSec n x s).checkDue = s.checkDue := rfl
@[simp] theorem setSec_tables : (setSec n x s).tables = s.tables := rfl
@[simp] theorem setSec_link : (setSec n x s).link = s.link := rfl
@[simp] theorem setSec_xfer : (setSec n x s).xfer = s.xfer := rfl
@[simp] theorem setSec_notices : (setSec n x s).notices = s.notices := rfl
@[simp] theorem setSec_cue : (setSec n x s).cue = s.cue := rfl
@[simp] theorem setSec_clock : (setSec n x s).clock = s.clock := rfl
@[simp] theorem setSec_players : (setSec n x s).players = s.players := rfl
@[simp] theorem setSec_lamp : (setSec n x s).lamp = s.lamp := rfl
@[simp] theorem setSec_secs : (setSec n x s).secs = s.secs.set n x := rfl
@[simp] theorem setSec_pts : (setSec n x s).pts = s.pts := rfl
@[simp] theorem setSec_trains : (setSec n x s).trains = s.trains := rfl
@[simp] theorem setSec_axes : (setSec n x s).axes = s.axes := rfl
@[simp] theorem setSec_chain : (setSec n x s).chain = s.chain := rfl
@[simp] theorem setSec_node : (setSec n x s).node = s.node := rfl
@[simp] theorem setSec_pinsLow : (setSec n x s).pinsLow = s.pinsLow := rfl
end

/-! ## setPt -/

section
variable (p : PointId) (x : Point) (s : State)
@[simp] theorem setPt_pending : (setPt p x s).pending = s.pending := rfl
@[simp] theorem setPt_choices : (setPt p x s).choices = s.choices := rfl
@[simp] theorem setPt_drawn : (setPt p x s).drawn = s.drawn := rfl
@[simp] theorem setPt_owed : (setPt p x s).owed = s.owed := rfl
@[simp] theorem setPt_axisDue : (setPt p x s).axisDue = s.axisDue := rfl
@[simp] theorem setPt_checkDue : (setPt p x s).checkDue = s.checkDue := rfl
@[simp] theorem setPt_tables : (setPt p x s).tables = s.tables := rfl
@[simp] theorem setPt_link : (setPt p x s).link = s.link := rfl
@[simp] theorem setPt_xfer : (setPt p x s).xfer = s.xfer := rfl
@[simp] theorem setPt_notices : (setPt p x s).notices = s.notices := rfl
@[simp] theorem setPt_cue : (setPt p x s).cue = s.cue := rfl
@[simp] theorem setPt_clock : (setPt p x s).clock = s.clock := rfl
@[simp] theorem setPt_players : (setPt p x s).players = s.players := rfl
@[simp] theorem setPt_lamp : (setPt p x s).lamp = s.lamp := rfl
@[simp] theorem setPt_secs : (setPt p x s).secs = s.secs := rfl
@[simp] theorem setPt_pts : (setPt p x s).pts = s.pts.set p x := rfl
@[simp] theorem setPt_trains : (setPt p x s).trains = s.trains := rfl
@[simp] theorem setPt_axes : (setPt p x s).axes = s.axes := rfl
@[simp] theorem setPt_chain : (setPt p x s).chain = s.chain := rfl
@[simp] theorem setPt_node : (setPt p x s).node = s.node := rfl
@[simp] theorem setPt_pinsLow : (setPt p x s).pinsLow = s.pinsLow := rfl
end

/-! ## setTrain -/

section
variable (t : TrainId) (x : Train) (s : State)
@[simp] theorem setTrain_pending : (setTrain t x s).pending = s.pending := rfl
@[simp] theorem setTrain_choices : (setTrain t x s).choices = s.choices := rfl
@[simp] theorem setTrain_drawn : (setTrain t x s).drawn = s.drawn := rfl
@[simp] theorem setTrain_owed : (setTrain t x s).owed = s.owed := rfl
@[simp] theorem setTrain_axisDue : (setTrain t x s).axisDue = s.axisDue := rfl
@[simp] theorem setTrain_checkDue : (setTrain t x s).checkDue = s.checkDue := rfl
@[simp] theorem setTrain_tables : (setTrain t x s).tables = s.tables := rfl
@[simp] theorem setTrain_link : (setTrain t x s).link = s.link := rfl
@[simp] theorem setTrain_xfer : (setTrain t x s).xfer = s.xfer := rfl
@[simp] theorem setTrain_notices : (setTrain t x s).notices = s.notices := rfl
@[simp] theorem setTrain_cue : (setTrain t x s).cue = s.cue := rfl
@[simp] theorem setTrain_clock : (setTrain t x s).clock = s.clock := rfl
@[simp] theorem setTrain_players : (setTrain t x s).players = s.players := rfl
@[simp] theorem setTrain_lamp : (setTrain t x s).lamp = s.lamp := rfl
@[simp] theorem setTrain_secs : (setTrain t x s).secs = s.secs := rfl
@[simp] theorem setTrain_pts : (setTrain t x s).pts = s.pts := rfl
@[simp] theorem setTrain_trains : (setTrain t x s).trains = s.trains.set t x := rfl
@[simp] theorem setTrain_axes : (setTrain t x s).axes = s.axes := rfl
@[simp] theorem setTrain_chain : (setTrain t x s).chain = s.chain := rfl
@[simp] theorem setTrain_node : (setTrain t x s).node = s.node := rfl
@[simp] theorem setTrain_pinsLow : (setTrain t x s).pinsLow = s.pinsLow := rfl
end

/-! ## setAxis -/

section
variable (a : AxisId) (x : Axis) (s : State)
@[simp] theorem setAxis_pending : (setAxis a x s).pending = s.pending := rfl
@[simp] theorem setAxis_choices : (setAxis a x s).choices = s.choices := rfl
@[simp] theorem setAxis_drawn : (setAxis a x s).drawn = s.drawn := rfl
@[simp] theorem setAxis_owed : (setAxis a x s).owed = s.owed := rfl
@[simp] theorem setAxis_axisDue : (setAxis a x s).axisDue = s.axisDue := rfl
@[simp] theorem setAxis_checkDue : (setAxis a x s).checkDue = s.checkDue := rfl
@[simp] theorem setAxis_tables : (setAxis a x s).tables = s.tables := rfl
@[simp] theorem setAxis_link : (setAxis a x s).link = s.link := rfl
@[simp] theorem setAxis_xfer : (setAxis a x s).xfer = s.xfer := rfl
@[simp] theorem setAxis_notices : (setAxis a x s).notices = s.notices := rfl
@[simp] theorem setAxis_cue : (setAxis a x s).cue = s.cue := rfl
@[simp] theorem setAxis_clock : (setAxis a x s).clock = s.clock := rfl
@[simp] theorem setAxis_players : (setAxis a x s).players = s.players := rfl
@[simp] theorem setAxis_lamp : (setAxis a x s).lamp = s.lamp := rfl
@[simp] theorem setAxis_secs : (setAxis a x s).secs = s.secs := rfl
@[simp] theorem setAxis_pts : (setAxis a x s).pts = s.pts := rfl
@[simp] theorem setAxis_trains : (setAxis a x s).trains = s.trains := rfl
@[simp] theorem setAxis_axes : (setAxis a x s).axes = s.axes.set a x := rfl
@[simp] theorem setAxis_chain : (setAxis a x s).chain = s.chain := rfl
@[simp] theorem setAxis_node : (setAxis a x s).node = s.node := rfl
@[simp] theorem setAxis_pinsLow : (setAxis a x s).pinsLow = s.pinsLow := rfl
end

/-! ## setPlayer -/

section
variable (p : PlayerId) (x : Player) (s : State)
@[simp] theorem setPlayer_pending : (setPlayer p x s).pending = s.pending := rfl
@[simp] theorem setPlayer_choices : (setPlayer p x s).choices = s.choices := rfl
@[simp] theorem setPlayer_drawn : (setPlayer p x s).drawn = s.drawn := rfl
@[simp] theorem setPlayer_owed : (setPlayer p x s).owed = s.owed := rfl
@[simp] theorem setPlayer_axisDue : (setPlayer p x s).axisDue = s.axisDue := rfl
@[simp] theorem setPlayer_checkDue : (setPlayer p x s).checkDue = s.checkDue := rfl
@[simp] theorem setPlayer_tables : (setPlayer p x s).tables = s.tables := rfl
@[simp] theorem setPlayer_link : (setPlayer p x s).link = s.link := rfl
@[simp] theorem setPlayer_xfer : (setPlayer p x s).xfer = s.xfer := rfl
@[simp] theorem setPlayer_notices : (setPlayer p x s).notices = s.notices := rfl
@[simp] theorem setPlayer_cue : (setPlayer p x s).cue = s.cue := rfl
@[simp] theorem setPlayer_clock : (setPlayer p x s).clock = s.clock := rfl
@[simp] theorem setPlayer_players : (setPlayer p x s).players = s.players.set p x := rfl
@[simp] theorem setPlayer_lamp : (setPlayer p x s).lamp = s.lamp := rfl
@[simp] theorem setPlayer_secs : (setPlayer p x s).secs = s.secs := rfl
@[simp] theorem setPlayer_pts : (setPlayer p x s).pts = s.pts := rfl
@[simp] theorem setPlayer_trains : (setPlayer p x s).trains = s.trains := rfl
@[simp] theorem setPlayer_axes : (setPlayer p x s).axes = s.axes := rfl
@[simp] theorem setPlayer_chain : (setPlayer p x s).chain = s.chain := rfl
@[simp] theorem setPlayer_node : (setPlayer p x s).node = s.node := rfl
@[simp] theorem setPlayer_pinsLow : (setPlayer p x s).pinsLow = s.pinsLow := rfl
end

/-! ## setChan -/

section
variable (c : ChannelId) (x : Channel) (s : State)
@[simp] theorem setChan_pending : (setChan c x s).pending = s.pending := rfl
@[simp] theorem setChan_choices : (setChan c x s).choices = s.choices := rfl
@[simp] theorem setChan_drawn : (setChan c x s).drawn = s.drawn := rfl
@[simp] theorem setChan_owed : (setChan c x s).owed = s.owed := rfl
@[simp] theorem setChan_axisDue : (setChan c x s).axisDue = s.axisDue := rfl
@[simp] theorem setChan_checkDue : (setChan c x s).checkDue = s.checkDue := rfl
@[simp] theorem setChan_tables : (setChan c x s).tables = s.tables := rfl
@[simp] theorem setChan_link : (setChan c x s).link = s.link := rfl
@[simp] theorem setChan_xfer : (setChan c x s).xfer = s.xfer := rfl
@[simp] theorem setChan_notices : (setChan c x s).notices = s.notices := rfl
@[simp] theorem setChan_cue : (setChan c x s).cue = s.cue := rfl
@[simp] theorem setChan_clock : (setChan c x s).clock = s.clock := rfl
@[simp] theorem setChan_players : (setChan c x s).players = s.players := rfl
@[simp] theorem setChan_lamp : (setChan c x s).lamp = { s.lamp with chans := s.lamp.chans.set c x } := rfl
@[simp] theorem setChan_secs : (setChan c x s).secs = s.secs := rfl
@[simp] theorem setChan_pts : (setChan c x s).pts = s.pts := rfl
@[simp] theorem setChan_trains : (setChan c x s).trains = s.trains := rfl
@[simp] theorem setChan_axes : (setChan c x s).axes = s.axes := rfl
@[simp] theorem setChan_chain : (setChan c x s).chain = s.chain := rfl
@[simp] theorem setChan_node : (setChan c x s).node = s.node := rfl
@[simp] theorem setChan_pinsLow : (setChan c x s).pinsLow = s.pinsLow := rfl
end

/-! ## setMaster -/

section
variable (g : GroupId) (x : Level) (s : State)
@[simp] theorem setMaster_pending : (setMaster g x s).pending = s.pending := rfl
@[simp] theorem setMaster_choices : (setMaster g x s).choices = s.choices := rfl
@[simp] theorem setMaster_drawn : (setMaster g x s).drawn = s.drawn := rfl
@[simp] theorem setMaster_owed : (setMaster g x s).owed = s.owed := rfl
@[simp] theorem setMaster_axisDue : (setMaster g x s).axisDue = s.axisDue := rfl
@[simp] theorem setMaster_checkDue : (setMaster g x s).checkDue = s.checkDue := rfl
@[simp] theorem setMaster_tables : (setMaster g x s).tables = s.tables := rfl
@[simp] theorem setMaster_link : (setMaster g x s).link = s.link := rfl
@[simp] theorem setMaster_xfer : (setMaster g x s).xfer = s.xfer := rfl
@[simp] theorem setMaster_notices : (setMaster g x s).notices = s.notices := rfl
@[simp] theorem setMaster_cue : (setMaster g x s).cue = s.cue := rfl
@[simp] theorem setMaster_clock : (setMaster g x s).clock = s.clock := rfl
@[simp] theorem setMaster_players : (setMaster g x s).players = s.players := rfl
@[simp] theorem setMaster_lamp : (setMaster g x s).lamp = { s.lamp with masters := s.lamp.masters.set g x } := rfl
@[simp] theorem setMaster_secs : (setMaster g x s).secs = s.secs := rfl
@[simp] theorem setMaster_pts : (setMaster g x s).pts = s.pts := rfl
@[simp] theorem setMaster_trains : (setMaster g x s).trains = s.trains := rfl
@[simp] theorem setMaster_axes : (setMaster g x s).axes = s.axes := rfl
@[simp] theorem setMaster_chain : (setMaster g x s).chain = s.chain := rfl
@[simp] theorem setMaster_node : (setMaster g x s).node = s.node := rfl
@[simp] theorem setMaster_pinsLow : (setMaster g x s).pinsLow = s.pinsLow := rfl
end

/-! ## setWatch -/

section
variable (w : WatchId) (x : Watch) (s : State)
@[simp] theorem setWatch_pending : (setWatch w x s).pending = s.pending := rfl
@[simp] theorem setWatch_choices : (setWatch w x s).choices = s.choices := rfl
@[simp] theorem setWatch_drawn : (setWatch w x s).drawn = s.drawn := rfl
@[simp] theorem setWatch_owed : (setWatch w x s).owed = s.owed := rfl
@[simp] theorem setWatch_axisDue : (setWatch w x s).axisDue = s.axisDue := rfl
@[simp] theorem setWatch_checkDue : (setWatch w x s).checkDue = s.checkDue := rfl
@[simp] theorem setWatch_tables : (setWatch w x s).tables = s.tables := rfl
@[simp] theorem setWatch_link : (setWatch w x s).link = s.link := rfl
@[simp] theorem setWatch_xfer : (setWatch w x s).xfer = s.xfer := rfl
@[simp] theorem setWatch_notices : (setWatch w x s).notices = s.notices := rfl
@[simp] theorem setWatch_cue : (setWatch w x s).cue = s.cue := rfl
@[simp] theorem setWatch_clock : (setWatch w x s).clock = s.clock := rfl
@[simp] theorem setWatch_players : (setWatch w x s).players = s.players := rfl
@[simp] theorem setWatch_lamp : (setWatch w x s).lamp = s.lamp := rfl
@[simp] theorem setWatch_secs : (setWatch w x s).secs = s.secs := rfl
@[simp] theorem setWatch_pts : (setWatch w x s).pts = s.pts := rfl
@[simp] theorem setWatch_trains : (setWatch w x s).trains = s.trains := rfl
@[simp] theorem setWatch_axes : (setWatch w x s).axes = s.axes := rfl
@[simp] theorem setWatch_chain : (setWatch w x s).chain = { s.chain with watches := s.chain.watches.set w x } := rfl
@[simp] theorem setWatch_node : (setWatch w x s).node = s.node := rfl
@[simp] theorem setWatch_pinsLow : (setWatch w x s).pinsLow = s.pinsLow := rfl
end

/-! ## setFlag -/

section
variable (f : FlagId) (x : Flag) (s : State)
@[simp] theorem setFlag_pending : (setFlag f x s).pending = s.pending := rfl
@[simp] theorem setFlag_choices : (setFlag f x s).choices = s.choices := rfl
@[simp] theorem setFlag_drawn : (setFlag f x s).drawn = s.drawn := rfl
@[simp] theorem setFlag_owed : (setFlag f x s).owed = s.owed := rfl
@[simp] theorem setFlag_axisDue : (setFlag f x s).axisDue = s.axisDue := rfl
@[simp] theorem setFlag_checkDue : (setFlag f x s).checkDue = s.checkDue := rfl
@[simp] theorem setFlag_tables : (setFlag f x s).tables = s.tables := rfl
@[simp] theorem setFlag_link : (setFlag f x s).link = s.link := rfl
@[simp] theorem setFlag_xfer : (setFlag f x s).xfer = s.xfer := rfl
@[simp] theorem setFlag_notices : (setFlag f x s).notices = s.notices := rfl
@[simp] theorem setFlag_cue : (setFlag f x s).cue = { s.cue with flags := s.cue.flags.set f x } := rfl
@[simp] theorem setFlag_clock : (setFlag f x s).clock = s.clock := rfl
@[simp] theorem setFlag_players : (setFlag f x s).players = s.players := rfl
@[simp] theorem setFlag_lamp : (setFlag f x s).lamp = s.lamp := rfl
@[simp] theorem setFlag_secs : (setFlag f x s).secs = s.secs := rfl
@[simp] theorem setFlag_pts : (setFlag f x s).pts = s.pts := rfl
@[simp] theorem setFlag_trains : (setFlag f x s).trains = s.trains := rfl
@[simp] theorem setFlag_axes : (setFlag f x s).axes = s.axes := rfl
@[simp] theorem setFlag_chain : (setFlag f x s).chain = s.chain := rfl
@[simp] theorem setFlag_node : (setFlag f x s).node = s.node := rfl
@[simp] theorem setFlag_pinsLow : (setFlag f x s).pinsLow = s.pinsLow := rfl
end

/-! ## latch -/

section
variable (k : NoticeKind) (d : Detail) (s : State)
@[simp] theorem latch_pending : (latch k d s).pending = s.pending := rfl
@[simp] theorem latch_choices : (latch k d s).choices = s.choices := rfl
@[simp] theorem latch_drawn : (latch k d s).drawn = s.drawn := rfl
@[simp] theorem latch_owed : (latch k d s).owed = s.owed := rfl
@[simp] theorem latch_axisDue : (latch k d s).axisDue = s.axisDue := rfl
@[simp] theorem latch_checkDue : (latch k d s).checkDue = s.checkDue := rfl
@[simp] theorem latch_tables : (latch k d s).tables = s.tables := rfl
@[simp] theorem latch_link : (latch k d s).link = s.link := rfl
@[simp] theorem latch_xfer : (latch k d s).xfer = s.xfer := rfl
@[simp] theorem latch_notices :
    (latch k d s).notices = { s.notices with latches := s.notices.latches.set k.idx ((latchOf s k).take d) } := rfl
@[simp] theorem latch_cue : (latch k d s).cue = s.cue := rfl
@[simp] theorem latch_clock : (latch k d s).clock = s.clock := rfl
@[simp] theorem latch_players : (latch k d s).players = s.players := rfl
@[simp] theorem latch_lamp : (latch k d s).lamp = s.lamp := rfl
@[simp] theorem latch_secs : (latch k d s).secs = s.secs := rfl
@[simp] theorem latch_pts : (latch k d s).pts = s.pts := rfl
@[simp] theorem latch_trains : (latch k d s).trains = s.trains := rfl
@[simp] theorem latch_axes : (latch k d s).axes = s.axes := rfl
@[simp] theorem latch_chain : (latch k d s).chain = s.chain := rfl
@[simp] theorem latch_node : (latch k d s).node = s.node := rfl
@[simp] theorem latch_pinsLow : (latch k d s).pinsLow = s.pinsLow := rfl
end

/-! ## setClock -/

section
variable (c : Clock) (s : State)
@[simp] theorem setClock_pending : (setClock c s).pending = s.pending := rfl
@[simp] theorem setClock_choices : (setClock c s).choices = s.choices := rfl
@[simp] theorem setClock_drawn : (setClock c s).drawn = s.drawn := rfl
@[simp] theorem setClock_owed : (setClock c s).owed = s.owed := rfl
@[simp] theorem setClock_axisDue : (setClock c s).axisDue = s.axisDue := rfl
@[simp] theorem setClock_checkDue : (setClock c s).checkDue = s.checkDue := rfl
@[simp] theorem setClock_tables : (setClock c s).tables = s.tables := rfl
@[simp] theorem setClock_link : (setClock c s).link = s.link := rfl
@[simp] theorem setClock_xfer : (setClock c s).xfer = s.xfer := rfl
@[simp] theorem setClock_notices : (setClock c s).notices = s.notices := rfl
@[simp] theorem setClock_cue : (setClock c s).cue = s.cue := rfl
@[simp] theorem setClock_clock : (setClock c s).clock = c := rfl
@[simp] theorem setClock_players : (setClock c s).players = s.players := rfl
@[simp] theorem setClock_lamp : (setClock c s).lamp = s.lamp := rfl
@[simp] theorem setClock_secs : (setClock c s).secs = s.secs := rfl
@[simp] theorem setClock_pts : (setClock c s).pts = s.pts := rfl
@[simp] theorem setClock_trains : (setClock c s).trains = s.trains := rfl
@[simp] theorem setClock_axes : (setClock c s).axes = s.axes := rfl
@[simp] theorem setClock_chain : (setClock c s).chain = s.chain := rfl
@[simp] theorem setClock_node : (setClock c s).node = s.node := rfl
@[simp] theorem setClock_pinsLow : (setClock c s).pinsLow = s.pinsLow := rfl
end

/-! ## setXfer -/

section
variable (x : Transfer) (s : State)
@[simp] theorem setXfer_pending : (setXfer x s).pending = s.pending := rfl
@[simp] theorem setXfer_choices : (setXfer x s).choices = s.choices := rfl
@[simp] theorem setXfer_drawn : (setXfer x s).drawn = s.drawn := rfl
@[simp] theorem setXfer_owed : (setXfer x s).owed = s.owed := rfl
@[simp] theorem setXfer_axisDue : (setXfer x s).axisDue = s.axisDue := rfl
@[simp] theorem setXfer_checkDue : (setXfer x s).checkDue = s.checkDue := rfl
@[simp] theorem setXfer_tables : (setXfer x s).tables = s.tables := rfl
@[simp] theorem setXfer_link : (setXfer x s).link = s.link := rfl
@[simp] theorem setXfer_xfer : (setXfer x s).xfer = x := rfl
@[simp] theorem setXfer_notices : (setXfer x s).notices = s.notices := rfl
@[simp] theorem setXfer_cue : (setXfer x s).cue = s.cue := rfl
@[simp] theorem setXfer_clock : (setXfer x s).clock = s.clock := rfl
@[simp] theorem setXfer_players : (setXfer x s).players = s.players := rfl
@[simp] theorem setXfer_lamp : (setXfer x s).lamp = s.lamp := rfl
@[simp] theorem setXfer_secs : (setXfer x s).secs = s.secs := rfl
@[simp] theorem setXfer_pts : (setXfer x s).pts = s.pts := rfl
@[simp] theorem setXfer_trains : (setXfer x s).trains = s.trains := rfl
@[simp] theorem setXfer_axes : (setXfer x s).axes = s.axes := rfl
@[simp] theorem setXfer_chain : (setXfer x s).chain = s.chain := rfl
@[simp] theorem setXfer_node : (setXfer x s).node = s.node := rfl
@[simp] theorem setXfer_pinsLow : (setXfer x s).pinsLow = s.pinsLow := rfl
end

/-! ## setLink -/

section
variable (l : Link) (s : State)
@[simp] theorem setLink_pending : (setLink l s).pending = s.pending := rfl
@[simp] theorem setLink_choices : (setLink l s).choices = s.choices := rfl
@[simp] theorem setLink_drawn : (setLink l s).drawn = s.drawn := rfl
@[simp] theorem setLink_owed : (setLink l s).owed = s.owed := rfl
@[simp] theorem setLink_axisDue : (setLink l s).axisDue = s.axisDue := rfl
@[simp] theorem setLink_checkDue : (setLink l s).checkDue = s.checkDue := rfl
@[simp] theorem setLink_tables : (setLink l s).tables = s.tables := rfl
@[simp] theorem setLink_link : (setLink l s).link = l := rfl
@[simp] theorem setLink_xfer : (setLink l s).xfer = s.xfer := rfl
@[simp] theorem setLink_notices : (setLink l s).notices = s.notices := rfl
@[simp] theorem setLink_cue : (setLink l s).cue = s.cue := rfl
@[simp] theorem setLink_clock : (setLink l s).clock = s.clock := rfl
@[simp] theorem setLink_players : (setLink l s).players = s.players := rfl
@[simp] theorem setLink_lamp : (setLink l s).lamp = s.lamp := rfl
@[simp] theorem setLink_secs : (setLink l s).secs = s.secs := rfl
@[simp] theorem setLink_pts : (setLink l s).pts = s.pts := rfl
@[simp] theorem setLink_trains : (setLink l s).trains = s.trains := rfl
@[simp] theorem setLink_axes : (setLink l s).axes = s.axes := rfl
@[simp] theorem setLink_chain : (setLink l s).chain = s.chain := rfl
@[simp] theorem setLink_node : (setLink l s).node = s.node := rfl
@[simp] theorem setLink_pinsLow : (setLink l s).pinsLow = s.pinsLow := rfl
end

/-! ## pushFront -/

section
variable (c : Instr) (s : State)
@[simp] theorem pushFront_pending : (pushFront c s).pending = c :: s.pending := rfl
@[simp] theorem pushFront_choices : (pushFront c s).choices = s.choices := rfl
@[simp] theorem pushFront_drawn : (pushFront c s).drawn = s.drawn := rfl
@[simp] theorem pushFront_owed : (pushFront c s).owed = s.owed := rfl
@[simp] theorem pushFront_axisDue : (pushFront c s).axisDue = s.axisDue := rfl
@[simp] theorem pushFront_checkDue : (pushFront c s).checkDue = s.checkDue := rfl
@[simp] theorem pushFront_tables : (pushFront c s).tables = s.tables := rfl
@[simp] theorem pushFront_link : (pushFront c s).link = s.link := rfl
@[simp] theorem pushFront_xfer : (pushFront c s).xfer = s.xfer := rfl
@[simp] theorem pushFront_notices : (pushFront c s).notices = s.notices := rfl
@[simp] theorem pushFront_cue : (pushFront c s).cue = s.cue := rfl
@[simp] theorem pushFront_clock : (pushFront c s).clock = s.clock := rfl
@[simp] theorem pushFront_players : (pushFront c s).players = s.players := rfl
@[simp] theorem pushFront_lamp : (pushFront c s).lamp = s.lamp := rfl
@[simp] theorem pushFront_secs : (pushFront c s).secs = s.secs := rfl
@[simp] theorem pushFront_pts : (pushFront c s).pts = s.pts := rfl
@[simp] theorem pushFront_trains : (pushFront c s).trains = s.trains := rfl
@[simp] theorem pushFront_axes : (pushFront c s).axes = s.axes := rfl
@[simp] theorem pushFront_chain : (pushFront c s).chain = s.chain := rfl
@[simp] theorem pushFront_node : (pushFront c s).node = s.node := rfl
@[simp] theorem pushFront_pinsLow : (pushFront c s).pinsLow = s.pinsLow := rfl
end

end Sys2Proof.Machine
end

