-- ==== Sys2Proof/Laws/Order.lean ====
section
/-! SUPPORT. What a free choice of order can do: the chosen list is a permutation, and only `choices` and `drawn` change. -/

namespace Sys2Proof.Machine

/-- A property kept by every item's effect is kept by a fold over the items. -/
theorem foldl_keeps {α : Type} {P : State → Prop} (f : State → α → State) (xs : List α)
    (h : ∀ u x, x ∈ xs → P u → P (f u x)) : ∀ s, P s → P (xs.foldl f s) := by
  induction xs with
  | nil => exact fun s hs => hs
  | cons x xs ih =>
    intro s hs
    exact ih (fun u y hy => h u y (List.mem_cons_of_mem _ hy)) _ (h s x List.mem_cons_self hs)

/-- The arrangement a number names holds the same items. -/
theorem permute_perm {α : Type} (c : Nat) (xs : List α) : (permute c xs).Perm xs := by
  induction xs generalizing c with
  | nil => exact List.Perm.refl _
  | cons x xs ih =>
    simp only [permute]
    refine List.Perm.trans List.perm_middle ?_
    rw [List.take_append_drop]
    exact (ih _).cons x

/-- A draw changes the two fields of the choices alone. -/
theorem draw_snd (s : State) : ∃ cs n, (draw s).2 = { s with choices := cs, drawn := n } := by
  unfold draw
  split
  · exact ⟨_, s.drawn, rfl⟩
  · exact ⟨s.choices, _, rfl⟩

/-- An arranged list holds the same items. -/
theorem arrange_perm {α : Type} (xs : List α) (s : State) : (arrange xs s).1.Perm xs := by
  unfold arrange
  split
  · exact List.Perm.refl _
  · exact permute_perm _ _

/-- An item of an arranged list is an item of the list. -/
theorem mem_arrange {α : Type} {xs : List α} {s : State} {x : α} : x ∈ (arrange xs s).1 ↔ x ∈ xs :=
  (arrange_perm xs s).mem_iff

/-- Arranging changes the two fields of the choices alone. -/
theorem arrange_snd {α : Type} (xs : List α) (s : State) :
    ∃ cs n, (arrange xs s).2 = { s with choices := cs, drawn := n } := by
  unfold arrange
  split
  · exact ⟨s.choices, s.drawn, rfl⟩
  · exact draw_snd s

/-- Nothing to arrange: nothing is drawn. -/
theorem arrange_short {α : Type} {xs : List α} (s : State) (h : xs.length ≤ 1) : arrange xs s = (xs, s) := by
  unfold arrange
  rw [if_pos h]

/-- An item outside a filter by index is left by `tab`. -/
@[simp] theorem tab_get {α : Type} {n : Nat} (f : Fin n → α) (i : Fin n) : (tab f)[i] = f i := by
  simp [tab]

/-- The form that indexing by a number takes. -/
@[simp] theorem tab_getElem {α : Type} {n : Nat} (f : Fin n → α) (i : Nat) (h : i < n) : (tab f)[i] = f ⟨i, h⟩ := by
  simp [tab]

end Sys2Proof.Machine
end

