-- ==== Sys2Proof/Laws/Mechanics.lean ====
section
/-! SUPPORT. Everything the Reservation, Train and Axis Units can do: their operations are made of eight updates, so a
property that those keep is kept by every one of them (Chapters 4 to 6). -/

namespace Sys2Proof.Machine

/-- A property of an axis with its record that every function of AxisMotion.lean and AxisUnit.lean keeps. -/
structure Motion (A : AxisRec → Axis → Prop) : Prop where
  seek : ∀ r p x, A r x → A r (seekOrder r p x).1
  run : ∀ r c x, A r x → A r (runOrder r c x)
  stop : ∀ r x, A r x → A r (stopOrder r x).1
  home : ∀ r x, A r x → A r (homeOrder r x)
  follow : ∀ r x, A r x → A r (followOrder x)
  fault : ∀ r f x, A r x → A r (faultedAxis f x)
  step : ∀ r n x, A r x → A r (axisStep r n x).1
  frame : ∀ r x, A r x → A r (axisFrame r x).1
  holding : ∀ r b x, A r x → A r (toHolding r b x)
  found : ∀ r x, A r x → A r (homeFound r x)
  turns : ∀ r x, A r x → A r (homeTurns r x)
  mark : ∀ r b x, A r x → A r { x with follow := b }
  homeIn : ∀ r b x, A r x → A r { x with homeIn := b }
  faultIn : ∀ r b x, A r x → A r { x with faultIn := b }

/-- What an accepted order does keeps it. -/
theorem Motion.effect {A : AxisRec → Axis → Prop} (m : Motion A) {r : AxisRec} {o : AxisOrder} {x : Axis}
    (h : A r x) : A r (orderEffect r o x).1 := by
  cases o
  · exact m.home r x h
  · exact m.seek r _ x h
  · exact m.run r _ x h
  · exact m.seek r _ x h
  · exact m.follow r x h
  · exact m.stop r x h

/-- The wake keeps it. -/
theorem Motion.wake {A : AxisRec → Axis → Prop} (m : Motion A) {r : AxisRec} {x : Axis} (h : A r x) :
    A r (wakeAxis x) := by
  unfold wakeAxis
  split
  · split
    · exact m.mark r _ _ (m.follow r x h)
    · exact m.mark r _ _ (m.follow r x h)
    · exact m.mark r _ x h
  · exact h

/-- A property of the state that the updates of the Reservation, Train and Axis Units keep; `A` is what it asks of each axis. -/
structure Closed (P : State → Prop) (A : AxisRec → Axis → Prop) : Prop where
  motion : Motion A
  now : ∀ s, P s → ∀ a : AxisId, A s.tables.axes[a] s.axes[a]
  sec : ∀ n x s, P s → P (setSec n x s)
  pt : ∀ p x s, P s → P (setPt p x s)
  train : ∀ t x s, P s → P (setTrain t x s)
  axis : ∀ a x s, P s → A s.tables.axes[a] x → P (setAxis a x s)
  note : ∀ k d s, P s → P (latch k d s)
  cue : ∀ c src s, P s → P (appendCue c src s)
  choose : ∀ cs n s, P s → P { s with choices := cs, drawn := n }
  trains : ∀ v s, P s → P { s with trains := v }
  axes : ∀ v s, P s → (∀ a : AxisId, A s.tables.axes[a] v[a]) → P { s with axes := v }

namespace Closed

variable {P : State → Prop} {A : AxisRec → Axis → Prop} (h : Closed P A)
include h

theorem draw {s : State} (hs : P s) : P (draw s).2 := by
  obtain ⟨cs, n, e⟩ := draw_snd s
  rw [e]
  exact h.choose _ _ _ hs

theorem arrange {α : Type} {xs : List α} {s : State} (hs : P s) : P (arrange xs s).2 := by
  obtain ⟨cs, n, e⟩ := arrange_snd xs s
  rw [e]
  exact h.choose _ _ _ hs

/-! ### Points and guards -/

theorem throwRequest {q : PointNeed} {s : State} (hs : P s) : P (throwRequest q s) := by
  unfold Machine.throwRequest
  dsimp only
  repeat' split
  all_goals first | exact hs | exact h.pt _ _ _ hs

theorem pointThrow {p : PointId} {q : PointPos} {s : State} (hs : P s) : P (pointThrow p q s).2 := by
  unfold Machine.pointThrow
  split
  · exact hs
  · exact h.throwRequest hs

theorem guardSeek {a : AxisId} {g : Nat} {s : State} (hs : P s) : P (guardSeek a g s) := by
  unfold Machine.guardSeek
  dsimp only
  split
  · exact hs
  · exact h.axis _ _ _ hs (h.motion.mark _ _ _ (h.motion.seek _ _ _ (h.now _ hs _)))

theorem orderGuard {n : SectionId} {s : State} (hs : P s) : P (orderGuard n s) := by
  unfold Machine.orderGuard
  repeat' split
  all_goals first | exact hs | exact h.guardSeek hs

/-! ### Requests and answers -/

theorem leaveQueue {t : TrainId} {n : SectionId} {s : State} (hs : P s) : P (leaveQueue t n s) := h.sec _ _ _ hs

theorem grant {t : TrainId} {f n : SectionId} {s : State} (hs : P s) : P (grant t f n s).2 := by
  unfold Machine.grant
  dsimp only
  split
  · refine h.sec _ _ _ (h.orderGuard (foldl_keeps _ _ (fun u q _ hu => ?_) _ (h.sec _ _ _ hs)))
    split
    · exact hu
    · exact h.throwRequest hu
  · refine h.orderGuard (foldl_keeps _ _ (fun u q _ hu => ?_) _ (h.sec _ _ _ hs))
    split
    · exact hu
    · exact h.throwRequest hu

theorem request {t : TrainId} {f n : SectionId} {s : State} (hs : P s) : P (request t f n s).2 := by
  unfold Machine.request
  dsimp only
  repeat' split
  · exact h.grant hs
  · exact h.sec _ _ _ hs
  · exact hs

theorem takeAnswer {how : Approach} {t : TrainId} {n : SectionId} {a : Answer} {s : State} (hs : P s) :
    P (takeAnswer how t n a s) := h.train _ _ _ hs

theorem sendRequest {how : Approach} {t : TrainId} {s : State} (hs : P s) : P (sendRequest how t s) := by
  unfold Machine.sendRequest
  split
  · exact h.takeAnswer (h.request hs)
  · exact hs

theorem dequeue {t : TrainId} {s : State} (hs : P s) : P (dequeue t s) := by
  unfold Machine.dequeue
  split
  · exact hs
  · exact h.train _ _ _ (h.leaveQueue hs)

/-! ### Halts and tellings -/

theorem halt {r : HaltReason} {t : TrainId} {s : State} (hs : P s) : P (halt r t s) := by
  unfold Machine.halt
  split
  · exact h.note _ _ _ (h.train _ _ _ (h.dequeue hs))
  · exact hs

theorem haltAll {r : HaltReason} {s : State} (hs : P s) : P (haltAll r s) :=
  foldl_keeps _ _ (fun _ _ _ hu => h.halt hu) _ (h.arrange hs)

theorem tellSet {t : TrainId} {s : State} (hs : P s) : P (tellSet t s) := by
  unfold Machine.tellSet
  dsimp only
  repeat' split
  all_goals first | exact hs | exact h.train _ _ _ hs

theorem tellSetting {t : TrainId} {s : State} (hs : P s) : P (tellSetting t s) := by
  unfold Machine.tellSetting
  dsimp only
  repeat' split
  all_goals first | exact hs | exact h.halt (h.train _ _ _ hs) | exact h.train _ _ _ hs

theorem checkSetting {n : SectionId} {s : State} (hs : P s) : P (checkSetting n s) := by
  unfold Machine.checkSetting
  repeat' split
  all_goals first | exact hs | exact h.tellSet (h.sec _ _ _ hs)

theorem pointIdle {p : PointId} {s : State} (hs : P s) : P (pointIdle p s) := by
  refine foldl_keeps _ _ (fun u n _ hu => ?_) _ hs
  repeat' split
  all_goals first | exact hu | exact h.checkSetting hu

theorem axisStandTold {a : AxisId} {s : State} (hs : P s) : P (axisStandTold a s) := by
  refine foldl_keeps _ _ (fun u n _ hu => ?_) _ hs
  split
  · exact h.checkSetting hu
  · exact hu

theorem axisFaultTold {a : AxisId} {s : State} (hs : P s) : P (axisFaultTold a s) := by
  refine foldl_keeps _ _ (fun u n _ hu => ?_) _ hs
  repeat' split
  all_goals first | exact hu | exact h.tellSetting (h.sec _ _ _ hu)

/-! ### Throws -/

theorem throwEnds {p : PointId} {s : State} (hs : P s) : P (throwEnds p s) := by
  unfold Machine.throwEnds
  split
  · exact hs
  · rename_i m _
    split
    · have hu := h.pt p (throwDone s.tables.points[p] m s.pts[p]) s hs
      dsimp only
      split
      · exact h.pointIdle hu
      · exact hu
    · exact hs

theorem coilEnds {p : PointId} {s : State} (hs : P s) : P (coilEnds p s) := by
  unfold Machine.coilEnds
  repeat' split
  all_goals first | exact hs | exact h.pt _ _ _ hs

theorem stepPoint {p : PointId} {s : State} (hs : P s) : P (stepPoint p s) := by
  unfold Machine.stepPoint
  dsimp only
  repeat' split
  · exact hs
  · exact h.throwEnds (h.pt _ _ _ hs)
  · exact h.pt _ _ _ hs

theorem stepPoints {s : State} (hs : P s) : P (stepPoints s) :=
  foldl_keeps _ _ (fun _ _ _ hu => h.stepPoint hu) _ hs

/-! ### Re-evaluation, releases, cancels -/

theorem examineQueue {n : SectionId} {s : State} (hs : P s) : P (examineQueue n s) := by
  unfold Machine.examineQueue
  repeat' split
  all_goals first | exact hs | exact h.takeAnswer (h.grant hs)

theorem reevaluate {o : Option SectionId} {s : State} (hs : P s) : P (reevaluate o s) :=
  foldl_keeps _ _ (fun _ _ _ hu => h.examineQueue hu) _ hs

theorem releaseHeld {t : TrainId} {n : SectionId} {s : State} (hs : P s) : P (releaseHeld t n s) :=
  h.reevaluate (h.cue _ _ _ (h.train _ _ _ (h.sec _ _ _ hs)))

theorem cancel {t : TrainId} {s : State} (hs : P s) : P (cancel t s) := by
  unfold Machine.cancel
  dsimp only
  split
  · exact h.train _ _ _ (h.dequeue hs)
  · exact h.reevaluate (h.sec _ _ _ (h.train _ _ _ (h.dequeue hs)))

theorem hold {t : TrainId} {n : SectionId} {s : State} (hs : P s) : P (hold t n s).2 := by
  unfold Machine.hold
  repeat' split
  all_goals first | exact hs | exact h.sec _ _ _ hs

theorem releaseOne {n : SectionId} {s : State} (hs : P s) : P (releaseOne n s) :=
  h.reevaluate (h.cue _ _ _ (h.sec _ _ _ hs))

theorem releaseAll {t : TrainId} {s : State} (hs : P s) : P (releaseAll t s) :=
  h.train _ _ _ (foldl_keeps _ _ (fun _ _ _ hu => h.releaseOne hu) _ (h.cancel hs))

theorem renew {t : TrainId} {s : State} (hs : P s) : P (renew t s).2 := by
  unfold Machine.renew
  dsimp only
  repeat' split
  all_goals first
    | exact hs
    | exact h.checkSetting hs
    | exact h.checkSetting (h.orderGuard hs)

/-! ### Train actions -/

theorem trainPlace {t : TrainId} {i : Nat} {s : State} (hs : P s) : P (trainPlace t i s).2 := by
  unfold Machine.trainPlace
  dsimp only
  repeat' split
  all_goals first | exact hs | exact h.train _ _ _ (h.hold hs)

theorem renewRun {t : TrainId} {s : State} (hs : P s) : P (renewRun t s) := by
  unfold Machine.renewRun
  dsimp only
  repeat' split
  all_goals exact h.train _ _ _ (h.renew hs)

theorem resume {t : TrainId} {s : State} (hs : P s) : P (resume t s) := by
  unfold Machine.resume
  repeat' split
  · exact h.train _ _ _ hs
  · exact h.renewRun hs
  · exact h.sendRequest hs

theorem trainRun {t : TrainId} {s : State} (hs : P s) : P (trainRun t s).2 := by
  unfold Machine.trainRun
  dsimp only
  repeat' split
  all_goals first | exact hs | exact h.sendRequest hs | exact h.renewRun hs | exact h.resume hs

theorem stopCancelled {t : TrainId} {s : State} (hs : P s) : P (stopCancelled t s) := h.train _ _ _ (h.cancel hs)

theorem trainStop {t : TrainId} {s : State} (hs : P s) : P (trainStop t s).2 := by
  unfold Machine.trainStop
  dsimp only
  repeat' split
  all_goals first
    | exact hs | exact h.stopCancelled hs | exact h.train _ _ _ (h.dequeue hs) | exact h.train _ _ _ hs

theorem trainClear {t : TrainId} {s : State} (hs : P s) : P (trainClear t s).2 := by
  unfold Machine.trainClear
  dsimp only
  repeat' split
  all_goals first | exact hs | exact h.train _ _ _ (h.releaseAll hs)

theorem trainCruise {t : TrainId} {v : Nat} {s : State} (hs : P s) : P (trainCruise t v s) := h.train _ _ _ hs

/-! ### Trains on a scene step -/

theorem arrivalTimesOut {t : TrainId} {s : State} (hs : P s) : P (arrivalTimesOut t s) := by
  unfold Machine.arrivalTimesOut
  split
  · exact h.halt (h.train _ _ _ hs)
  · exact hs

theorem arrivalStep {t : TrainId} {s : State} (hs : P s) : P (arrivalStep t s) := by
  unfold Machine.arrivalStep
  repeat' split
  · exact h.arrivalTimesOut hs
  · exact h.train _ _ _ hs
  · exact hs

theorem standStill {t : TrainId} {s : State} (hs : P s) : P (standStill t s) := by
  unfold Machine.standStill
  dsimp only
  repeat' split
  all_goals first | exact hs | exact h.stopCancelled hs | exact h.train _ _ _ hs

theorem retryStep {t : TrainId} {s : State} (hs : P s) : P (retryStep t s) := by
  unfold Machine.retryStep
  dsimp only
  split <;> first | exact h.sendRequest hs | exact hs | (split <;> first | exact h.sendRequest hs | exact hs)

theorem trainWork {t : TrainId} {s : State} (hs : P s) : P (trainWork t s) := by
  unfold Machine.trainWork
  split
  · exact hs
  all_goals exact h.retryStep (h.standStill (h.arrivalStep (h.train _ _ _ hs)))

theorem rampTrain {t : TrainId} {s : State} (hs : P s) : P (rampTrain t s) := h.train _ _ _ hs

theorem rampsFirst {s : State} (hs : P s) : P (rampsFirst s) :=
  foldl_keeps _ _ (fun _ _ _ hu => h.trainWork hu) _ (foldl_keeps _ _ (fun _ _ _ hu => h.rampTrain hu) _ hs)

theorem trainByTrain {s : State} (hs : P s) : P (trainByTrain s) :=
  foldl_keeps _ _ (fun _ _ _ hu => h.trainWork (h.rampTrain hu)) _ hs

theorem stepTrains {s : State} (hs : P s) : P (stepTrains s) := by
  unfold Machine.stepTrains
  dsimp only
  repeat' split
  · exact h.rampsFirst hs
  · exact h.rampsFirst (h.draw hs)
  · exact h.trainByTrain (h.draw hs)

/-! ### Detector and cab-fault events, rest -/

theorem takeEntry {t : TrainId} {n k : SectionId} {s : State} (hs : P s) : P (takeEntry t n k s) := by
  have h2 : P (setTrain t (entered s.tables.trains[t] n s.trains[t])
      (appendCue s.tables.sections[n].entryCue .sectionCue (setSec n { s.secs[n] with state := .held t (some k) } s))) :=
    h.train _ _ _ (h.cue _ _ _ (h.sec _ _ _ hs))
  unfold Machine.takeEntry
  dsimp only
  have hq : ∀ x, P (setTrain t x
      (appendCue s.tables.sections[n].entryCue .sectionCue (setSec n { s.secs[n] with state := .held t (some k) } s))) :=
    fun x => h.train _ _ _ (h.cue _ _ _ (h.sec _ _ _ hs))
  repeat' split
  all_goals first
    | exact hq _ | exact h.releaseHeld (hq _) | exact h.sendRequest (hq _) | exact h.sendRequest (h.releaseHeld (hq _))

theorem entry {t : TrainId} {n k : SectionId} {s : State} (hs : P s) : P (entry t n k s) := by
  unfold Machine.entry
  split
  · exact h.halt hs
  · exact h.takeEntry hs

theorem arrival {n : SectionId} {s : State} (hs : P s) : P (arrival n s) := by
  have hu : P (setOcc n true s) := h.sec _ _ _ hs
  unfold Machine.arrival
  dsimp only
  repeat' split
  all_goals first | exact hu | exact h.entry hu | exact h.halt hu | exact h.note _ _ _ (h.sec _ _ _ hu)

theorem clearing {n : SectionId} {s : State} (hs : P s) : P (clearing n s) := by
  have hu : P (setOcc n false s) := h.sec _ _ _ hs
  unfold Machine.clearing
  generalize setOcc n false s = u at hu ⊢
  dsimp only
  split
  · split
    · split
      · exact hu
      · exact h.releaseHeld hu
    · exact h.reevaluate (h.sec _ _ _ hu)
    · exact hu
    · exact hu
  · exact hu

theorem detectorEvent {v : SectionId → Bool} {s : State} (hs : P s) : P (detectorEvent v s) :=
  foldl_keeps _ _ (fun _ _ _ hu => h.arrival hu) _ (foldl_keeps _ _ (fun _ _ _ hu => h.clearing hu) _ hs)

theorem cabFaultEvent {v : TrainId → Bool} {s : State} (hs : P s) : P (cabFaultEvent v s) :=
  foldl_keeps _ _ (fun _ _ _ hu => h.halt hu) _ (h.arrange (h.trains _ _ hs))

theorem restTrain {t : TrainId} {s : State} (hs : P s) : P (restTrain t s) := by
  unfold Machine.restTrain
  split
  · exact h.trainStop hs
  · exact hs

theorem restTrains {s : State} (hs : P s) : P (restTrains s) :=
  foldl_keeps _ _ (fun _ _ _ hu => h.restTrain hu) _ (h.arrange hs)

/-! ### Axes -/

theorem putAxis {a : AxisId} {y : Axis × Bool} {s : State} (hs : P s) (hy : A s.tables.axes[a] y.1) :
    P (putAxis a y s) := by
  unfold Machine.putAxis
  dsimp only
  split
  · exact h.axisStandTold (h.axis _ _ _ hs hy)
  · exact h.axis _ _ _ hs hy

theorem haltOwners {a : AxisId} {s : State} (hs : P s) : P (haltOwners a s) :=
  foldl_keeps _ _ (fun _ _ _ hu => h.halt hu) _ (h.arrange hs)

theorem faultAxis {r : AxisFault} {a : AxisId} {s : State} (hs : P s) : P (faultAxis r a s) := by
  have hu := h.note .axisFault (.axis a r) _ (h.axis a (faultedAxis r s.axes[a]) _ hs (h.motion.fault _ _ _ (h.now _ hs a)))
  unfold Machine.faultAxis
  dsimp only
  repeat' split
  · exact h.haltOwners (h.axisFaultTold (h.draw hu))
  · exact h.axisFaultTold (h.haltOwners (h.draw hu))
  · exact h.haltOwners hu

theorem faultAxes {r : AxisFault} {as : List AxisId} {s : State} (hs : P s) : P (faultAxes r as s) :=
  foldl_keeps _ _ (fun _ _ _ hu => h.faultAxis hu) _ (h.arrange hs)

theorem axisOrder {a : AxisId} {o : AxisOrder} {s : State} (hs : P s) : P (axisOrder a o s).2 := by
  unfold Machine.axisOrder
  dsimp only
  split
  · exact hs
  · exact h.putAxis hs (h.motion.mark _ _ _ (h.motion.effect (h.now _ hs a)))

theorem stepAxis {a : AxisId} {s : State} (hs : P s) : P (stepAxis a s) := by
  unfold Machine.stepAxis
  split
  · exact h.putAxis hs (h.motion.step _ _ _ (h.now _ hs a))
  · exact hs

theorem stepAxes {s : State} (hs : P s) : P (stepAxes s) := foldl_keeps _ _ (fun _ _ _ hu => h.stepAxis hu) _ hs

theorem periodEvent {e : AxisId × PeriodEvent} {s : State} (hs : P s) : P (periodEvent e s) := by
  unfold Machine.periodEvent
  split
  · exact hs
  · exact h.axisStandTold hs
  · exact h.faultAxis hs

theorem homeLimitPasses {a : AxisId} {s : State} (hs : P s) : P (homeLimitPasses a s) := by
  unfold Machine.homeLimitPasses
  split
  · exact h.faultAxis hs
  · exact hs

theorem findHome {a : AxisId} {s : State} (hs : P s) : P (findHome a s) :=
  h.reevaluate (h.putAxis hs (h.motion.found _ _ (h.now _ hs a)))

theorem homeEvent {v : AxisId → Bool} {s : State} (hs : P s) : P (homeEvent v s) :=
  foldl_keeps _ _ (fun _ _ _ hu => h.findHome hu) _ (h.arrange (h.axes _ _ hs (fun a => by
    have hx := h.motion.homeIn s.tables.axes[a] (v a) _ (h.now _ hs a)
    rw [tab_get]
    dsimp only
    split
    · exact h.motion.turns _ _ hx
    · exact hx)))

theorem axisInputEvent {v w : AxisId → Bool} {s : State} (hs : P s) : P (axisInputEvent v w s) :=
  h.homeEvent (h.faultAxes (h.axes _ _ hs (fun a => by
    rw [tab_get]
    exact h.motion.faultIn _ _ _ (h.now _ hs a))))

theorem stopAxis {a : AxisId} {s : State} (hs : P s) : P (stopAxis a s) :=
  h.putAxis hs (h.motion.stop _ _ (h.now _ hs a))

theorem chainFaultAxes {s : State} (hs : P s) : P (chainFaultAxes s) := h.faultAxes hs

theorem linkLostAxes {s : State} (hs : P s) : P (linkLostAxes s) := by
  refine foldl_keeps _ _ (fun u a _ hu => ?_) _ hs
  split
  · exact h.stopAxis hu
  · exact hu

theorem allStopAxis {a : AxisId} {s : State} (hs : P s) : P (allStopAxis a s) := by
  unfold Machine.allStopAxis
  split
  · split
    iterate 3 exact h.stopAxis hs
    · exact h.putAxis hs (h.motion.mark _ _ _ (h.motion.stop _ _ (h.now _ hs a)))
    all_goals exact hs
  · exact hs

theorem allStopAxes {s : State} (hs : P s) : P (allStopAxes s) := foldl_keeps _ _ (fun _ _ _ hu => h.allStopAxis hu) _ hs

theorem restAxis {k : Bool} {a : AxisId} {s : State} (hs : P s) : P (restAxis k a s) := by
  unfold Machine.restAxis
  dsimp only
  split
  · split
    · split
      · exact h.putAxis hs (h.motion.seek _ _ _ (h.now _ hs a))
      · exact h.stopAxis hs
    · split
      · exact h.putAxis hs (h.motion.mark _ _ _ (h.motion.holding _ _ _ (h.now _ hs a)))
      · exact hs
    all_goals exact hs
  · exact hs

theorem restAxes {k : Bool} {s : State} (hs : P s) : P (restAxes k s) :=
  foldl_keeps _ _ (fun _ _ _ hu => h.restAxis hu) _ hs

theorem wakeAxes {s : State} (hs : P s) : P (wakeAxes s) :=
  h.axes _ _ hs (fun a => by rw [tab_get]; exact h.motion.wake (h.now _ hs a))

end Closed

/-! ## What these operations leave -/

/-- The state without what the Reservation, Train and Axis Units can change. -/
def othersOf (s : State) : State :=
  { s with
    secs := .replicate 16 ⟨.free, false, []⟩
    pts := .replicate 8 ⟨none, none, none⟩
    trains := .replicate 4 (Train.reset 100)
    axes := .replicate 6 Axis.reset
    notices := { s.notices with latches := .replicate 13 .clear }
    cue := { s.cue with queue := [] }
    choices := []
    drawn := 0 }

/-- Nothing is asked of an axis. -/
theorem motion_free : Motion (fun _ _ => True) := by
  constructor <;> intros <;> trivial

/-- The updates of the three units leave everything else as it stands. -/
theorem closed_others (s : State) : Closed (fun t => othersOf t = othersOf s) (fun _ _ => True) where
  motion := motion_free
  now _ _ _ := trivial
  sec _ _ _ e := e
  pt _ _ _ e := e
  train _ _ _ e := e
  axis _ _ _ e _ := e
  note _ _ _ e := e
  cue c src t e := by
    unfold appendCue
    repeat' split
    all_goals exact e
  choose _ _ _ e := e
  trains _ _ e := e
  axes _ _ e _ := e

/-- The updates of the three units keep the cue queue within its 32 places (R1). -/
theorem closed_queue : Closed (fun t => t.cue.queue.length ≤ maxCues) (fun _ _ => True) where
  motion := motion_free
  now _ _ _ := trivial
  sec _ _ _ e := e
  pt _ _ _ e := e
  train _ _ _ e := e
  axis _ _ _ e _ := e
  note _ _ _ e := e
  cue c src t e := by
    unfold appendCue
    repeat' split
    · exact e
    · simpa using by omega
    · exact e
  choose _ _ _ e := e
  trains _ _ e := e
  axes _ _ e _ := e

end Sys2Proof.Machine
end

