-- ==== Sys2Proof/Laws/AxisRange.lean ====
section
/-! SUPPORT. Every function of an axis's motion keeps the axis in its ranges (R105). -/

namespace Sys2Proof.Machine

variable {r : AxisRec} {x : Axis}

/-- The start speed of a record in range. -/
theorem AxisInRange.vs (h : AxisInRange r x) : r.vs ≤ 4000 := le_trans h.1.1 h.1.2.1

/-- A change of velocity, accumulator and run speed within range, at the same position. -/
theorem AxisInRange.of (h : AxisInRange r x) {y : Axis} (hp : y.pos = x.pos) (hv : y.v ≤ 4000) (ha : y.acc < 4000)
    (hq : ∀ q ∈ y.runSpeed, q ≤ 4000) : AxisInRange r y :=
  ⟨h.1, hv, ha, hq, by rw [hp]; exact h.2.2.2.2⟩

/-- An axis that stands. -/
theorem AxisInRange.still (h : AxisInRange r x) {y : Axis} (hp : y.pos = x.pos) (hv : y.v = 0) (ha : y.acc = 0)
    (hq : y.runSpeed = none) : AxisInRange r y :=
  h.of hp (by omega) (by omega) (by rw [hq]; simp)

theorem AxisInRange.toHolding (b : Bool) (h : AxisInRange r x) : AxisInRange r (toHolding r b x) :=
  h.still rfl rfl rfl rfl

theorem AxisInRange.passRest (d : Dir) (h : AxisInRange r x) : AxisInRange r (passRest r d x) := by
  refine h.of rfl ?_ (by simp [Machine.passRest]) h.2.2.2.1
  have := h.vs
  unfold Machine.passRest
  dsimp only
  split <;> omega

theorem AxisInRange.turnAbout (d : Dir) (k : Option Nat) (h : AxisInRange r x) :
    AxisInRange r (turnAbout r d k x) := by
  unfold Machine.turnAbout
  split
  · exact h
  · split
    · exact h.passRest d
    · exact h.of rfl h.2.1 h.2.2.1 h.2.2.2.1

theorem AxisInRange.seekOrder (p : Nat) (h : AxisInRange r x) : AxisInRange r (seekOrder r p x).1 := by
  unfold Machine.seekOrder
  dsimp only
  split
  · exact h.toHolding true
  · split
    · exact h.of rfl h.vs (by simp) (by simp)
    · split
      · exact h.of rfl h.2.1 h.2.2.1 (by simp)
      · exact AxisInRange.turnAbout _ _ (h.of rfl h.2.1 h.2.2.1 (by simp))

theorem runSpeedOf_le (c : Nat) (h : AxisInRange r x) : runSpeedOf r c ≤ 4000 := by
  have := h.1.2.1
  unfold runSpeedOf
  omega

theorem AxisInRange.runOrder (c : Nat) (h : AxisInRange r x) : AxisInRange r (runOrder r c x) := by
  have hq := runSpeedOf_le c h
  have hs := h.vs
  have hy : ∀ y : Axis, y.pos = x.pos → y.v = x.v → y.acc = x.acc → y.runSpeed = some (runSpeedOf r c) →
      AxisInRange r y := fun y h1 h2 h3 h4 =>
    h.of h1 (by rw [h2]; exact h.2.1) (by rw [h3]; exact h.2.2.1) (by rw [h4]; simpa using hq)
  unfold Machine.runOrder
  dsimp only
  split
  · exact h.of rfl (by dsimp only; omega) (by simp) (by simpa using hq)
  · split
    · exact hy _ rfl rfl rfl rfl
    · exact AxisInRange.turnAbout _ _ (hy _ rfl rfl rfl rfl)

theorem AxisInRange.stopOrder (h : AxisInRange r x) : AxisInRange r (stopOrder r x).1 := by
  unfold Machine.stopOrder
  split
  iterate 3
    · split
      · exact h.toHolding false
      · exact h.of rfl h.2.1 h.2.2.1 (by simp)
  · exact h.toHolding x.arrived
  all_goals exact h

theorem AxisInRange.homeOrder (h : AxisInRange r x) : AxisInRange r (homeOrder r x) :=
  h.of rfl h.vs (by simp [Machine.homeOrder]) (by simp [Machine.homeOrder])

theorem AxisInRange.turnStep (d : Dir) (h : AxisInRange r x) : AxisInRange r (turnStep r d x) := by
  have := h.2.1
  unfold Machine.turnStep
  split
  · exact h.passRest d
  · exact h.of rfl (by dsimp only; omega) h.2.2.1 h.2.2.2.1

theorem profile_le (d : Nat) (h : AxisInRange r x) : profile r d x.v ≤ 4000 := by
  have h1 := h.vs
  have h2 := h.2.1
  have h3 := h.1.2.1
  unfold profile
  repeat' split
  all_goals omega

theorem runRamp_le (q : Nat) (hq : q ≤ 4000) (h : AxisInRange r x) : runRamp r q x.v ≤ 4000 := by
  have h1 := h.vs
  have h2 := h.2.1
  unfold runRamp
  split <;> omega

theorem AxisInRange.stoppingStep (h : AxisInRange r x) : AxisInRange r (stoppingStep r x).1 := by
  have := h.2.1
  unfold Machine.stoppingStep
  split
  · exact h.toHolding false
  · exact h.of rfl (by dsimp only; omega) h.2.2.1 h.2.2.2.1

theorem AxisInRange.followStep (n : Nat) (h : AxisInRange r x) : AxisInRange r (followStep r n x) := by
  unfold Machine.followStep
  split
  · exact h
  · exact h.of rfl (profile_le _ h) h.2.2.1 h.2.2.2.1

theorem AxisInRange.holdEnds (h : AxisInRange r x) : AxisInRange r (holdEnds x) := by
  unfold Machine.holdEnds
  split
  · split
    · exact h.of rfl h.2.1 h.2.2.1 h.2.2.2.1
    · exact h
  · exact h

theorem AxisInRange.holdStep (h : AxisInRange r x) : AxisInRange r (holdStep x) := by
  unfold Machine.holdStep
  split
  · exact h
  · split
    · exact h.holdEnds
    · exact h.of rfl h.2.1 h.2.2.1 h.2.2.2.1

theorem AxisInRange.axisStep (n : Nat) (h : AxisInRange r x) : AxisInRange r (axisStep r n x).1 := by
  unfold Machine.axisStep
  split
  · split
    · exact h.turnStep _
    · exact h.of rfl (profile_le _ h) h.2.2.1 h.2.2.2.1
    · exact h
  · split
    · exact h.turnStep _
    · rename_i q _ hq
      exact h.of rfl (runRamp_le _ (h.2.2.2.1 _ (by simp_all)) h) h.2.2.1 h.2.2.2.1
    · exact h
  · exact h.stoppingStep
  · exact h.followStep n
  · exact h.holdStep
  all_goals exact h

/-- A step keeps the position in its range. -/
theorem stepPos_inRange (d : Dir) {p : Nat} (hr : AxisRecInRange r) (hp : PosInRange r p) :
    PosInRange r (stepPos r d p) := by
  have h2 := hr.2.2
  unfold PosInRange stepPos at *
  cases hk : r.kind <;> cases d <;> simp only [hk] at hp h2 ⊢
  · exact Nat.mod_lt _ (by have := h2 trivial; omega)
  · exact Nat.mod_lt _ (by have := h2 trivial; omega)
  · omega
  · omega

/-- A target is a position. -/
theorem takeTarget_inRange (p : Nat) (hr : AxisRecInRange r) : PosInRange r (takeTarget r p) := by
  have h2 := hr.2.2
  unfold PosInRange takeTarget
  cases hk : r.kind <;> simp only [hk] at h2 ⊢
  · exact Nat.mod_lt _ (by have := h2 trivial; omega)
  · omega

theorem AxisInRange.reached (h : AxisInRange r x) : AxisInRange r (reached r x).1 := by
  unfold Machine.reached
  split
  iterate 2
    · split
      · exact h.toHolding true
      · split
        · split
          · exact h.passRest _
          · exact h
        · exact h
  · split
    · split
      · exact h.passRest _
      · exact h
    · exact h
  · split
    · exact h.of rfl (by simp) (by simp) h.2.2.2.1
    · exact h
  · exact h.of rfl h.2.1 h.2.2.1 h.2.2.2.1
  all_goals exact h

theorem AxisInRange.axisFrame (h : AxisInRange r x) : AxisInRange r (axisFrame r x).1 := by
  have hv := h.2.1
  have ha := h.2.2.1
  unfold Machine.axisFrame
  split
  · rename_i hg
    split
    · split
      · exact h
      · refine AxisInRange.reached ⟨h.1, hv, ?_, h.2.2.2.1, fun hu => stepPos_inRange _ h.1 (h.2.2.2.2 hu)⟩
        dsimp only
        omega
    · rename_i hd
      refine h.of rfl hv ?_ h.2.2.2.1
      have : ¬ 4000 ≤ x.acc + x.v := by
        intro hc
        exact hd (by simp [stepDue, hg, hc])
      dsimp only
      omega
  · exact h

/-- Every function of an axis's motion keeps it in range. -/
theorem motion_inRange : Motion AxisInRange where
  seek _ p _ h := h.seekOrder p
  run _ c _ h := h.runOrder c
  stop _ _ h := h.stopOrder
  home _ _ h := h.homeOrder
  follow _ _ h := h.still rfl rfl rfl rfl
  fault _ _ _ h := h.still rfl rfl rfl rfl
  step _ n _ h := h.axisStep n
  frame _ _ h := h.axisFrame
  holding _ b _ h := h.toHolding b
  found r x h := by
    refine ⟨h.1, by simp [homeFound, toHolding], by simp [homeFound, toHolding], by simp [homeFound, toHolding],
      fun _ => ?_⟩
    have h2 := h.1.2.2
    unfold PosInRange homeFound
    cases hk : r.kind <;> simp only [hk] at h2 ⊢
    · have := h2 trivial
      omega
    · omega
  turns _ _ h := h.of rfl h.vs (by simp [homeTurns]) h.2.2.2.1
  mark _ _ _ h := h.of rfl h.2.1 h.2.2.1 h.2.2.2.1
  homeIn _ _ _ h := h.of rfl h.2.1 h.2.2.1 h.2.2.2.1
  faultIn _ _ _ h := h.of rfl h.2.1 h.2.2.1 h.2.2.2.1

/-- An axis after a committed write of its record (R104): the new record is in range. -/
theorem axisCommitted_inRange {old new : AxisRec} (hn : AxisRecInRange new) (h : AxisInRange old x) :
    AxisInRange new (axisCommitted old new x) := by
  unfold axisCommitted
  split
  · exact ⟨hn, h.2.1, h.2.2.1, h.2.2.2.1, fun _ => takeTarget_inRange _ hn⟩
  · split
    · exact ⟨hn, h.2.1, h.2.2.1, h.2.2.2.1, fun _ => takeTarget_inRange _ hn⟩
    · rename_i h1 h2
      refine ⟨hn, h.2.1, h.2.2.1, h.2.2.2.1, fun hu => ?_⟩
      have hi : old.inUse = new.inUse := by simpa using h1
      have hks : old.kind = new.kind ∧ old.steps = new.steps := by
        simp [hu] at h2
        exact h2.1
      have := h.2.2.2.2 (by rw [hi]; exact hu)
      unfold PosInRange at this ⊢
      rw [← hks.1, ← hks.2]
      exact this

end Sys2Proof.Machine
end

