-- ==== Sys2Proof/Laws/Range.lean ====
section
/-! SUPPORT. Every operation keeps what the node holds in its ranges (Safety.lean). -/

namespace Sys2Proof.Machine

/-! ## Appending and taking cues -/

theorem appendCue_inRange {c : Nat} {src : Source} {s : State} (h : CueInRange s.cue) :
    CueInRange (appendCue c src s).cue := by
  unfold appendCue
  split
  · exact h
  · rename_i hc
    split
    · rename_i hl
      refine ⟨by simpa using by omega, fun x hx => ?_, h.2.2⟩
      rcases List.mem_append.1 hx with hx | hx
      · exact h.2.1 x hx
      · rw [List.mem_singleton.1 hx]
        exact hc
    · exact h

/-! ## The Reservation, Train and Axis Units -/

/-- The updates of the three units keep everything in range. -/
theorem closed_inRange : Closed HeldInRange AxisInRange where
  motion := motion_inRange
  now _ h := h.axes
  sec _ _ _ h := ⟨h.cue, h.clock, h.link, h.xfer, h.chain, h.lamp, h.tables, h.axes⟩
  pt _ _ _ h := ⟨h.cue, h.clock, h.link, h.xfer, h.chain, h.lamp, h.tables, h.axes⟩
  train _ _ _ h := ⟨h.cue, h.clock, h.link, h.xfer, h.chain, h.lamp, h.tables, h.axes⟩
  note _ _ _ h := ⟨h.cue, h.clock, h.link, h.xfer, h.chain, h.lamp, h.tables, h.axes⟩
  choose _ _ _ h := ⟨h.cue, h.clock, h.link, h.xfer, h.chain, h.lamp, h.tables, h.axes⟩
  trains _ _ h := ⟨h.cue, h.clock, h.link, h.xfer, h.chain, h.lamp, h.tables, h.axes⟩
  axes _ _ h hv := ⟨h.cue, h.clock, h.link, h.xfer, h.chain, h.lamp, h.tables, hv⟩
  cue c src s h := by
    have hq := appendCue_inRange (c := c) (src := src) h.cue
    unfold appendCue at hq ⊢
    split
    · exact h
    · split
      · rename_i h1 h2
        rw [if_neg h1, if_pos h2] at hq
        exact ⟨hq, h.clock, h.link, h.xfer, h.chain, h.lamp, h.tables, h.axes⟩
      · exact ⟨h.cue, h.clock, h.link, h.xfer, h.chain, h.lamp, h.tables, h.axes⟩
  axis a x s h hx := by
    refine ⟨h.cue, h.clock, h.link, h.xfer, h.chain, h.lamp, h.tables, fun b => ?_⟩
    show AxisInRange s.tables.axes[b] (s.axes.set a x)[b]
    by_cases hb : a = b
    · subst hb
      simpa using hx
    · have : (s.axes.set a x)[b] = s.axes[b] := by
        simp only [Fin.getElem_fin]
        exact Vector.getElem_set_ne _ _ (by simpa [Fin.ext_iff] using hb)
      rw [this]
      exact h.axes b

namespace HeldInRange

variable {s : State}

theorem latch {k : NoticeKind} {d : Detail} (h : HeldInRange s) : HeldInRange (latch k d s) := closed_inRange.note _ _ _ h

theorem append {c : Nat} {src : Source} (h : HeldInRange s) : HeldInRange (appendCue c src s) :=
  closed_inRange.cue _ _ _ h

theorem draw (h : HeldInRange s) : HeldInRange (draw s).2 := closed_inRange.draw h

theorem arrange {α : Type} {xs : List α} (h : HeldInRange s) : HeldInRange (arrange xs s).2 := closed_inRange.arrange h

theorem node {n : NodeState} (h : HeldInRange s) : HeldInRange { s with node := n } :=
  ⟨h.cue, h.clock, h.link, h.xfer, h.chain, h.lamp, h.tables, h.axes⟩

theorem checkDue {b : Bool} (h : HeldInRange s) : HeldInRange { s with checkDue := b } :=
  ⟨h.cue, h.clock, h.link, h.xfer, h.chain, h.lamp, h.tables, h.axes⟩

theorem owed {rs : List Req} (h : HeldInRange s) : HeldInRange { s with owed := rs } :=
  ⟨h.cue, h.clock, h.link, h.xfer, h.chain, h.lamp, h.tables, h.axes⟩

theorem players {v : Vector Player 4} (h : HeldInRange s) : HeldInRange { s with players := v } :=
  ⟨h.cue, h.clock, h.link, h.xfer, h.chain, h.lamp, h.tables, h.axes⟩

theorem notices {v : Notices} (h : HeldInRange s) : HeldInRange { s with notices := v } :=
  ⟨h.cue, h.clock, h.link, h.xfer, h.chain, h.lamp, h.tables, h.axes⟩

theorem setCue {v : CueEngine} (h : HeldInRange s) (hv : CueInRange v) : HeldInRange { s with cue := v } :=
  ⟨hv, h.clock, h.link, h.xfer, h.chain, h.lamp, h.tables, h.axes⟩

theorem setClock {v : Clock} (h : HeldInRange s) (hv : ClockInRange v) : HeldInRange (setClock v s) :=
  ⟨h.cue, hv, h.link, h.xfer, h.chain, h.lamp, h.tables, h.axes⟩

theorem setLink {v : Link} (h : HeldInRange s) (hv : LinkInRange v) : HeldInRange (setLink v s) :=
  ⟨h.cue, h.clock, hv, h.xfer, h.chain, h.lamp, h.tables, h.axes⟩

theorem setXfer {v : Transfer} (h : HeldInRange s) (hv : XferInRange v) : HeldInRange (setXfer v s) :=
  ⟨h.cue, h.clock, h.link, hv, h.chain, h.lamp, h.tables, h.axes⟩

theorem setChain {v : Chain} (h : HeldInRange s) (hv : ChainInRange v) : HeldInRange { s with chain := v } :=
  ⟨h.cue, h.clock, h.link, h.xfer, hv, h.lamp, h.tables, h.axes⟩

theorem setLamp {v : LampUnit} (h : HeldInRange s) (hv : LampInRange v) : HeldInRange { s with lamp := v } :=
  ⟨h.cue, h.clock, h.link, h.xfer, h.chain, hv, h.tables, h.axes⟩

theorem setPts {v : Vector Point 8} (h : HeldInRange s) : HeldInRange { s with pts := v } :=
  ⟨h.cue, h.clock, h.link, h.xfer, h.chain, h.lamp, h.tables, h.axes⟩

theorem setSecs {v : Vector Section 16} (h : HeldInRange s) : HeldInRange { s with secs := v } :=
  ⟨h.cue, h.clock, h.link, h.xfer, h.chain, h.lamp, h.tables, h.axes⟩

/-! ### Flags, lamps -/

theorem setFlag {f : FlagId} {x : Flag} (h : HeldInRange s) : HeldInRange (setFlag f x s) := h.setCue h.cue

theorem stepFlags (h : HeldInRange s) : HeldInRange (stepFlags s) := h.setCue h.cue

theorem setMaster {g : GroupId} {x : Level} (h : HeldInRange s) : HeldInRange (setMaster g x s) := h.setLamp h.lamp

/-- A channel whose output level stays. -/
theorem setLayer {c : ChannelId} {x : Channel} (h : HeldInRange s) (hx : x.out = s.lamp.chans[c].out) :
    HeldInRange (setChan c x s) := by
  refine h.setLamp ⟨fun d => ?_, h.lamp.2⟩
  by_cases hd : c = d
  · subst hd
    have := h.lamp.1 c
    simpa [hx] using this
  · have : (s.lamp.chans.set c x)[d] = s.lamp.chans[d] := by
      simp only [Fin.getElem_fin]
      exact Vector.getElem_set_ne _ _ (by simpa [Fin.ext_iff] using hd)
    rw [this]
    exact h.lamp.1 d

theorem lampReleaseAll (h : HeldInRange s) : HeldInRange (lampReleaseAll s) := by
  refine h.setLamp ⟨fun d => ?_, h.lamp.2⟩
  rw [tab_get]
  split
  · exact h.lamp.1 d
  · exact h.lamp.1 d

theorem lampsCommitted (h : HeldInRange s) : HeldInRange (lampsCommitted s) := by
  refine h.setLamp ⟨fun d => ?_, fun p => ?_⟩
  · rw [tab_get]
    split
    · exact h.lamp.1 d
    · simp
  · rw [tab_get]
    split
    · exact h.lamp.2 p
    · simp

end HeldInRange

theorem limitStage_le {lo hi Q : Nat} (h : lo ≤ hi) : limitStage lo hi Q ≤ hi := by
  unfold limitStage
  split <;> omega

theorem channelLevel_le (s : State) (r : LampRec) (l : Option Level) (M : Nat) (h : LampRecInRange r) :
    channelLevel s r l M ≤ 255 := by
  have hl := fun Q => limitStage_le (Q := Q) h.1
  have hh := h.2
  unfold channelLevel
  dsimp only
  split
  iterate 2 exact le_trans (hl _) hh
  split
  · split
    · exact le_trans (hl _) hh
    · exact le_trans (hl _) hh
  · exact le_trans (hl _) hh

theorem drivePins_le (lamps : Vector LampRec 48) (chans : Vector Channel 48) (h : ∀ c : ChannelId, chans[c].out ≤ 255)
    (p : PinId) : (drivePins lamps chans)[p] ≤ 255 := by
  unfold drivePins
  have key : ∀ (cs : List ChannelId) (v : Vector Nat 16), (∀ p : PinId, v[p] ≤ 255) → ∀ p : PinId,
      (cs.foldl (fun pins c =>
        if lamps[c].inUse then
          match lamps[c].drive with
          | .pin p => pins.set p chans[c].out
          | .chain => pins
        else pins) v)[p] ≤ 255 := by
    intro cs
    induction cs with
    | nil => exact fun v hv => hv
    | cons c cs ih =>
      intro v hv
      refine ih _ fun q => ?_
      dsimp only
      split
      · split
        · rename_i q' _
          by_cases hq : q' = q
          · subst hq
            simpa using h c
          · have : (v.set q' chans[c].out)[q] = v[q] := by
              simp only [Fin.getElem_fin]
              exact Vector.getElem_set_ne _ _ (by simpa [Fin.ext_iff] using hq)
            rw [this]
            exact hv q
        · exact hv q
      · exact hv q
  exact key _ _ (fun q => by simp) p

theorem HeldInRange.stepLamps {s : State} (h : HeldInRange s) : HeldInRange (stepLamps s) := by
  have ho : ∀ c : ChannelId, (tab (channelStep s (tab fun g => fadeStep s.lamp.masters[g])))[c].out ≤ 255 := by
    intro c
    rw [tab_get]
    unfold channelStep
    dsimp only
    split
    · exact channelLevel_le _ _ _ _ (h.tables.2 c)
    · exact h.lamp.1 c
  exact h.setLamp ⟨ho, fun p => drivePins_le _ _ ho p⟩

/-! ## Clock -/

theorem clockSetPending_inRange (hr mn : Nat) : PendingInRange (clockSetPending hr mn) := by
  refine ⟨?_, by simp [clockSetPending]⟩
  simp only [clockSetPending, dayMs]
  omega

theorem setClockPending_inRange (ms : Nat) {day rate : Nat} (rh : Byte) (hd : day ≤ 65535) (hr : rate ≤ 65535) :
    PendingInRange (setClockPending ms day rate rh) := by
  refine ⟨?_, by simpa [setClockPending] using ⟨hd, hr⟩⟩
  simp only [setClockPending, dayMs]
  omega

theorem ClockInRange.applySet {c : Clock} {p : PendingSet} (h : ClockInRange c) (hp : PendingInRange p) :
    ClockInRange (applySet p c) := by
  unfold Machine.applySet
  split
  · exact ⟨hp.1, h.2.1, h.2.2.1, by simp⟩
  · rename_i x hx
    have := hp.2 x (by simp [hx])
    exact ⟨hp.1, this.1, this.2, by simp⟩

theorem ClockInRange.advanced {c : Clock} (h : ClockInRange c) : ClockInRange (advanced c) := by
  have h1 := h.1
  have h2 := h.2.2.1
  unfold Machine.advanced
  split
  · rename_i hp
    simp only [passesMidnight, decide_eq_true_eq] at hp
    refine ⟨?_, ?_, h2, h.2.2.2⟩
    · unfold dayMs at *
      dsimp only
      omega
    · dsimp only
      omega
  · rename_i hp
    simp only [passesMidnight, decide_eq_true_eq] at hp
    refine ⟨?_, h.2.1, h2, h.2.2.2⟩
    dsimp only
    omega

namespace HeldInRange

variable {s : State}

theorem fillPending {p : PendingSet} (h : HeldInRange s) (hp : PendingInRange p) : HeldInRange (fillPendingSet p s) :=
  h.setClock ⟨h.clock.1, h.clock.2.1, h.clock.2.2.1, by simpa using hp⟩

theorem applyPending (h : HeldInRange s) : HeldInRange (applyPendingSet s) := by
  unfold applyPendingSet
  split
  · exact h
  · rename_i p hp
    exact h.setClock (h.clock.applySet (h.clock.2.2.2 p (by simp [hp])))

theorem handOn {rs : List Req} (h : HeldInRange s) : HeldInRange (handOn rs s) := h.arrange.owed

theorem wake {src : WakeSource} (h : HeldInRange s) : HeldInRange (wake src s) := by
  unfold Machine.wake
  split
  · exact h
  iterate 2 exact HeldInRange.handOn (HeldInRange.latch h.node)

theorem fireAlarm {i : AlarmId} (h : HeldInRange s) : HeldInRange (fireAlarm i s) := by
  unfold Machine.fireAlarm
  dsimp only
  split
  · exact h.wake.append
  · exact h.append

theorem advance (h : HeldInRange s) : HeldInRange (advanceClock s) :=
  foldl_keeps _ _ (fun _ _ _ hu => hu.fireAlarm) _ (h.setClock h.clock.advanced)

theorem stepClock (h : HeldInRange s) : HeldInRange (stepClock s) := by
  unfold Machine.stepClock
  split
  · exact h.applyPending
  · split
    · exact h.advance
    · exact h

/-! ### Players -/

theorem setPlayer {p : PlayerId} {x : Player} (h : HeldInRange s) : HeldInRange (setPlayer p x s) := h.players

theorem listStart {p : PlayerId} (h : HeldInRange s) : HeldInRange (listStart p s).2 := by
  unfold Machine.listStart
  dsimp only
  split
  · exact h.setPlayer
  · exact h.setPlayer
  · exact h
  · exact h

theorem fireEnd {p : PlayerId} (h : HeldInRange s) : HeldInRange (fireEnd p s).2 := by
  unfold Machine.fireEnd
  dsimp only
  split
  · exact HeldInRange.setPlayer h.append
  iterate 2 exact HeldInRange.latch (HeldInRange.append h.setPlayer)

theorem fireEntry {p : PlayerId} (h : HeldInRange s) : HeldInRange (fireEntry p s).2.2 := by
  unfold Machine.fireEntry
  dsimp only
  split
  · exact h.fireEnd
  · split
    · exact HeldInRange.setPlayer h.append
    · exact HeldInRange.fireEnd h.append

theorem fireEntries {n m : Nat} {p : PlayerId} (h : HeldInRange s) : HeldInRange (fireEntries n m p s) := by
  induction n generalizing m s with
  | zero => exact h
  | succ n ih =>
    unfold Machine.fireEntries
    dsimp only
    split
    · split
      · exact h.fireEntry.setPlayer
      · exact ih h.fireEntry
    · exact h.fireEntry

theorem countdownEnds {p : PlayerId} (h : HeldInRange s) : HeldInRange (countdownEnds p s) := by
  unfold Machine.countdownEnds
  dsimp only
  split
  · split
    · exact HeldInRange.fireEntries h.setPlayer
    · exact h
  all_goals exact h

theorem stepPlayer {p : PlayerId} (h : HeldInRange s) : HeldInRange (stepPlayer p s) := by
  unfold Machine.stepPlayer
  dsimp only
  split
  · split
    · exact h.countdownEnds
    · exact h.setPlayer
  all_goals exact h

theorem stepLists (h : HeldInRange s) : HeldInRange (stepLists s) :=
  foldl_keeps _ _ (fun _ _ _ hu => hu.stepPlayer) _ h

/-! ### Node Control and its requests -/

theorem nodeCheck (h : HeldInRange s) : HeldInRange (nodeCheck s) := by
  unfold Machine.nodeCheck
  split
  · split
    · exact h.checkDue
    · split
      · exact h.node
      · exact h
  · exact h

theorem dueCheck (h : HeldInRange s) : HeldInRange (dueCheck s) := by
  unfold Machine.dueCheck
  split
  · exact HeldInRange.nodeCheck h.checkDue
  · exact h

theorem afterEvent {u : State} (h : HeldInRange s) : HeldInRange (afterEvent u s) := by
  unfold Machine.afterEvent
  split
  · exact h.nodeCheck
  · exact h

theorem runReq {r : Req} (h : HeldInRange s) : HeldInRange (runReq r s) := by
  cases r
  · rename_i b
    cases b
    · exact h
    · exact h.setClock h.clock
  · exact h.players
  · exact closed_inRange.restTrains h
  · exact closed_inRange.restAxes h
  · exact h.setClock h.clock
  · exact h.players
  · exact closed_inRange.wakeAxes h
  · exact closed_inRange.haltAll h
  · exact closed_inRange.allStopAxes h
  · exact closed_inRange.haltAll h
  · exact closed_inRange.chainFaultAxes h
  · exact closed_inRange.haltAll h
  · exact closed_inRange.linkLostAxes h

theorem reqEvent {r : Req} (h : HeldInRange s) : HeldInRange (reqEvent r s) := by
  exact h.runReq.afterEvent.dueCheck

theorem takeReqs {left rs : List Req} (h : HeldInRange s) : HeldInRange (takeReqs left rs s) := by
  induction rs generalizing s with
  | nil => exact h.owed
  | cons r rs ih => exact ih (HeldInRange.reqEvent h.owed)

theorem settle (h : HeldInRange s) : HeldInRange (settle s) := by
  unfold Machine.settle
  split
  · exact h
  · exact h.draw.takeReqs

theorem finish (h : HeldInRange s) : HeldInRange (finish s) := h.takeReqs

theorem beginDormant (h : HeldInRange s) : HeldInRange (beginDormant s) := by
  have hn : HeldInRange { s with node := .quiescing, checkDue := false } :=
    ⟨h.cue, h.clock, h.link, h.xfer, h.chain, h.lamp, h.tables, h.axes⟩
  exact hn.handOn

theorem dormantRequest (h : HeldInRange s) : HeldInRange (dormantRequest s).2 := by
  unfold Machine.dormantRequest
  split
  · exact h
  · split
    · exact h.beginDormant
    all_goals exact h

theorem allStop (h : HeldInRange s) : HeldInRange (allStop s) := h.handOn

end HeldInRange

/-! ## Actions -/

/-- The parameters of an action that the ranges rest on: the rate of CLOCK RATE (R19). -/
def ActionInRange : Action → Prop
  | .clockRate r => r ≤ 65535
  | _ => True

theorem decodeAction_inRange {r : ActionRec} {a : Action} (h1 : r.p1 ≤ 255) (h2 : r.p2 ≤ 255)
    (h : decodeAction r = some a) : ActionInRange a := by
  unfold decodeAction at h
  split at h <;> first
    | (simp only [Option.map_eq_some_iff] at h; obtain ⟨_, _, rfl⟩ := h; trivial)
    | (split at h <;> first
        | (obtain rfl := Option.some.inj h; trivial)
        | (simp only [Option.map_eq_some_iff] at h; obtain ⟨_, _, rfl⟩ := h; trivial)
        | cases h)
    | (obtain rfl := Option.some.inj h; first | trivial | (simp only [ActionInRange]; omega))
    | cases h

namespace HeldInRange

variable {s : State}

theorem axisAction {a : AxisId} {o : AxisOrder} (h : HeldInRange s) : HeldInRange (axisOrder a o s).2 :=
  closed_inRange.axisOrder h

theorem runAction {code : Nat} {act : Action} (h : HeldInRange s) (ha : ActionInRange act) :
    HeldInRange (runAction code act s).2 := by
  cases act with
  | lampRelease c =>
    cases c with
    | none => exact h.lampReleaseAll
    | some c =>
      unfold Machine.runAction whenInUse accepted
      dsimp only
      split
      · exact h.setLayer rfl
      · exact h
  | axisRun a c =>
    unfold Machine.runAction whenInUse whenAwake
    dsimp only
    split
    · split
      · exact h.axisAction
      · split
        · exact h
        · exact h.axisAction
    · exact h
  | lampSet c l u =>
    unfold Machine.runAction whenInUse accepted
    dsimp only
    split
    · exact h.setLayer rfl
    · exact h
  | none => exact h
  | groupSet g l u => exact h.setMaster
  | flagSet f => exact h.setFlag
  | flagClear f => exact h.setFlag
  | flagPulse f n => exact h.setFlag
  | listStart p =>
    unfold Machine.runAction whenAwake
    dsimp only
    split
    · exact h
    · exact h.listStart
  | listStop p => exact h.setPlayer
  | trainPlace t i =>
    unfold Machine.runAction whenInUse
    dsimp only
    split
    · exact closed_inRange.trainPlace h
    · exact h
  | trainRun t =>
    unfold Machine.runAction whenInUse whenAwake
    dsimp only
    split
    · split
      · exact h
      · exact closed_inRange.trainRun h
    · exact h
  | trainStop t =>
    unfold Machine.runAction whenInUse
    dsimp only
    split
    · exact closed_inRange.trainStop h
    · exact h
  | trainClear t =>
    unfold Machine.runAction whenInUse
    dsimp only
    split
    · exact closed_inRange.trainClear h
    · exact h
  | trainCruise t v =>
    unfold Machine.runAction whenInUse accepted
    dsimp only
    split
    · exact closed_inRange.trainCruise h
    · exact h
  | pointThrow p q =>
    unfold Machine.runAction whenInUse
    dsimp only
    split
    · exact closed_inRange.pointThrow h
    · exact h
  | axisHome a =>
    unfold Machine.runAction whenInUse whenAwake
    dsimp only
    repeat' split
    all_goals first | exact h.axisAction | exact h
  | axisSeek a p =>
    unfold Machine.runAction whenInUse whenAwake
    dsimp only
    repeat' split
    all_goals first | exact h.axisAction | exact h
  | axisPark a =>
    unfold Machine.runAction whenInUse whenAwake
    dsimp only
    repeat' split
    all_goals first | exact h.axisAction | exact h
  | axisStop a =>
    unfold Machine.runAction whenInUse
    dsimp only
    split
    · exact h.axisAction
    · exact h
  | axisFollow a =>
    unfold Machine.runAction whenInUse whenAwake
    dsimp only
    repeat' split
    all_goals first | exact h.axisAction | exact h
  | clockHold => exact h.setClock h.clock
  | clockResume => exact h.setClock h.clock
  | clockRate r => exact h.setClock ⟨h.clock.1, h.clock.2.1, ha, h.clock.2.2.2⟩
  | clockSet hr mn => exact h.fillPending (clockSetPending_inRange _ _)
  | nodeDormant => exact h.dormantRequest
  | nodeWake => exact h.wake
  | allStop => exact h.allStop
  | cue c => exact h.append

theorem runOne {code pos : Nat} {act : Action} (h : HeldInRange s) (ha : ActionInRange act) :
    HeldInRange (runOne code pos act s).2 := by
  have hr := HeldInRange.runAction (code := code) h.settle ha
  unfold Machine.runOne
  dsimp only
  split
  · exact hr.afterEvent
  · exact HeldInRange.afterEvent hr.latch

theorem runList {code pos : Nat} {acts : List Action} (h : HeldInRange s) (ha : ∀ a ∈ acts, ActionInRange a) :
    HeldInRange (runList code pos acts s).2 := by
  induction acts generalizing pos s with
  | nil => exact h
  | cons a acts ih =>
    have h1 := HeldInRange.runOne (code := code) (pos := pos) h (ha a List.mem_cons_self)
    have h2 := ih (pos := pos + 1) h1 (fun b hb => ha b (List.mem_cons_of_mem _ hb))
    unfold Machine.runList
    dsimp only
    split
    · exact h2
    · exact h2

end HeldInRange

/-- The actions of a stored list are in range. -/
theorem cueList_inRange {s : State} (h : HeldInRange s) (code : Nat) : ∀ a ∈ cueList s code, ActionInRange a := by
  intro a ha
  unfold cueList at ha
  split at ha
  · rw [List.mem_filterMap] at ha
    obtain ⟨i, _, hi⟩ := ha
    unfold poolAt at hi
    split at hi
    · rename_i hlt
      have := h.tables.1 ⟨_, hlt⟩
      exact decodeAction_inRange this.1 this.2 hi
    · exact decodeAction_inRange (by simp) (by simp) hi
  · simp at ha

namespace HeldInRange

variable {s : State}

theorem takeCue (h : HeldInRange s) : HeldInRange (takeCue s) := by
  unfold Machine.takeCue
  split
  · exact h
  · rename_i c rest hq
    split
    · rename_i ht
      have hc : CueInRange { s.cue with queue := rest, takes := s.cue.takes + 1 } := by
        have h1 := h.cue
        rw [CueInRange, hq] at h1
        simp only [List.length_cons] at h1
        exact ⟨by dsimp only; omega, fun x hx => h1.2.1 x (List.mem_cons_of_mem _ hx), by dsimp only; omega⟩
      have hu := h.setCue hc
      unfold handleCue
      split
      · exact HeldInRange.runList hu (cueList_inRange hu _)
      · exact HeldInRange.runList hu (cueList_inRange hu _)
      · exact HeldInRange.runList hu.wake (cueList_inRange hu _)
      · exact HeldInRange.runList hu.wake (cueList_inRange hu _)
      · exact hu
    · exact h

end HeldInRange

end Sys2Proof.Machine
end

