-- ==== Sys2Proof/Laws/RangeLink.lean ====
section
/-! SUPPORT. The Chain Unit, the Transfer Unit, the Link Port and the scene step keep what the node holds in its ranges
(Safety.lean). -/

namespace Sys2Proof.Machine

namespace HeldInRange

variable {s : State}

/-! ## The Chain Unit -/

theorem setWatch {w : WatchId} {x : Watch} (h : HeldInRange s) : HeldInRange (setWatch w x s) := h.setChain h.chain

theorem startCycle (h : HeldInRange s) : HeldInRange (startCycle s) := by
  unfold Machine.startCycle
  dsimp only
  split
  · exact h.setChain ⟨by simp, by simp, h.chain.2.2⟩
  · exact h.setChain h.chain
  · exact h.setChain h.chain

theorem stepChain (h : HeldInRange s) : HeldInRange (stepChain s) := by
  have hd : (cycleDue s).1 ≤ 9 := by
    have := h.chain.2.2
    unfold cycleDue
    split
    · simp
    · simp
    · split
      · simp
      · dsimp only
        omega
  unfold Machine.stepChain
  dsimp only
  split
  · split
    · exact HeldInRange.startCycle (h.setChain ⟨h.chain.1, h.chain.2.1, hd⟩)
    · exact h.setChain ⟨h.chain.1, h.chain.2.1, hd⟩
  · exact h.setChain ⟨by simp, by simp, hd⟩

theorem fireWatch {w : WatchId} (h : HeldInRange s) : HeldInRange (fireWatch w s) := by
  unfold Machine.fireWatch
  dsimp only
  split
  · exact h.wake.append
  · exact h.append

theorem evalWatch {v : BitVec 64} {w : WatchId} (h : HeldInRange s) : HeldInRange (evalWatch v w s) := by
  unfold Machine.evalWatch
  dsimp only
  split
  · split
    · exact h.setWatch.fireWatch
    · exact h.setWatch
  · exact h

theorem handOff {x : HandOff} (h : HeldInRange s) : HeldInRange (handOff x s) := by
  cases x
  · exact closed_inRange.detectorEvent h
  · exact closed_inRange.cabFaultEvent h
  · exact closed_inRange.axisInputEvent h
  · exact foldl_keeps _ _ (fun _ _ _ hu => hu.evalWatch) _ h
  · exact h.nodeCheck

theorem handOffs {xs : List HandOff} (h : HeldInRange s) : HeldInRange (handOffs xs s) :=
  foldl_keeps _ _ (fun _ _ _ hu => hu.settle.handOff.afterEvent) _ h

theorem freshMatches {f : WatchId → Bool} (h : HeldInRange s) : HeldInRange (freshMatches f s) := h.setChain h.chain

theorem completed {good : Bool} {cyc : Cycle} {inputs : BitVec 64} (h : HeldInRange s) :
    HeldInRange { s with chain := completed good cyc inputs s.chain } := by
  refine h.setChain ?_
  have h3 := h.chain.2.2
  unfold Machine.completed
  split
  · exact ⟨by simp, by dsimp only; omega, h3⟩
  · exact ⟨by dsimp only; omega, by simp, h3⟩

theorem chainTurns {c : ChainState} (h : HeldInRange s) : HeldInRange (chainTurns c s) := by
  unfold Machine.chainTurns
  split
  · exact h
  · have hu := HeldInRange.latch (k := .chain) (d := .chain (c == .fault))
      (h.setChain (v := { s.chain with state := c }) h.chain)
    dsimp only
    split
    · exact hu.handOn
    · exact hu

theorem completeCycle {ret : Byte} {inputs : BitVec 64} (h : HeldInRange s) : HeldInRange (completeCycle ret inputs s) := by
  unfold Machine.completeCycle
  split
  · exact h
  · exact h
  · dsimp only
    split
    · exact HeldInRange.handOffs (HeldInRange.arrange (HeldInRange.setChain (HeldInRange.chainTurns h.completed)
        (HeldInRange.chainTurns h.completed).chain))
    · exact HeldInRange.nodeCheck (HeldInRange.settle (HeldInRange.chainTurns h.completed))

/-! ## The Transfer Unit -/

theorem joinReply {r : Reply} (h : HeldInRange s) : HeldInRange (joinReply r s) := by
  unfold Machine.joinReply
  split
  · exact h.setXfer ⟨h.xfer.1, by simpa using by omega⟩
  · exact h.latch

theorem outcome {via : Opened} {k : Byte} {r : Result} {d : List Byte} (h : HeldInRange s) :
    HeldInRange (outcome via k r d s) := by
  unfold Machine.outcome
  split
  · exact h.joinReply
  · split
    · exact h
    · exact h.latch

theorem closeUnit (h : HeldInRange s) : HeldInRange (closeUnit s) := h.setXfer ⟨by simp, h.xfer.2⟩

theorem discardOpen {r : Result} (h : HeldInRange s) : HeldInRange (discardOpen r s) := by
  unfold Machine.discardOpen
  split
  · exact h
  · exact h.closeUnit.outcome

theorem softReset (h : HeldInRange s) : HeldInRange (softResetState s) := by
  refine HeldInRange.freshMatches ⟨?_, ?_, h.link, ?_, ?_, ?_, h.tables, fun a => ?_⟩
  · exact ⟨by simp, by simp, h.cue.2.2⟩
  · exact ⟨by simp [Clock.reset, dayMs], by simp [Clock.reset], by simp [Clock.reset], by simp [Clock.reset]⟩
  · exact ⟨by simp, by simp⟩
  · exact ⟨by simp, by simp, by simp⟩
  · exact ⟨fun c => by simp [LampUnit.reset], fun p => by simp [LampUnit.reset]⟩
  · have hr := (h.axes a).1
    refine ⟨hr, by simp [Axis.reset], by simp [Axis.reset], by simp [Axis.reset], fun _ => ?_⟩
    have h2 := hr.2.2
    unfold PosInRange
    simp only [Fin.getElem_fin, Vector.getElem_replicate, Axis.reset]
    split
    · rename_i hk
      have := h2 hk
      simp only [Fin.getElem_fin] at this
      omega
    · omega

theorem commitNotices {m : Byte} {e c : BitVec 16} (h : HeldInRange s) : HeldInRange (commitNotices m e c s) := h.notices

theorem conclude {via : Opened} {k : Byte} {c : Commit} (h : HeldInRange c.2.2) : HeldInRange (conclude via k c) :=
  h.outcome

end HeldInRange

/-! ## The commit of a write -/

/-- Every record that a run of decoded records holds passed its decoder. -/
theorem firstBad_none {α : Type} {bad : Nat → α → Bool} :
    ∀ {k : Nat} {ds : List (Option α)}, firstBad bad k ds = none → ∀ d ∈ ds, d.isSome
  | _, [], _, _, hd => by simp at hd
  | k, none :: rest, h, _, _ => by simp [firstBad] at h
  | k, some a :: rest, h, d, hd => by
    unfold firstBad at h
    split at h
    · simp at h
    · rcases List.mem_cons.1 hd with rfl | hd
      · rfl
      · exact firstBad_none h d hd

/-- An item of a written vector is an old item or one of the records. -/
theorem written_mem {α : Type} {n : Nat} {v : Vector α n} {first : Nat} {recs : List α} {i : Fin n} :
    (written v first recs)[i] = v[i] ∨ (written v first recs)[i] ∈ recs := by
  unfold written
  rw [tab_get]
  split
  · rw [List.getD_eq_getElem?_getD]
    rcases h : recs[i.val - first]? with _ | a
    · left
      rfl
    · right
      simpa using List.mem_of_getElem? h
  · exact Or.inl rfl

/-- What every decoded record satisfies, every item of the vector satisfies after the write. -/
theorem store_ok {α : Type} {n : Nat} {old : Vector α n} {first : Nat} {ds : List (Option α)} {bad : Nat → α → Bool}
    {put : Vector α n → State} {u : State} (h : store old first ds bad put = .ok u) :
    ∃ v : Vector α n, u = put v ∧ ∀ i : Fin n, v[i] = old[i] ∨ ∃ d ∈ ds, d = some v[i] := by
  unfold store at h
  split at h
  · simp at h
  · obtain rfl := Except.ok.inj h
    refine ⟨_, rfl, fun i => ?_⟩
    rcases written_mem (v := old) (first := first) (recs := ds.filterMap id) (i := i) with h1 | h1
    · exact Or.inl h1
    · right
      rw [List.mem_filterMap] at h1
      obtain ⟨d, hd, he⟩ := h1
      exact ⟨d, hd, he⟩

theorem decLamp_inRange {bs : List Byte} {r : LampRec} (h : decLamp bs = some r) : LampRecInRange r := by
  unfold decLamp at h
  simp only [Option.bind_eq_bind, Option.bind_eq_some_iff, Option.pure_def, Option.some.injEq] at h
  obtain ⟨_, _, _, _, _, _, _, _, _, _, rfl⟩ := h
  refine ⟨by dsimp only; omega, ?_⟩
  have := (bs.getD 6 0).isLt
  dsimp only [at_]
  omega

theorem decPool_inRange {bs : List Byte} {r : ActionRec} (h : decPool bs = some r) : r.p1 ≤ 255 ∧ r.p2 ≤ 255 := by
  unfold decPool at h
  split at h
  · obtain rfl := Option.some.inj h
    have h1 := (bs.getD 1 0).isLt
    have h2 := (bs.getD 2 0).isLt
    unfold actionRec
    dsimp only
    omega
  · cases h

theorem decAxis_inRange {bs : List Byte} {r : AxisRec} (h : decAxis bs = some r) : AxisRecInRange r := by
  unfold decAxis at h
  simp only [Option.bind_eq_bind, Option.bind_eq_some_iff, Option.pure_def] at h
  obtain ⟨k, _, d, _, p, _, q, _, h⟩ := h
  split at h
  · cases h
  · obtain rfl := Option.some.inj h
    refine ⟨?_, ?_, ?_⟩
    · dsimp only
      omega
    · dsimp only [clamp]
      omega
    · intro hk
      dsimp only at hk ⊢
      subst hk
      unfold clampSteps
      dsimp only
      omega

namespace HeldInRange

variable {s : State}

theorem putTables {t : Tables} (h : HeldInRange s) (h1 : t.pool = s.tables.pool) (h2 : t.lamps = s.tables.lamps)
    (h3 : t.axes = s.tables.axes) : HeldInRange { s with tables := t } := by
  refine ⟨h.cue, h.clock, h.link, h.xfer, h.chain, h.lamp, ⟨fun i => ?_, fun c => ?_⟩, fun a => ?_⟩
  · rw [h1]
    exact h.tables.1 i
  · rw [h2]
    exact h.tables.2 c
  · show AxisInRange t.axes[a] s.axes[a]
    rw [h3]
    exact h.axes a

theorem trainsCommitted {f n : Nat} (h : HeldInRange s) : HeldInRange (trainsCommitted f n s) :=
  closed_inRange.trains _ _ h

theorem pointsCommitted {old : Vector PointRec 8} (h : HeldInRange s) : HeldInRange (pointsCommitted old s) := by
  unfold Machine.pointsCommitted
  exact closed_inRange.reevaluate h.setPts

theorem storeRecords {table first : Nat} {recs : List (List Byte)} {u : State} (h : HeldInRange s)
    (hs : storeRecords table first recs s = .ok u) : HeldInRange u := by
  unfold Machine.storeRecords at hs
  dsimp only at hs
  split at hs
  · split at hs
    · obtain rfl := Except.ok.inj hs
      exact h.putTables rfl rfl rfl
    · cases hs
  · obtain ⟨v, rfl, hv⟩ := store_ok hs
    exact h.putTables rfl rfl rfl
  · obtain ⟨v, rfl, hv⟩ := store_ok hs
    refine ⟨h.cue, h.clock, h.link, h.xfer, h.chain, h.lamp, ⟨fun i => ?_, h.tables.2⟩, h.axes⟩
    rcases hv i with h1 | ⟨d, hd, h1⟩
    · show v[i].p1 ≤ 255 ∧ v[i].p2 ≤ 255
      rw [h1]
      exact h.tables.1 i
    · subst h1
      obtain ⟨bs, _, hb⟩ := List.mem_map.1 hd
      exact decPool_inRange hb
  iterate 4
    · obtain ⟨v, rfl, hv⟩ := store_ok hs
      exact h.putTables rfl rfl rfl
  · obtain ⟨v, rfl, hv⟩ := store_ok hs
    refine HeldInRange.lampsCommitted
      ⟨h.cue, h.clock, h.link, h.xfer, h.chain, h.lamp, ⟨h.tables.1, fun c => ?_⟩, h.axes⟩
    rcases hv c with h1 | ⟨d, hd, h1⟩
    · show LampRecInRange v[c]
      rw [h1]
      exact h.tables.2 c
    · subst h1
      obtain ⟨bs, _, hb⟩ := List.mem_map.1 hd
      exact decLamp_inRange hb
  · split at hs
    · cases hs
    · rename_i u' hu
      split at hs
      · cases hs
      · obtain rfl := Except.ok.inj hs
        obtain ⟨v, rfl, hv⟩ := store_ok hu
        exact HeldInRange.setSecs (h.putTables rfl rfl rfl)
  · obtain ⟨v, rfl, hv⟩ := store_ok hs
    exact HeldInRange.trainsCommitted (h.putTables rfl rfl rfl)
  · have hx := store_ok hs
    obtain ⟨v, hv, -⟩ := hx
    rw [hv]
    have hu : HeldInRange { s with tables := { s.tables with points := v } } := h.putTables rfl rfl rfl
    exact hu.pointsCommitted
  · obtain ⟨v, rfl, hv⟩ := store_ok hs
    refine ⟨h.cue, h.clock, h.link, h.xfer, h.chain, h.lamp, h.tables, fun a => ?_⟩
    show AxisInRange v[a] (tab fun b => axisCommitted s.tables.axes[b] v[b] s.axes[b])[a]
    rw [tab_get]
    refine axisCommitted_inRange ?_ (h.axes a)
    rcases hv a with h1 | ⟨d, hd, h1⟩
    · rw [h1]
      exact (h.axes a).1
    · subst h1
      obtain ⟨bs, _, hb⟩ := List.mem_map.1 hd
      exact decAxis_inRange hb
  iterate 2
    · obtain ⟨v, rfl, hv⟩ := store_ok hs
      exact h.putTables rfl rfl rfl
  · obtain ⟨v, rfl, hv⟩ := store_ok hs
    exact HeldInRange.setChain (HeldInRange.setChain (h.putTables rfl rfl rfl) h.chain) h.chain
  · obtain rfl := Except.ok.inj hs
    exact h.putTables rfl rfl rfl

theorem commitWrite {table first count : Nat} {records : List Byte} (h : HeldInRange s) :
    HeldInRange (commitWrite table first count records s).2.2 := by
  unfold Machine.commitWrite
  split
  · exact h
  · split
    · exact h
    · split
      · exact h
      · split
        · exact h
        · rename_i hu
          exact h.storeRecords hu

theorem unlessBroadcast {via : Opened} {c : Commit} (h : HeldInRange s) (hc : HeldInRange c.2.2) :
    HeldInRange (unlessBroadcast via s c).2.2 := by
  cases via
  · exact hc
  · exact h

theorem commitExecute {records : List Byte} (h : HeldInRange s) : HeldInRange (commitExecute records s).2.2 := by
  unfold Machine.commitExecute
  dsimp only
  split
  · exact h
  · refine h.runList fun a ha => ?_
    rw [List.mem_filterMap] at ha
    obtain ⟨d, hd, rfl⟩ := ha
    obtain ⟨bs, _, hb⟩ := List.mem_map.1 hd
    refine decodeAction_inRange ?_ ?_ hb
    · have := (bs.getD 1 0).isLt
      unfold actionRec
      dsimp only
      omega
    · have := (bs.getD 2 0).isLt
      unfold actionRec
      dsimp only
      omega

/-! ### The transfer kinds -/

theorem writeTransfer {via : Opened} {t f c : Nat} {rs : List Byte} (h : HeldInRange s) :
    HeldInRange (writeTransfer via t f c rs s) := by
  unfold Machine.writeTransfer
  split
  · exact h.commitWrite.conclude
  · exact HeldInRange.conclude h

theorem readTransfer {via : Opened} {t f c : Nat} (h : HeldInRange s) : HeldInRange (readTransfer via t f c s) := by
  refine HeldInRange.conclude (h.unlessBroadcast ?_)
  unfold commitRead
  repeat' split
  all_goals exact h

theorem viewTransfer {via : Opened} {v i : Byte} (h : HeldInRange s) : HeldInRange (viewTransfer via v i s) := by
  refine HeldInRange.conclude (h.unlessBroadcast ?_)
  unfold commitView
  split
  all_goals exact h

theorem clockTransfer {via : Opened} {ms day rate : Nat} {rh : Byte} (h : HeldInRange s) (hd : day ≤ 65535)
    (hr : rate ≤ 65535) : HeldInRange (clockTransfer via ms day rate rh s) :=
  HeldInRange.conclude (c := plain .ok _) (h.fillPending (setClockPending_inRange ms rh hd hr))

theorem codeTransfer {via : Opened} {c : Nat} (h : HeldInRange s) : HeldInRange (codeTransfer via c s) := by
  refine HeldInRange.conclude ?_
  unfold commitCue
  split
  · exact h
  · exact h.append

theorem executeTransfer {via : Opened} {rs : List Byte} (h : HeldInRange s) : HeldInRange (executeTransfer via rs s) := by
  refine HeldInRange.conclude ?_
  split
  · exact h.commitExecute
  · exact h

theorem noticesTransfer {via : Opened} {m : Byte} {e c : BitVec 16} (h : HeldInRange s) :
    HeldInRange (noticesTransfer via m e c s) := HeldInRange.conclude (c := plain .ok _) h.commitNotices

theorem restTransfer {via : Opened} (h : HeldInRange s) : HeldInRange (restTransfer via s) := by
  refine HeldInRange.conclude ?_
  unfold commitDormant
  dsimp only
  split
  · exact h.dormantRequest
  · exact h.dormantRequest

theorem awakeTransfer {via : Opened} (h : HeldInRange s) : HeldInRange (awakeTransfer via s) :=
  HeldInRange.conclude (c := plain .ok _) h.wake

theorem haltTransfer {via : Opened} (h : HeldInRange s) : HeldInRange (haltTransfer via s) :=
  HeldInRange.conclude (c := plain .ok _) h.allStop

theorem resetTransfer {via : Opened} (h : HeldInRange s) : HeldInRange (resetTransfer via s) :=
  HeldInRange.conclude (c := plain .ok _) h.softReset

theorem at2_le (bs : List Byte) (i : Nat) : at2 bs i ≤ 65535 := by
  have h1 := (bs.getD i 0).isLt
  have h2 := (bs.getD (i + 1) 0).isLt
  unfold at2 at_
  omega

theorem commitBody {via : Opened} {body : List Byte} (h : HeldInRange s) : HeldInRange (commitBody via body s) := by
  unfold Machine.commitBody
  split
  · split
    · exact HeldInRange.conclude h
    · exact h.writeTransfer
  · exact h.readTransfer
  · exact h.viewTransfer
  · exact h.clockTransfer (at2_le _ _) (at2_le _ _)
  · exact h.codeTransfer
  · exact h.executeTransfer
  · exact h.noticesTransfer
  · exact h.restTransfer
  · exact h.awakeTransfer
  · exact h.haltTransfer
  · exact h.resetTransfer

theorem judge {via : Opened} {bytes : List Byte} (h : HeldInRange s) : HeldInRange (judge via bytes s) := by
  unfold Machine.judge
  dsimp only
  split
  · exact h.outcome
  · split
    · exact h.outcome
    · split
      · exact h.outcome
      · split
        · exact h.outcome
        · exact h.commitBody

/-! ## Symbols and frames -/

theorem takeOpen {a : Nat} (h : HeldInRange s) : HeldInRange (takeOpen a s) := by
  have hd := HeldInRange.discardOpen (r := .interrupted) h
  unfold Machine.takeOpen
  dsimp only
  split
  · exact hd.setXfer ⟨by simp, hd.xfer.2⟩
  · split
    · exact hd.setXfer ⟨by simp, hd.xfer.2⟩
    · exact hd

theorem takeByte {v : Byte} (h : HeldInRange s) : HeldInRange (takeByte v s) := by
  unfold Machine.takeByte
  split
  · exact h
  · split
    · exact h.setXfer ⟨by simpa using by omega, h.xfer.2⟩
    · exact h.discardOpen

theorem takeClose (h : HeldInRange s) : HeldInRange (takeClose s) := by
  unfold Machine.takeClose
  split
  · exact h
  · exact h.closeUnit.judge

theorem giveAnswer (h : HeldInRange s) : HeldInRange (giveAnswer s).2.2 := by
  unfold Machine.giveAnswer
  split
  · exact h.setXfer h.xfer
  · split
    · exact h.notices
    · exact h

theorem takeGrant {a : Nat} (h : HeldInRange s) : HeldInRange (takeGrant a s) := by
  unfold Machine.takeGrant
  split
  · exact h.giveAnswer.setLink h.giveAnswer.link
  · exact h

theorem takeEnum {n : Nat} (h : HeldInRange s) : HeldInRange (takeEnum n s) := by
  refine h.setLink ⟨?_, h.link.2⟩
  unfold hopAddress
  dsimp only
  split <;> omega

theorem takeSymbol {t v : Byte} (h : HeldInRange s) : HeldInRange (takeSymbol t v s) := by
  unfold Machine.takeSymbol
  split
  · exact h.takeOpen
  · exact h.takeByte
  · exact h.takeClose
  · exact h.takeGrant
  · exact h.takeEnum
  · exact h

theorem reportSent {a : AnswerKind} (h : HeldInRange s) : HeldInRange (reportSent a s) := by
  cases a
  · refine h.setXfer ⟨h.xfer.1, ?_⟩
    have := h.xfer.2
    simp only [List.length_drop]
    omega
  · exact h.notices
  · exact h

theorem reportAbandoned {a : AnswerKind} (h : HeldInRange s) : HeldInRange (reportAbandoned a s) := by
  cases a
  · exact h.setXfer h.xfer
  · exact h.notices
  · exact h

theorem answerDone (h : HeldInRange s) : HeldInRange (answerDone s) := by
  unfold Machine.answerDone
  split
  · exact HeldInRange.reportSent (h.setLink h.link)
  · exact h
  · exact h

theorem abandonAnswer (h : HeldInRange s) : HeldInRange (abandonAnswer s) := by
  unfold Machine.abandonAnswer
  split
  · exact HeldInRange.reportAbandoned (h.setLink h.link)
  · exact h.answerDone
  · exact h

theorem placeOwn (h : HeldInRange s) : HeldInRange (placeOwn s) := by
  unfold Machine.placeOwn
  split
  · split
    · exact h
    · exact h.setLink h.link
  · exact h
  · exact h

theorem forward {bs : List Byte} (h : HeldInRange s) : HeldInRange (forward bs s) := by
  unfold Machine.forward
  split
  · exact h.setLink h.link
  · exact h.setLink h.link
  · exact h

theorem markOwn (h : HeldInRange s) : HeldInRange (markOwn s) := by
  unfold Machine.markOwn
  split
  · exact h.setLink h.link
  · exact h

theorem countDamaged {b : Bool} (h : HeldInRange s) : HeldInRange (countDamaged b s) :=
  HeldInRange.latch (h.setLink ⟨h.link.1, by dsimp only; omega, h.link.2.2⟩)

/-! ## The scene step -/

theorem goLocked (h : HeldInRange s) : HeldInRange (goLocked s) :=
  HeldInRange.latch (h.setLink ⟨h.link.1, h.link.2.1, h.link.2.2.1, h.link.2.2.2.1, by simp⟩)

theorem axisPeriod (h : HeldInRange s) : HeldInRange (axisPeriod s) := by
  unfold Machine.axisPeriod
  dsimp only
  refine foldl_keeps _ _ (fun _ _ _ hu => closed_inRange.periodEvent hu) _ (HeldInRange.arrange
    ⟨h.cue, h.clock, h.link, h.xfer, h.chain, h.lamp, h.tables, fun a => ?_⟩)
  rw [tab_get]
  unfold frameOf
  split
  · have hf := (h.axes a).axisFrame
    dsimp only
    unfold quiet
    split
    · exact hf.of rfl hf.2.1 hf.2.2.1 hf.2.2.2.1
    · exact hf
  · exact h.axes a

theorem runPart {p : Part} (h : HeldInRange s) : HeldInRange (runPart p s) := by
  cases p
  · exact h.stepClock
  · exact h.stepLists
  · exact h.stepFlags
  · exact h.stepLamps
  · exact closed_inRange.stepPoints h
  · exact closed_inRange.stepTrains h
  · exact closed_inRange.stepAxes h
  · exact h.stepChain
  · exact h.nodeCheck
  · exact h.axisPeriod
  · exact h.append
  · exact h.takeSymbol
  · exact h.goLocked
  · exact h.runReq
  · exact h.discardOpen
  · exact h.abandonAnswer

theorem partEvent {p : Part} (h : HeldInRange s) : HeldInRange (partEvent p s) := by
  unfold Machine.partEvent
  dsimp only
  split
  · exact h.settle.runPart
  · exact h.settle.runPart.afterEvent

theorem anyOrder {ps : List Part} (h : HeldInRange s) : HeldInRange (anyOrder ps s) :=
  foldl_keeps _ _ (fun _ _ _ hu => hu.partEvent) _ h.arrange

theorem stepMade (h : HeldInRange s) : HeldInRange (stepMade s) :=
  ⟨h.cue, h.clock, ⟨h.link.1, h.link.2.1, by simp [Machine.stepMade, Machine.setLink], h.link.2.2.2⟩, h.xfer, h.chain,
    h.lamp, h.tables, h.axes⟩

theorem sceneStep {ps : List Part} (h : HeldInRange s) : HeldInRange (sceneStep ps s) := h.stepMade.anyOrder

/-! ## The Link Port -/

theorem flushPeriod (h : HeldInRange s) : HeldInRange (flushPeriod s) := by
  unfold Machine.flushPeriod
  split
  · exact h.partEvent
  · exact h

theorem axisFramePeriod (h : HeldInRange s) : HeldInRange (axisFramePeriod s) := by
  unfold Machine.axisFramePeriod
  dsimp only
  split
  · exact h.draw.partEvent
  · have hd := h.draw
    exact ⟨hd.cue, hd.clock, hd.link, hd.xfer, hd.chain, hd.lamp, hd.tables, hd.axes⟩

theorem turnPulses (h : HeldInRange s) : HeldInRange (turnPulses s) := by
  refine ⟨h.cue, h.clock, h.link, h.xfer, h.chain, h.lamp, h.tables, fun a => ?_⟩
  show AxisInRange s.tables.axes[a] (tab fun b => nextPulses s.axes[b])[a]
  rw [tab_get]
  exact (h.axes a).of rfl (h.axes a).2.1 (h.axes a).2.2.1 (h.axes a).2.2.2.1

theorem beginPeriod (h : HeldInRange s) : HeldInRange (beginPeriod s) := by
  have h1 := h.flushPeriod.turnPulses.answerDone
  have h2 : HeldInRange (freshTakes (Machine.answerDone (Machine.turnPulses (Machine.flushPeriod s)))) :=
    h1.setCue ⟨h1.cue.1, h1.cue.2.1, by simp⟩
  refine HeldInRange.axisFramePeriod (HeldInRange.placeOwn (h2.setLink ?_))
  refine ⟨h1.link.1, h1.link.2.1, ?_, ?_, h1.link.2.2.2.2⟩
  · dsimp only [periodLink, gapsRise]
    omega
  · dsimp only [periodLink, gapsRise]
    omega

theorem frameParts {bs : List Byte} (h : HeldInRange s) : HeldInRange (frameParts bs s) := by
  have hl : HeldInRange (takeLines bs s) := h.setLink h.link
  have hm : HeldInRange (Machine.setLink (afterMark (takeLines bs s).link) (takeLines bs s)) := by
    refine hl.setLink ?_
    have h5 := hl.link.2.2.2.2
    unfold afterMark
    split
    · exact hl.link
    iterate 2
      · refine ⟨hl.link.1, hl.link.2.1, hl.link.2.2.1, by simp, ?_⟩
        dsimp only
        repeat' split
        all_goals omega
  unfold Machine.frameParts
  dsimp only
  split
  · split
    · exact hm.sceneStep
    · exact hm.anyOrder
  · exact hl.anyOrder

theorem validFrame {bs : List Byte} (h : HeldInRange s) : HeldInRange (validFrame bs s) := by
  unfold Machine.validFrame
  dsimp only
  split
  · exact HeldInRange.forward h.frameParts.markOwn
  · exact h.frameParts.forward

theorem arrive6 {bs : List Byte} (h : HeldInRange s) : HeldInRange (arrive6 bs s) := by
  unfold Machine.arrive6
  split
  · exact HeldInRange.forward h.countDamaged.discardOpen
  · exact h.discardOpen.forward
  · exact h.discardOpen.forward
  · exact h.validFrame

theorem passReturn {bs : List Byte} (h : HeldInRange s) : HeldInRange (passReturn bs s) := by
  unfold Machine.passReturn
  split
  · exact h
  · exact h.setLink h.link

theorem arrive3 {bs : List Byte} (h : HeldInRange s) : HeldInRange (arrive3 bs s) := by
  unfold Machine.arrive3
  dsimp only
  split
  · split
    · refine HeldInRange.placeOwn ?_
      split
      · exact h
      · exact h.latch
    · exact h.passReturn
  · split
    · exact h.countDamaged.placeOwn
    · exact h.countDamaged.passReturn

theorem fallback (h : HeldInRange s) : HeldInRange (fallback s) := by
  unfold Machine.fallback
  split
  · exact h
  iterate 2
    · split
      · exact h.sceneStep.markOwn
      · exact h

theorem loseLink (h : HeldInRange s) : HeldInRange (loseLink s) := by
  unfold Machine.loseLink
  split
  · exact HeldInRange.sceneStep (HeldInRange.latch
      (h.setLink ⟨h.link.1, h.link.2.1, h.link.2.2.1, h.link.2.2.2.1, by simp⟩))
  · exact h

end HeldInRange

/-- Every owed request is taken at the end of a command. -/
theorem finish_owed (s : State) : (finish s).owed = [] := by
  have key : ∀ rs u, (takeReqs [] rs u).owed = [] := by
    intro rs
    induction rs with
    | nil => exact fun _ => rfl
    | cons r rs ih => exact fun u => ih _
  exact key _ _

end Sys2Proof.Machine
end

