-- ==== Sys2Proof/Laws/Fixed.lean ====
section
/-! SUPPORT. What the blocks do not touch: no block but the Link Port changes the link, nothing but a write and a reset changes
the tables, and no command changes the queue of waiting commands. -/

namespace Sys2Proof.Machine

/-- `s` has the waiting commands, the tables and the link of `z`. -/
def Fixed (z s : State) : Prop := s.pending = z.pending ∧ s.tables = z.tables ∧ s.link = z.link

theorem fixed_refl (z : State) : Fixed z z := ⟨rfl, rfl, rfl⟩

/-- The three units touch none of it. -/
theorem closed_fixed (z : State) : Closed (Fixed z) (fun _ _ => True) where
  motion := motion_free
  now _ _ _ := trivial
  sec _ _ _ h := h
  pt _ _ _ h := h
  train _ _ _ h := h
  axis _ _ _ h _ := h
  note _ _ _ h := h
  cue c src s h := by
    unfold appendCue
    repeat' split
    all_goals exact h
  choose _ _ _ h := h
  trains _ _ h := h
  axes _ _ h _ := h

namespace Fixed

variable {z s : State}

theorem latch {k : NoticeKind} {d : Detail} (h : Fixed z s) : Fixed z (latch k d s) := h

theorem append {c : Nat} {src : Source} (h : Fixed z s) : Fixed z (appendCue c src s) := (closed_fixed z).cue _ _ _ h

theorem draw (h : Fixed z s) : Fixed z (draw s).2 := (closed_fixed z).draw h

theorem arrange {α : Type} {xs : List α} (h : Fixed z s) : Fixed z (arrange xs s).2 := (closed_fixed z).arrange h

theorem handOn {rs : List Req} (h : Fixed z s) : Fixed z (handOn rs s) := by
  have ha : Fixed z (Machine.arrange rs s).2 := h.arrange
  exact ha

theorem setPlayer {p : PlayerId} {x : Player} (h : Fixed z s) : Fixed z (setPlayer p x s) := h

theorem wake {src : WakeSource} (h : Fixed z s) : Fixed z (wake src s) := by
  have hn : Fixed z (Machine.latch .wake (.wake src) { s with node := .active }) := h
  unfold Machine.wake
  split
  · exact h
  · exact hn.handOn
  · exact hn.handOn

/-! ## Clock and players -/

theorem fireAlarm {i : AlarmId} (h : Fixed z s) : Fixed z (fireAlarm i s) := by
  unfold Machine.fireAlarm
  dsimp only
  split
  · exact h.wake.append
  · exact h.append

theorem applyPending (h : Fixed z s) : Fixed z (applyPendingSet s) := by
  unfold applyPendingSet
  split <;> exact h

theorem stepClock (h : Fixed z s) : Fixed z (stepClock s) := by
  unfold Machine.stepClock
  split
  · exact h.applyPending
  · split
    · have hc : Fixed z (setClock (advanced s.clock) s) := h
      exact foldl_keeps _ _ (fun _ _ _ hu => Fixed.fireAlarm hu) _ hc
    · exact h

theorem listStart {p : PlayerId} (h : Fixed z s) : Fixed z (listStart p s).2 := by
  unfold Machine.listStart
  dsimp only
  split <;> exact h

theorem fireEnd {p : PlayerId} (h : Fixed z s) : Fixed z (fireEnd p s).2 := by
  unfold Machine.fireEnd
  dsimp only
  split
  · exact Fixed.setPlayer h.append
  iterate 2 exact Fixed.latch (Fixed.append h.setPlayer)

theorem fireEntry {p : PlayerId} (h : Fixed z s) : Fixed z (fireEntry p s).2.2 := by
  unfold Machine.fireEntry
  dsimp only
  split
  · exact h.fireEnd
  · split
    · exact Fixed.setPlayer h.append
    · exact Fixed.fireEnd h.append

theorem fireEntries {n m : Nat} {p : PlayerId} (h : Fixed z s) : Fixed z (fireEntries n m p s) := by
  induction n generalizing m s with
  | zero => exact h
  | succ n ih =>
    unfold Machine.fireEntries
    dsimp only
    split
    · split
      · exact h.fireEntry.setPlayer
      · exact ih h.fireEntry
    · exact h.fireEntry

theorem countdownEnds {p : PlayerId} (h : Fixed z s) : Fixed z (countdownEnds p s) := by
  unfold Machine.countdownEnds
  dsimp only
  split
  · split
    · exact Fixed.fireEntries h.setPlayer
    · exact h
  all_goals exact h

theorem stepPlayer {p : PlayerId} (h : Fixed z s) : Fixed z (stepPlayer p s) := by
  unfold Machine.stepPlayer
  dsimp only
  split
  · split
    · exact h.countdownEnds
    · exact h.setPlayer
  all_goals exact h

theorem stepLists (h : Fixed z s) : Fixed z (stepLists s) :=
  foldl_keeps _ _ (fun _ _ _ hu => Fixed.stepPlayer hu) _ h

/-! ## Node Control -/

theorem nodeCheck (h : Fixed z s) : Fixed z (nodeCheck s) := by
  unfold Machine.nodeCheck
  split
  · split
    · exact h
    · split <;> exact h
  · exact h

theorem dueCheck (h : Fixed z s) : Fixed z (dueCheck s) := by
  unfold Machine.dueCheck
  split
  · exact Fixed.nodeCheck (s := { s with checkDue := false }) h
  · exact h

theorem afterEvent {u : State} (h : Fixed z s) : Fixed z (afterEvent u s) := by
  unfold Machine.afterEvent
  split
  · exact h.nodeCheck
  · exact h

theorem runReq {r : Req} (h : Fixed z s) : Fixed z (runReq r s) := by
  cases r
  · rename_i b
    cases b <;> exact h
  · exact h
  · exact (closed_fixed z).restTrains h
  · exact (closed_fixed z).restAxes h
  · exact h
  · exact h
  · exact (closed_fixed z).wakeAxes h
  · exact (closed_fixed z).haltAll h
  · exact (closed_fixed z).allStopAxes h
  · exact (closed_fixed z).haltAll h
  · exact (closed_fixed z).chainFaultAxes h
  · exact (closed_fixed z).haltAll h
  · exact (closed_fixed z).linkLostAxes h

theorem reqEvent {r : Req} (h : Fixed z s) : Fixed z (reqEvent r s) := by
  exact h.runReq.afterEvent.dueCheck

theorem takeReqs {left rs : List Req} (h : Fixed z s) : Fixed z (takeReqs left rs s) := by
  induction rs generalizing s with
  | nil => exact h
  | cons r rs ih =>
    have ho : Fixed z { s with owed := rs ++ left } := h
    exact ih ho.reqEvent

theorem settle (h : Fixed z s) : Fixed z (settle s) := by
  unfold Machine.settle
  split
  · exact h
  · exact h.draw.takeReqs

theorem finish (h : Fixed z s) : Fixed z (finish s) := h.takeReqs

theorem beginDormant (h : Fixed z s) : Fixed z (beginDormant s) := by
  have hn : Fixed z { s with node := .quiescing, checkDue := false } := h
  exact hn.handOn (rs := _)

theorem dormantRequest (h : Fixed z s) : Fixed z (dormantRequest s).2 := by
  unfold Machine.dormantRequest
  split
  · exact h
  · split
    · exact h.beginDormant
    all_goals exact h

/-! ## Actions -/

theorem axisAction {a : AxisId} {o : AxisOrder} (h : Fixed z s) : Fixed z (axisOrder a o s).2 :=
  (closed_fixed z).axisOrder h

theorem whenInUse {b : Bool} {k : Option Reason × State} (h : Fixed z s) (hk : Fixed z k.2) :
    Fixed z (whenInUse b s k).2 := by
  unfold Machine.whenInUse
  split
  · exact hk
  · exact h

theorem whenAwake {k : Option Reason × State} (h : Fixed z s) (hk : Fixed z k.2) : Fixed z (whenAwake s k).2 := by
  unfold Machine.whenAwake
  split
  · exact h
  · exact hk

theorem runAction {code : Nat} {act : Action} (h : Fixed z s) : Fixed z (runAction code act s).2 := by
  cases act with
  | lampRelease c =>
    cases c with
    | none => exact h
    | some c => exact h.whenInUse h
  | axisRun a c =>
    refine h.whenInUse ?_
    split
    · exact h.axisAction
    · exact h.whenAwake h.axisAction
  | lampSet c l u => exact h.whenInUse h
  | none => exact h
  | groupSet g l u => exact h
  | flagSet f => exact h
  | flagClear f => exact h
  | flagPulse f n => exact h
  | listStart p => exact h.whenAwake h.listStart
  | listStop p => exact h.setPlayer
  | trainPlace t i => exact h.whenInUse ((closed_fixed z).trainPlace h)
  | trainRun t => exact h.whenInUse (h.whenAwake ((closed_fixed z).trainRun h))
  | trainStop t => exact h.whenInUse ((closed_fixed z).trainStop h)
  | trainClear t => exact h.whenInUse ((closed_fixed z).trainClear h)
  | trainCruise t v => exact h.whenInUse ((closed_fixed z).trainCruise h)
  | pointThrow p q => exact h.whenInUse ((closed_fixed z).pointThrow h)
  | axisHome a => exact h.whenInUse (h.whenAwake h.axisAction)
  | axisSeek a p => exact h.whenInUse (h.whenAwake h.axisAction)
  | axisPark a => exact h.whenInUse (h.whenAwake h.axisAction)
  | axisStop a => exact h.whenInUse h.axisAction
  | axisFollow a => exact h.whenInUse (h.whenAwake h.axisAction)
  | clockHold => exact h
  | clockResume => exact h
  | clockRate r => exact h
  | clockSet hr mn => exact h
  | nodeDormant => exact h.dormantRequest
  | nodeWake => exact h.wake
  | allStop => exact h.handOn
  | cue c => exact h.append

theorem runOne {code pos : Nat} {act : Action} (h : Fixed z s) : Fixed z (runOne code pos act s).2 := by
  have hr := Fixed.runAction (code := code) (act := act) h.settle
  unfold Machine.runOne
  dsimp only
  split
  · exact hr.afterEvent
  · exact Fixed.afterEvent hr.latch

theorem runList {code pos : Nat} {acts : List Action} (h : Fixed z s) : Fixed z (runList code pos acts s).2 := by
  induction acts generalizing pos s with
  | nil => exact h
  | cons a acts ih =>
    have h1 := Fixed.runOne (code := code) (pos := pos) (act := a) h
    have h2 := ih (pos := pos + 1) h1
    unfold Machine.runList
    dsimp only
    split
    · exact h2
    · exact h2

theorem takeCue (h : Fixed z s) : Fixed z (takeCue s) := by
  unfold Machine.takeCue
  split
  · exact h
  · rename_i c rest hq
    split
    · have hu : Fixed z { s with cue := { s.cue with queue := rest, takes := s.cue.takes + 1 } } := h
      unfold handleCue
      split
      · exact hu.runList
      · exact hu.runList
      · exact hu.wake.runList
      · exact hu.wake.runList
      · exact hu
    · exact h

/-! ## The Chain Unit -/

theorem stepChain (h : Fixed z s) : Fixed z (stepChain s) := by
  unfold Machine.stepChain startCycle
  dsimp only
  repeat' split
  all_goals exact h

theorem fireWatch {w : WatchId} (h : Fixed z s) : Fixed z (fireWatch w s) := by
  unfold Machine.fireWatch
  dsimp only
  split
  · exact h.wake.append
  · exact h.append

theorem evalWatch {v : BitVec 64} {w : WatchId} (h : Fixed z s) : Fixed z (evalWatch v w s) := by
  unfold Machine.evalWatch
  dsimp only
  split
  · split
    · exact Fixed.fireWatch h
    · exact h
  · exact h

theorem handOff {x : HandOff} (h : Fixed z s) : Fixed z (handOff x s) := by
  cases x
  · exact (closed_fixed z).detectorEvent h
  · exact (closed_fixed z).cabFaultEvent h
  · exact (closed_fixed z).axisInputEvent h
  · exact foldl_keeps _ _ (fun _ _ _ hu => Fixed.evalWatch hu) _ h
  · exact h.nodeCheck

theorem handOffs {xs : List HandOff} (h : Fixed z s) : Fixed z (handOffs xs s) := by
  refine foldl_keeps _ _ (fun u x _ hu => ?_) _ h
  exact Fixed.afterEvent (Fixed.handOff (Fixed.settle hu))

theorem chainTurns {c : ChainState} (h : Fixed z s) : Fixed z (chainTurns c s) := by
  have hl : Fixed z (Machine.latch .chain (.chain (c == .fault)) { s with chain := { s.chain with state := c } }) := h
  unfold Machine.chainTurns
  split
  · exact h
  · dsimp only
    split
    · exact hl.handOn
    · exact hl

theorem completeCycle {ret : Byte} {inputs : BitVec 64} (h : Fixed z s) : Fixed z (completeCycle ret inputs s) := by
  unfold Machine.completeCycle
  split
  · exact h
  · exact h
  · rename_i cyc _ _
    have hc : Fixed z { s with chain := completed (ret == marker) cyc inputs s.chain } := h
    have ht := Fixed.chainTurns (c := nextChainState (ret == marker) (completed (ret == marker) cyc inputs s.chain)) hc
    dsimp only
    split
    · have hd : Fixed z (debouncePass (Machine.chainTurns (nextChainState (ret == marker)
        (completed (ret == marker) cyc inputs s.chain)) { s with chain := completed (ret == marker) cyc inputs s.chain })) :=
        ht
      exact hd.arrange.handOffs
    · exact ht.settle.nodeCheck

/-! ## The Transfer Unit -/

theorem joinReply {r : Reply} (h : Fixed z s) : Fixed z (joinReply r s) := by
  unfold Machine.joinReply
  split <;> exact h

theorem outcome {via : Opened} {k : Byte} {r : Result} {d : List Byte} (h : Fixed z s) :
    Fixed z (outcome via k r d s) := by
  unfold Machine.outcome
  split
  · exact h.joinReply
  · split <;> exact h

theorem discardOpen {r : Result} (h : Fixed z s) : Fixed z (discardOpen r s) := by
  have hc : Fixed z (closeUnit s) := h
  unfold Machine.discardOpen
  split
  · exact h
  · exact hc.outcome

theorem conclude {via : Opened} {k : Byte} {c : Commit} (h : Fixed z c.2.2) : Fixed z (conclude via k c) := h.outcome

theorem unlessBroadcast {via : Opened} {c : Commit} (h : Fixed z s) (hc : Fixed z c.2.2) :
    Fixed z (unlessBroadcast via s c).2.2 := by
  cases via
  · exact hc
  · exact h

theorem readTransfer {via : Opened} {t f c : Nat} (h : Fixed z s) : Fixed z (readTransfer via t f c s) := by
  refine Fixed.conclude (h.unlessBroadcast ?_)
  unfold commitRead
  repeat' split
  all_goals exact h

theorem viewTransfer {via : Opened} {v i : Byte} (h : Fixed z s) : Fixed z (viewTransfer via v i s) := by
  refine Fixed.conclude (h.unlessBroadcast ?_)
  unfold commitView
  split <;> exact h

theorem clockTransfer {via : Opened} {ms day rate : Nat} {rh : Byte} (h : Fixed z s) :
    Fixed z (clockTransfer via ms day rate rh s) := Fixed.conclude (c := plain .ok _) h

theorem codeTransfer {via : Opened} {c : Nat} (h : Fixed z s) : Fixed z (codeTransfer via c s) := by
  refine Fixed.conclude ?_
  unfold commitCue
  split
  · exact h
  · exact h.append

theorem executeTransfer {via : Opened} {rs : List Byte} (h : Fixed z s) : Fixed z (executeTransfer via rs s) := by
  refine Fixed.conclude ?_
  split
  · unfold commitExecute
    dsimp only
    split
    · exact h
    · exact h.runList
  · exact h

theorem noticesTransfer {via : Opened} {m : Byte} {e c : BitVec 16} (h : Fixed z s) :
    Fixed z (noticesTransfer via m e c s) := Fixed.conclude (c := plain .ok _) h

theorem restTransfer {via : Opened} (h : Fixed z s) : Fixed z (restTransfer via s) := by
  refine Fixed.conclude ?_
  unfold commitDormant
  dsimp only
  split
  · exact h.dormantRequest
  · exact h.dormantRequest

theorem awakeTransfer {via : Opened} (h : Fixed z s) : Fixed z (awakeTransfer via s) :=
  Fixed.conclude (c := plain .ok _) h.wake

theorem haltTransfer {via : Opened} (h : Fixed z s) : Fixed z (haltTransfer via s) :=
  Fixed.conclude (c := plain .ok _) h.handOn

/-! ## The scene step -/

theorem axisPeriod (h : Fixed z s) : Fixed z (axisPeriod s) := by
  unfold Machine.axisPeriod
  dsimp only
  refine foldl_keeps _ _ (fun _ _ _ hu => (closed_fixed z).periodEvent hu) _ ?_
  refine Fixed.arrange (s := { s with axisDue := false, axes := _ }) ?_
  exact h

/-- The parts of a scene step. -/
def stepsOnly : Part → Bool
  | .clock | .lists | .flags | .lamps | .points | .trains | .axes | .chain | .node | .period | .cue _ | .req _
  | .drop _ => true
  | .symbol _ _ | .lock | .abandon => false

theorem runPart {p : Part} (hp : stepsOnly p = true) (h : Fixed z s) : Fixed z (runPart p s) := by
  cases p
  · exact h.stepClock
  · exact h.stepLists
  · exact h
  · exact h
  · exact (closed_fixed z).stepPoints h
  · exact (closed_fixed z).stepTrains h
  · exact (closed_fixed z).stepAxes h
  · exact h.stepChain
  · exact h.nodeCheck
  · exact h.axisPeriod
  · exact h.append
  · cases hp
  · cases hp
  · exact h.runReq
  · exact h.discardOpen
  · cases hp

theorem partEvent {p : Part} (hp : stepsOnly p = true) (h : Fixed z s) : Fixed z (partEvent p s) := by
  unfold Machine.partEvent
  dsimp only
  split
  · exact h.settle.runPart hp
  · exact (h.settle.runPart hp).afterEvent

theorem anyOrder {ps : List Part} (hp : ∀ p ∈ ps, stepsOnly p = true) (h : Fixed z s) : Fixed z (anyOrder ps s) :=
  foldl_keeps _ _ (fun _ _ hx hu => Fixed.partEvent (hp _ (mem_arrange.1 hx)) hu) _ h.arrange

end Fixed

end Sys2Proof.Machine
end

