-- ==== Sys2Proof/Laws/Timing.lean ====
section
/-! SUPPORT. Which parts of a frame or a scene step touch the link's state, counts and lines: only the lock. -/

namespace Sys2Proof.Machine

/-- The link without its address, talk state and return port. -/
def timing (l : Link) : Link := { l with address := 0, talk := none, retOut := none, retOwn := false }

/-- `s` has the waiting commands and the link timing of `z`. -/
def Timed (z s : State) : Prop := s.pending = z.pending ∧ timing s.link = timing z.link

theorem timed_refl (z : State) : Timed z z := ⟨rfl, rfl⟩

/-- What leaves commands, tables and link leaves these. -/
theorem Fixed.timed {z y s : State} (h : Timed z y) (f : Fixed y s) : Timed z s :=
  ⟨f.1.trans h.1, (congrArg timing f.2.2).trans h.2⟩

namespace Timed

variable {z s : State}

theorem outcome {via : Opened} {k : Byte} {r : Result} {d : List Byte} (h : Timed z s) :
    Timed z (outcome via k r d s) := (Fixed.outcome (fixed_refl s)).timed h

theorem conclude {via : Opened} {k : Byte} {c : Commit} (h : Timed z c.2.2) : Timed z (conclude via k c) := h.outcome

theorem storeRecords {table first : Nat} {recs : List (List Byte)} {u : State} (h : Timed z s)
    (hs : storeRecords table first recs s = .ok u) : Timed z u := by
  unfold Machine.storeRecords at hs
  dsimp only at hs
  split at hs
  · split at hs
    · obtain rfl := Except.ok.inj hs
      exact h
    · cases hs
  iterate 7
    · obtain ⟨v, hv, -⟩ := store_ok hs
      rw [hv]
      exact h
  · split at hs
    · cases hs
    · rename_i u' hu
      split at hs
      · cases hs
      · obtain rfl := Except.ok.inj hs
        obtain ⟨v, hv, -⟩ := store_ok hu
        rw [hv]
        exact h
  · obtain ⟨v, hv, -⟩ := store_ok hs
    rw [hv]
    exact h
  · obtain ⟨v, hv, -⟩ := store_ok hs
    rw [hv]
    have hu : Timed z { s with tables := { s.tables with points := v } } := h
    refine Fixed.timed hu ?_
    unfold pointsCommitted
    exact (closed_fixed _).reevaluate (fixed_refl _)
  iterate 4
    · obtain ⟨v, hv, -⟩ := store_ok hs
      rw [hv]
      exact h
  · obtain rfl := Except.ok.inj hs
    exact h

theorem writeTransfer {via : Opened} {t f c : Nat} {rs : List Byte} (h : Timed z s) :
    Timed z (writeTransfer via t f c rs s) := by
  unfold Machine.writeTransfer
  split
  · refine Timed.conclude ?_
    unfold commitWrite
    split
    · exact h
    · split
      · exact h
      · split
        · exact h
        · split
          · exact h
          · rename_i hu
            exact h.storeRecords hu
  · exact Timed.conclude h

theorem resetTransfer {via : Opened} (h : Timed z s) : Timed z (resetTransfer via s) := by
  refine Timed.conclude (c := plain .ok _) ?_
  exact h

theorem commitBody {via : Opened} {body : List Byte} (h : Timed z s) : Timed z (commitBody via body s) := by
  have hf := fixed_refl s
  unfold Machine.commitBody
  split
  · split
    · exact Timed.conclude h
    · exact h.writeTransfer
  · exact hf.readTransfer.timed h
  · exact hf.viewTransfer.timed h
  · exact hf.clockTransfer.timed h
  · exact hf.codeTransfer.timed h
  · exact hf.executeTransfer.timed h
  · exact hf.noticesTransfer.timed h
  · exact hf.restTransfer.timed h
  · exact hf.awakeTransfer.timed h
  · exact hf.haltTransfer.timed h
  · exact h.resetTransfer

theorem judge {via : Opened} {bytes : List Byte} (h : Timed z s) : Timed z (judge via bytes s) := by
  unfold Machine.judge
  dsimp only
  split
  · exact h.outcome
  · split
    · exact h.outcome
    · split
      · exact h.outcome
      · split
        · exact h.outcome
        · exact h.commitBody

theorem takeSymbol {t v : Byte} (h : Timed z s) : Timed z (takeSymbol t v s) := by
  have hf := fixed_refl s
  unfold Machine.takeSymbol
  split
  · have hd := Fixed.discardOpen (r := .interrupted) hf
    refine Fixed.timed h ?_
    unfold takeOpen
    dsimp only
    repeat' split
    all_goals exact hd
  · refine Fixed.timed h ?_
    unfold takeByte
    split
    · exact hf
    · split
      · exact hf
      · exact hf.discardOpen
  · unfold takeClose
    split
    · exact h
    · exact Timed.judge (s := closeUnit s) h
  · unfold takeGrant
    split
    · unfold giveAnswer
      split
      · exact h
      · split
        · exact h
        · exact h
    · exact h
  · exact h
  · exact h

theorem abandonAnswer (h : Timed z s) : Timed z (abandonAnswer s) := by
  unfold Machine.abandonAnswer
  split
  · rename_i k _ _ _
    unfold reportAbandoned
    cases k <;> exact h
  · rename_i k _
    unfold answerDone
    split
    · rename_i k' _
      unfold reportSent
      cases k' <;> exact h
    · exact h
    · exact h
  · exact h

/-- Every part but the lock. -/
theorem runPart {p : Part} (hp : p ≠ .lock) (h : Timed z s) : Timed z (runPart p s) := by
  cases p
  case symbol => exact h.takeSymbol
  case lock => exact absurd rfl hp
  case abandon => exact h.abandonAnswer
  all_goals exact Fixed.timed h ((fixed_refl s).runPart rfl)

theorem partEvent {p : Part} (hp : p ≠ .lock) (h : Timed z s) : Timed z (partEvent p s) := by
  have hs := (fixed_refl s).settle.timed h
  unfold Machine.partEvent
  dsimp only
  split
  · exact hs.runPart hp
  · exact (fixed_refl _).afterEvent.timed (hs.runPart hp)

theorem anyOrder {ps : List Part} (hp : ∀ p ∈ ps, p ≠ .lock) (h : Timed z s) : Timed z (anyOrder ps s) :=
  foldl_keeps _ _ (fun _ _ hx hu => Timed.partEvent (hp _ (mem_arrange.1 hx)) hu) _ ((fixed_refl s).arrange.timed h)

end Timed

/-! ## The lock -/

/-- Links of one timing have one timing still when both are LOCKED with the lock run 0. -/
theorem timing_locked {l m : Link} (h : timing l = timing m) :
    timing { l with state := .locked, lockRun := 0 } = timing { m with state := .locked, lockRun := 0 } :=
  congrArg (fun x : Link => { x with state := .locked, lockRun := 0 }) h

/-- The lock changes the link state to LOCKED and the lock run to 0, and nothing else of the timing. -/
theorem timed_lock {s : State} : Timed { s with link := { s.link with state := .locked, lockRun := 0 } } (partEvent .lock s) := by
  have hs := (fixed_refl s).settle.timed (timed_refl s)
  unfold partEvent
  dsimp only
  refine Fixed.timed ?_ (fixed_refl _).afterEvent
  obtain ⟨hp, ht⟩ := hs
  refine ⟨hp, ?_⟩
  exact timing_locked ht

/-- The parts of a frame taken in any order with the lock among them, once or more, leave the link LOCKED with the lock run 0. -/
theorem timed_locks {ps : List Part} (hl : .lock ∈ ps) (s : State) :
    Timed { s with link := { s.link with state := .locked, lockRun := 0 } } (anyOrder ps s) := by
  have key : ∀ (qs : List Part) (u : State),
      (Timed s u → .lock ∈ qs → Timed { s with link := { s.link with state := .locked, lockRun := 0 } } (runParts qs u)) ∧
      (Timed { s with link := { s.link with state := .locked, lockRun := 0 } } u →
        Timed { s with link := { s.link with state := .locked, lockRun := 0 } } (runParts qs u)) := by
    intro qs
    induction qs with
    | nil => exact fun u => ⟨fun _ h => by simp at h, fun h => h⟩
    | cons q qs ih =>
      intro u
      have step1 : Timed { s with link := { s.link with state := .locked, lockRun := 0 } } u →
          Timed { s with link := { s.link with state := .locked, lockRun := 0 } } (partEvent q u) := by
        intro h
        by_cases hq : q = .lock
        · subst hq
          have ht := timed_lock (s := u)
          exact ⟨ht.1.trans h.1, ht.2.trans (timing_locked (m := { s.link with state := .locked, lockRun := 0 }) h.2)⟩
        · exact h.partEvent hq
      refine ⟨fun h hm => ?_, fun h => (ih _).2 (step1 h)⟩
      by_cases hq : q = .lock
      · subst hq
        refine (ih _).2 ?_
        have ht := timed_lock (s := u)
        exact ⟨ht.1.trans h.1, ht.2.trans (timing_locked h.2)⟩
      · exact (ih _).1 (h.partEvent hq) (by
          rcases List.mem_cons.1 hm with e | e
          · exact absurd e.symm hq
          · exact e)
  unfold anyOrder
  dsimp only
  exact (key _ _).1 ((fixed_refl s).arrange.timed (timed_refl s)) (mem_arrange.2 hl)

end Sys2Proof.Machine
end

