-- ==== Sys2Proof/Laws/Commands.lean ====
section
/-! SUPPORT. The shared operations of a command, said once: what ends a command, one part taken alone, an outcome, a cue's
arrival, a discard, and the classes and symbols of a frame written as its bytes. -/

namespace Sys2Proof.Machine

/-! ## The end of a command -/

/-- With nothing owed a command ends as it stands. -/
theorem finish_of_nothing_owed {s : State} (h : s.owed = []) : finish s = s := by
  cases s
  simp_all [finish, takeReqs]

/-- With nothing owed nothing is taken between two events. -/
theorem settle_of_nothing_owed {s : State} (h : s.owed = []) : settle s = s := by simp [settle, h]

/-- No part, no change. -/
@[simp] theorem anyOrder_nil (s : State) : anyOrder [] s = s := by simp [anyOrder, arrange, runParts]

/-- One part is taken alone, and nothing is drawn. -/
@[simp] theorem anyOrder_one (p : Part) (s : State) : anyOrder [p] s = partEvent p s := by
  simp [anyOrder, arrange, runParts]

/-- An event that ends no condition of the completion check is followed by none (R171). -/
theorem afterEvent_of_same {s t : State} (ht : t.trains = s.trains) (ha : t.axes = s.axes)
    (hc : t.chain.inFlight = s.chain.inFlight) : afterEvent s t = t := by
  have h : endedOne s t = false := by
    simp only [endedOne, rollingTrains, movingAxes, ht, ha, hc]
    cases s.chain.inFlight <;> simp
  simp [afterEvent, h]

/-- A symbol with nothing owed is handed to its block. -/
theorem partEvent_symbol {s : State} (h : s.owed = []) (type value : Byte) :
    partEvent (.symbol type value) s = takeSymbol type value s := by
  simp [partEvent, checksItself, settle_of_nothing_owed h, runPart]

/-- A cue of a frame with nothing owed joins the queue. -/
theorem partEvent_cue {s : State} (h : s.owed = []) (code : Nat) :
    partEvent (.cue code) s = appendCue code .link s := by
  simp only [partEvent, checksItself, settle_of_nothing_owed h, runPart, Bool.false_eq_true, if_false]
  apply afterEvent_of_same <;> simp only [appendCue, latch] <;> split <;> try split
  all_goals rfl

/-! ## Cues and notices -/

/-- Code 0 is no cue (R2). -/
@[simp] theorem appendCue_zero (source : Source) (s : State) : appendCue 0 source s = s := by simp [appendCue]

/-- A cue joins a queue with room (R2). -/
theorem appendCue_of_room {code : Nat} {s : State} (hc : code ≠ 0) (h : s.cue.queue.length < 32) (source : Source) :
    appendCue code source s = { s with cue := { s.cue with queue := s.cue.queue ++ [⟨code, source⟩] } } := by
  simp [appendCue, hc, maxCues, h]

/-- A full queue drops the cue (R3). -/
theorem appendCue_of_full {code : Nat} {s : State} (hc : code ≠ 0) (h : 32 ≤ s.cue.queue.length) (source : Source) :
    appendCue code source s = latch .cueOverrun (.cue code source) s := by
  have : ¬ s.cue.queue.length < 32 := by omega
  simp [appendCue, hc, maxCues, this]

/-! ## Outcomes and discards -/

/-- An outcome owes nothing. -/
@[simp] theorem outcome_owed (via : Opened) (kind : Byte) (r : Result) (d : List Byte) (s : State) :
    (outcome via kind r d s).owed = s.owed := by
  unfold outcome joinReply latch setXfer
  split <;> split <;> rfl

/-- An outcome leaves the link. -/
@[simp] theorem outcome_link (via : Opened) (kind : Byte) (r : Result) (d : List Byte) (s : State) :
    (outcome via kind r d s).link = s.link := by
  unfold outcome joinReply latch setXfer
  split <;> split <;> rfl

/-- An outcome and a change of the link do not meet. -/
theorem outcome_setLink (via : Opened) (kind : Byte) (r : Result) (d : List Byte) (l : Link) (s : State) :
    outcome via kind r d (setLink l s) = setLink l (outcome via kind r d s) := by
  unfold outcome joinReply latch setXfer setLink
  split <;> split <;> rfl

/-- Nothing is discarded while the unit is closed (R153). -/
theorem discardOpen_of_closed {s : State} (h : s.xfer.opened = none) (r : Result) : discardOpen r s = s := by
  simp [discardOpen, h]

/-- An open transfer is discarded with its outcome (R153). -/
theorem discardOpen_of_open {s : State} {via : Opened} (h : s.xfer.opened = some via) (r : Result) :
    discardOpen r s = outcome via (s.xfer.buf.head?.getD 0) r [] (closeUnit s) := by
  simp [discardOpen, h]

/-! ## Frames -/

/-- A frame of five bytes with their check matches (R139). -/
@[simp] theorem checkMatches_withCheck (f c l y v : Byte) : checkMatches (withCheck [f, c, l, y, v]) = true := by
  simp [checkMatches, withCheck]

/-- A frame that is no six bytes with their check is failed (R139). -/
theorem classify_failed {bs : List Byte} (h : ¬ (bs.length = 6 ∧ crc (bs.take 5) = bs.getD 5 0)) :
    classify bs = .failed := by
  have hm : checkMatches bs = false := by
    simp only [checkMatches, Bool.and_eq_false_iff, beq_eq_false_iff_ne]
    by_cases hl : bs.length = 6
    · exact Or.inr (fun he => h ⟨hl, he⟩)
    · exact Or.inl hl
  simp [classify, hm]

/-- A frame with both flags clear is valid (R139). -/
theorem classify_valid {f : Byte} (h1 : f.getLsbD 1 = false) (h2 : f.getLsbD 2 = false) (c l y v : Byte) :
    classify (withCheck [f, c, l, y, v]) = .valid := by
  simp only [classify, checkMatches_withCheck, if_true]
  simp only [withCheck, List.cons_append, List.getD_cons_zero, h1, h2, Bool.false_eq_true, if_false]

/-- The step mark is bit 0 of the flags (Table 11-1). -/
@[simp] theorem hasMark_withCheck (f c l y v : Byte) : hasMark (withCheck [f, c, l, y, v]) = f.getLsbD 0 := rfl

/-- A frame whose symbol is IDLE is forwarded as it arrived (R143). -/
theorem validForward_of_idle {y v : Byte} (h : symbolActs y v = false) (f c l : Byte) :
    validForward (withCheck [f, c, l, y, v]) = withCheck [f, c, l, y, v] := by
  have he : isEnum (withCheck [f, c, l, y, v]) = false := by
    by_cases hy : y = 5
    · subst hy
      simp only [symbolActs, BitVec.reduceToNat, decide_eq_false_iff_not] at h
      simp [isEnum, withCheck, at_, h]
    · have : (y == 5) = false := by simpa using hy
      simp only [isEnum, withCheck, List.cons_append, List.getD_cons_succ, List.getD_cons_zero, this, Bool.false_and]
  simp [validForward, he]

/-- The parts of a valid frame outside LOST: its cue unless the code is 0, and its symbol unless IDLE (R142). -/
theorem contentParts_withCheck {st : LinkState} (h : st ≠ .lost) (f c l y v : Byte) :
    contentParts st (withCheck [f, c, l, y, v]) =
      (if c.toNat = 0 then [] else [.cue c.toNat]) ++ (if symbolActs y v then [.symbol y v] else []) := by
  cases st
  · rfl
  · rfl
  · exact absurd rfl h

/-- In LOST a valid frame brings neither cue nor symbol (R142). -/
@[simp] theorem contentParts_lost (bs : List Byte) : contentParts .lost bs = [] := rfl

/-- A return frame of two bytes with their check matches (R139). -/
@[simp] theorem retMatches_withCheck (y v : Byte) : retMatches (withCheck [y, v]) = true := by
  simp [retMatches, withCheck]

end Sys2Proof.Machine
end

