-- ==== Sys2Proof/Laws/PerInstr.lean ====
section
/-! SUPPORT. One lemma per constructor of Instr for the family Carried: how many bytes of a frame, of table records or of action
records a command that the ports can bring carries (sections 9.3 and 11.1). -/

namespace Sys2Proof.Laws.Carried

/-- The bytes of variable number that a command carries. -/
def payload : Instr → List Byte
  | .downstreamFrame bytes | .returnFrame bytes => bytes
  | .writeTable _ _ _ _ records | .execute _ records => records
  | _ => []

/-- A well-formed command carries at most 253 such bytes: what fits a transfer body of 254 (R152, R156). -/
def Statement (i : Instr) : Prop := i.wellFormed = true → (payload i).length ≤ 253

/-- POWER_ON_RESET. -/
theorem powerOnReset : Statement .powerOnReset := fun _ => Nat.zero_le _

/-- PIN_RESET. -/
theorem pinReset : Statement .pinReset := fun _ => Nat.zero_le _

/-- FRAME_PERIOD. -/
theorem framePeriod : Statement .framePeriod := fun _ => Nat.zero_le _

/-- DOWNSTREAM_FRAME. -/
theorem downstreamFrame (bytes : List Byte) :
    Statement (.downstreamFrame bytes) := by
  intro h
  have hl := of_decide_eq_true h
  simp only [payload]
  omega

/-- RETURN_FRAME. -/
theorem returnFrame (bytes : List Byte) :
    Statement (.returnFrame bytes) := by
  intro h
  have hl := of_decide_eq_true h
  simp only [payload]
  omega

/-- ANSWER_SENT. -/
theorem answerSent : Statement .answerSent := fun _ => Nat.zero_le _

/-- FALLBACK_STEP. -/
theorem fallbackStep : Statement .fallbackStep := fun _ => Nat.zero_le _

/-- LINK_LOST. -/
theorem linkLost : Statement .linkLost := fun _ => Nat.zero_le _

/-- CUE_TAKE. -/
theorem cueTake : Statement .cueTake := fun _ => Nat.zero_le _

/-- WRITE_TABLE. -/
theorem writeTable (via : Opened) (table : Byte) (first : BitVec 16) (count : Byte) (records : List Byte) :
    Statement (.writeTable via table first count records) := by
  intro h
  have hl := of_decide_eq_true h
  simp only [payload]
  omega

/-- READ_TABLE. -/
theorem readTable (via : Opened) (table : Byte) (first : BitVec 16) (count : Byte) :
    Statement (.readTable via table first count) := fun _ => Nat.zero_le _

/-- READ_STATE. -/
theorem readState (via : Opened) (view index : Byte) :
    Statement (.readState via view index) := fun _ => Nat.zero_le _

/-- SET_CLOCK. -/
theorem setClock (via : Opened) (ms : BitVec 32) (day rate : BitVec 16) (runHold : Byte) :
    Statement (.setClock via ms day rate runHold) := fun _ => Nat.zero_le _

/-- CUE_TRANSFER. -/
theorem cueTransfer (via : Opened) (code : Byte) :
    Statement (.cueTransfer via code) := fun _ => Nat.zero_le _

/-- EXECUTE. -/
theorem execute (via : Opened) (records : List Byte) :
    Statement (.execute via records) := by
  intro h
  have hl := of_decide_eq_true h
  simp only [payload]
  omega

/-- NOTICES. -/
theorem notices (via : Opened) (master : Byte) (enables clear : BitVec 16) :
    Statement (.notices via master enables clear) := fun _ => Nat.zero_le _

/-- DORMANT_TRANSFER. -/
theorem dormantTransfer (via : Opened) :
    Statement (.dormantTransfer via) := fun _ => Nat.zero_le _

/-- WAKE_TRANSFER. -/
theorem wakeTransfer (via : Opened) :
    Statement (.wakeTransfer via) := fun _ => Nat.zero_le _

/-- ALL_STOP_TRANSFER. -/
theorem allStopTransfer (via : Opened) :
    Statement (.allStopTransfer via) := fun _ => Nat.zero_le _

/-- SOFT_RESET. -/
theorem softReset (via : Opened) :
    Statement (.softReset via) := fun _ => Nat.zero_le _

/-- DORMANT_COMPLETE. -/
theorem dormantComplete : Statement .dormantComplete := fun _ => Nat.zero_le _

/-- PENDING_SET_APPLY. -/
theorem pendingSetApply : Statement .pendingSetApply := fun _ => Nat.zero_le _

/-- LIST_ENTRY_FIRE. -/
theorem listEntryFire (player : PlayerId) :
    Statement (.listEntryFire player) := fun _ => Nat.zero_le _

/-- CUE_FADE_END. -/
theorem cueFadeEnd (channel : ChannelId) :
    Statement (.cueFadeEnd channel) := fun _ => Nat.zero_le _

/-- MASTER_FADE_END. -/
theorem masterFadeEnd (group : GroupId) :
    Statement (.masterFadeEnd group) := fun _ => Nat.zero_le _

/-- FLAG_PULSE_END. -/
theorem flagPulseEnd (flag : FlagId) :
    Statement (.flagPulseEnd flag) := fun _ => Nat.zero_le _

/-- COIL_END. -/
theorem coilEnd (point : PointId) :
    Statement (.coilEnd point) := fun _ => Nat.zero_le _

/-- THROW_COMPLETE. -/
theorem throwComplete (point : PointId) :
    Statement (.throwComplete point) := fun _ => Nat.zero_le _

/-- CHAIN_CYCLE_COMPLETE. -/
theorem chainCycleComplete (ret : Byte) (inputs : BitVec 64) :
    Statement (.chainCycleComplete ret inputs) := fun _ => Nat.zero_le _

/-- WATCH_HOLDOFF_END. -/
theorem watchHoldoffEnd (watch : WatchId) :
    Statement (.watchHoldoffEnd watch) := fun _ => Nat.zero_le _

/-- BRAKE_DELAY_END. -/
theorem brakeDelayEnd (train : TrainId) :
    Statement (.brakeDelayEnd train) := fun _ => Nat.zero_le _

/-- ARRIVAL_TIMEOUT. -/
theorem arrivalTimeout (train : TrainId) :
    Statement (.arrivalTimeout train) := fun _ => Nat.zero_le _

/-- HOLD_TIMER_END. -/
theorem holdTimerEnd (axis : AxisId) :
    Statement (.holdTimerEnd axis) := fun _ => Nat.zero_le _

/-- HOME_LIMIT. -/
theorem homeLimit (axis : AxisId) :
    Statement (.homeLimit axis) := fun _ => Nat.zero_le _

end Sys2Proof.Laws.Carried
end

