-- ==== Sys2Proof/Tests/Slice0.lean ====
section
/-! SUPPORT. Small tests of the model: the smoke of WellFormed, the manual's worked numbers, one step of each family, and for
every obligation with hypotheses a concrete state and operands that meet them (test_meets_<obligation>). -/

namespace Sys2Proof.Tests

open Sys2Proof.Machine

/-! ## States to test on -/

/-- The reset state with the orders drawn as the manual writes its lists (log entry 1). -/
def base : State := { State.reset with choices := List.replicate 40 0 }

/-- A link state, a step gap, a mark gap and a lock run, at address 5. -/
def linked (st : LinkState) (stepGap markGap lockRun : Nat) : State :=
  { base with link := { base.link with
      state := st, address := 5, stepGap := stepGap, markGap := markGap, lockRun := lockRun } }

/-- A node state. -/
def resting (n : NodeState) : State := { base with node := n }

/-- The Transfer Unit open, with its buffer, and its replies. -/
def staged (via : Opened) (buf : List Byte) (replies : Nat) : State :=
  { linked .locked 5 5 0 with xfer := ⟨some via, buf, List.replicate replies ⟨5, .ok, []⟩, false⟩ }

/-- The node talking. -/
def talkingNow (k : AnswerKind) (rest : List RetSymbol) : State :=
  { base with link := { base.link with talk := some ⟨k, rest⟩ } }

/-- Cues in the queue. -/
def queued (n : Nat) : State := { base with cue := { base.cue with queue := List.replicate n ⟨9, .link⟩ } }

/-- A cue map with one list for code 9 (FLAG SET 3, TRAIN RUN 2, FLAG SET 4), and code 9 in the wake set or not. -/
def listed (n : NodeState) (inWake : Bool) : State :=
  { queued 2 with
    node := n
    tables := { base.tables with
      cueMap := base.tables.cueMap.set 9 ⟨7, 3⟩
      pool := ((base.tables.pool.set 7 ⟨4, 3, 0, 0⟩).set 8 ⟨10, 2, 0, 0⟩).set 9 ⟨4, 4, 0, 0⟩
      wakeSet := if inWake then 512 else 0 } }

/-- Axis 2 in use, in a state, 10 steps short of its target 30. -/
def withAxis (x : Axis) : State :=
  { base with
    tables := { base.tables with axes := base.tables.axes.set 2 { base.tables.axes[2] with inUse := true } }
    axes := base.axes.set 2 x }

/-- An axis in a state, at position 20. -/
def axisIn (st : AxisState) : Axis := { Axis.reset with state := st, pos := 20, known := true }

/-- A point's record in use, and its runtime state. -/
def withPoint (x : Point) : State :=
  { base with
    tables := { base.tables with points := base.tables.points.set 1 ⟨true, 5, 25⟩ }
    pts := base.pts.set 1 x }

/-- Section 4 in use with point 1 as its exit point, in a state. -/
def withSection (st : SecState) : State :=
  let s := withPoint ⟨none, none, none⟩
  { s with
    tables := { s.tables with
      sections := s.tables.sections.set 4 { s.tables.sections[4] with inUse := true, exitPoint := some 1 } }
    secs := s.secs.set 4 ⟨st, false, []⟩ }

/-- Train 0 in use on a route 4, 5 with timeout 3, in a state. -/
def withTrain (x : Train) : State :=
  let s := withSection .free
  { s with
    tables := { s.tables with
      trains := s.tables.trains.set 0 { s.tables.trains[0] with
        inUse := true, timeout := 3, length := 2, route := (s.tables.trains[0].route.set 0 4).set 1 5 } }
    trains := s.trains.set 0 x }

/-- Sections 4 and 5 in use, 5 in a state, train 0 on section 4 of its route 4, 5. -/
def onTrack (x : Train) (st : SecState) (queue : List TrainId) : State :=
  let s := withTrain { x with hold := [4] }
  { s with
    tables := { s.tables with
      sections := (s.tables.sections.set 4 { s.tables.sections[4] with inUse := true, exitPoint := none }).set 5
        { s.tables.sections[5] with inUse := true } }
    secs := (s.secs.set 4 ⟨.held 0 none, true, []⟩).set 5 ⟨st, false, queue⟩ }

/-- The same with point 1 as the exit point of section 4, leading to section 5 in NORMAL. -/
def overPoint (x : Train) (st : SecState) (motion : Option Throw) : State :=
  let s := onTrack x st []
  { s with
    tables := { s.tables with
      sections := s.tables.sections.set 4
        { s.tables.sections[4] with exitPoint := some 1, nextNormal := 5, nextReverse := 6 } }
    pts := s.pts.set 1 ⟨none, motion, none⟩ }

/-- A train in a state. -/
def trainIn (st : TrainState) : Train := { Train.reset 100 with state := st }

/-- Every player in one state. -/
def playingAll (st : PlayerState) : State := { base with players := .replicate 4 ⟨st, 20, 5⟩ }

/-- A chain cycle in flight with two input registers, in a chain state. -/
def cycling (st : ChainState) (breaks goods : Nat) : State :=
  { base with chain := { base.chain with state := st, breaks := breaks, goods := goods, inFlight := some ⟨0, 2⟩ } }

/-- Lamp channel 6 in use. -/
def withLamp : State :=
  { base with tables := { base.tables with
      lamps := base.tables.lamps.set 6 { base.tables.lamps[6] with inUse := true, lo := 10, hi := 200 } } }

/-- The next state of a command. -/
def after (c : Instr) (s : State) : Option State :=
  match exec c s with
  | .next t => some t
  | .fault _ | .refused _ => none

/-! ## WellFormed refuses what no port can bring -/

theorem test_wellFormed_refuses_long_frame : (Instr.downstreamFrame (List.replicate 7 0)).wellFormed = false := by decide

theorem test_wellFormed_refuses_long_return : (Instr.returnFrame (List.replicate 4 0)).wellFormed = false := by decide

theorem test_wellFormed_refuses_long_write :
    (Instr.writeTable .own 2 0 63 (List.replicate 252 0)).wellFormed = false := by decide +kernel

theorem test_wellFormed_refuses_long_execute : (Instr.execute .own (List.replicate 254 0)).wellFormed = false := by
  decide +kernel

theorem test_wellFormed_takes_commands :
    (Instr.downstreamFrame [1, 2, 3, 0, 0, 7]).wellFormed = true ∧ (Instr.execute .own [0, 0, 0, 0]).wellFormed = true ∧
    Instr.framePeriod.wellFormed = true := by decide

/-! ## The manual's worked numbers -/

theorem test_frame_check : crc [0x00] = 0x00 ∧ crc [0x01] = 0x07 ∧ crc [0x01, 0x00] = 0x15 := by decide

theorem test_transfer_checks : checks [1, 2, 3] = (6, 10) ∧ checks [0x80, 0x80] = (1, 129) ∧ checks [0xFF] = (0, 0) := by
  decide

theorem test_cab_duty : cabDuty 60 1 = 61 ∧ cabDuty 60 255 = 255 ∧ cabDuty 60 0 = 0 := by decide

theorem test_master_stage : masterStage 1 128 = 1 ∧ masterStage 1 127 = 0 := by decide

theorem test_clock_set : clockSetPending 6 30 = ⟨23400000, none⟩ ∧ clockSetPending 99 99 = ⟨86340000, none⟩ := by decide

/-! ## One step of each family -/

theorem test_step_takes_front : step { base with pending := [.cueTake, .wakeTransfer .own] } =
    exec .cueTake { base with pending := [.wakeTransfer .own] } := rfl

theorem test_no_word_spells_a_command : decodeTableWord 8 0 = none ∧ State.reset.withFetchWord 8 0 = State.reset := ⟨rfl, rfl⟩

theorem test_reset_comes_up_active :
    (after .powerOnReset (resting .dormant)).map (·.node) = some .active := by decide +kernel

theorem test_pin_reset_keeps_window_outputs :
    (after .pinReset { base with chain := { base.chain with latched := 77 } }).map (·.chain.latched) = some 77 := by
  decide +kernel

theorem test_frame_period_counts :
    (after .framePeriod (linked .locked 39 7 0)).map (fun t => (t.link.stepGap, t.link.markGap)) = some (40, 8) := by
  decide +kernel

theorem test_fallback_makes_step :
    (after .fallbackStep (linked .searching 40 255 0)).map (fun t => (t.link.stepGap, t.pinsLow)) = some (0, false) := by
  decide +kernel

theorem test_third_mark_locks :
    (after (.downstreamFrame (withCheck [0x01, 0, 3, 0, 0])) (linked .searching 40 40 2)).map
      (fun t => (t.link.state, t.link.lines, latchOf t .link)) = some (.locked, 3, .set (.link false)) := by decide +kernel

theorem test_enum_gives_address :
    (after (.downstreamFrame (withCheck [0, 0, 0, 5, 7])) (linked .locked 5 5 0)).map
      (fun t => (t.link.address, t.link.downOut)) = some (7, some (withCheck [0, 0, 0, 5, 8])) := by decide +kernel

theorem test_link_lost :
    (after .linkLost (linked .locked 800 255 0)).map (fun t => (t.link.state, latchOf t .link)) =
      some (.lost, .set (.link true)) := by decide +kernel

/-- A write that lowers the timeout below the silence counted takes the link LOST at the next frame period, not in its own (R146). -/
theorem test_lowered_timeout_counts_from_the_next_period :
    let written := after (.writeTable .broadcast 0 0 1 [5, 0, 0, 0]) (linked .locked 300 0 0)
    ((written.bind (after .linkLost)).map (·.link.state), ((written.bind (after .framePeriod)).bind (after .linkLost)).map
      (·.link.state)) = (some .locked, some .lost) := by decide +kernel

theorem test_close_commits_cue_transfer :
    (after (.downstreamFrame (withCheck [0, 0, 0, 3, 0])) (staged .own [5, 9, 14, 19] 0)).map
      (fun t => (t.cue.queue, t.xfer.replies)) = some ([⟨9, .request⟩], [⟨5, .ok, []⟩]) := by decide +kernel

theorem test_cue_take_runs_its_list :
    (after .cueTake (listed .active false)).map (fun t => (t.cue.flags[3].on, t.cue.flags[4].on, latchOf t .refused)) =
      some (true, true, .set (.refused 9 1 .range)) := by
  decide +kernel

theorem test_write_then_read :
    ((after (.writeTable .own 10 1 1 [1, 60, 2]) base).bind (after (.readTable .own 10 1 5))).map
      (fun t => t.xfer.replies.drop 1) =
      some [⟨2, .ok, [10, 0, 1, 5, 1, 50, 50, 0, 5, 25, 0, 5, 25, 0, 5, 25, 0, 5, 25]⟩] := by decide +kernel

theorem test_execute_refuses_unused_train :
    (after (.execute .own [10, 0, 0, 0]) base).map (fun t => (t.xfer.replies, latchOf t .refused)) =
      some ([⟨6, .ok, [1, 4]⟩], .set (.refused 0 0 .range)) := by decide +kernel

theorem test_dormant_then_complete :
    ((after (.dormantTransfer .own) base).bind (after .dormantComplete)).map (·.node) = some .dormant := by
  decide +kernel

theorem test_wake_latches :
    (after (.wakeTransfer .own) (resting .dormant)).map (fun t => (t.node, latchOf t .wake)) =
      some (.active, .set (.wake .transfer)) := by decide +kernel

theorem test_stop_at_rest_completes_dormant_entry :
    (after (.dormantTransfer .own) (withAxis { axisIn .running with known := false, v := 20 })).map (·.node) =
      some .dormant := by decide +kernel

/-- A guard axis that the rest requests set moving and that stops before they have all been taken (log entry 27). -/
theorem test_stop_amid_the_rest_requests_completes_dormant_entry :
    let s := { withAxis { axisIn .seeking with target := some 21, v := 50, acc := 3990 } with node := .quiescing, owed := [.restLists] }
    let t := afterEvent s (axisPeriod s)
    t.node = .quiescing ∧ t.checkDue = true ∧ (finish t).node = .dormant ∧
    (finish { s with axes := base.axes }).node = .quiescing := by decide +kernel

/-- A step left to the end of its frame period has its pulse there (R181). -/
theorem test_left_step_pulses_in_its_period :
    let x := { axisIn .seeking with target := some 30, v := 50, acc := 3990 }
    (after .framePeriod { withAxis x with axisDue := true, pinsLow := false }).map
      (fun t => (t.axes[2].pos, t.axes[2].pulses, t.axes[2].lastPulses)) = some (21, 0, 1) := by decide +kernel

/-- A frame period left due while no axis moves takes the speed of an axis that the scene step of the same period sets moving (R107). -/
theorem test_period_after_the_step_moves_an_axis_it_started :
    let s := { withAxis (axisIn .holding) with choices := [1] }
    (after .framePeriod s).map (fun t =>
      ((axisPeriod (guardSeek 2 30 t)).axes[2].acc, t.axisDue, t.choices)) = some (50, true, []) := by decide +kernel

theorem test_chain_out_shifts_marker_and_image :
    let s := { base with chain := { base.chain with image := 5, inFlight := some ⟨1, 0⟩ } }
    chainStream s = [true, false, true, false, false, true, false, true, false, false, false, false, false, true, false, true] := by
  decide

theorem test_orphan_frame_goes_on_unmarked :
    ((after (.downstreamFrame (withCheck [4, 0, 0, 0, 0])) (linked .searching 40 255 0)).bind (after .fallbackStep)).map
      (·.link.downOut) = some (some (withCheck [4, 0, 0, 0, 0])) := by decide +kernel

theorem test_close_on_the_lane_is_sent :
    (after .linkLost { staged .own [] 2 with link := { (linked .locked 800 5 0).link with talk := some ⟨.reply, []⟩ } }).map
      (fun t => (t.xfer.replies.length, t.link.talk)) = some (2, none) := by decide +kernel

theorem test_no_cycle_completes_in_off :
    (after (.chainCycleComplete 0xA5 3) (cycling .off 0 0)).map (fun t => (t.chain.goods, t.chain.strobe)) =
      some (0, false) := by decide +kernel

theorem test_third_bad_cycle_faults :
    (after (.chainCycleComplete 0x5A 0) (cycling .ok 2 0)).map (fun t => (t.chain.state, latchOf t .chain)) =
      some (.fault, .set (.chain true)) := by decide +kernel

theorem test_good_cycle_debounces :
    (after (.chainCycleComplete 0xA5 3) (cycling .ok 2 0)).map
      (fun t => (t.chain.inputs[1].deb, t.chain.goods, t.chain.breaks)) = some (true, 1, 0) := by decide +kernel

theorem test_train_place_holds :
    (after (.execute .own [9, 0, 0, 0]) (withTrain (Train.reset 100))).map
      (fun t => (t.trains[0].state, t.trains[0].hold, t.secs[4].state)) =
      some (.stopped, [4], .held 0 none) := by decide +kernel

theorem test_seek_reaches_target :
    (after .framePeriod
        (withAxis { axisIn .seeking with target := some 21, v := 50, acc := 3990 })).map
      (fun t => (t.axes[2].state, t.axes[2].pos, t.axes[2].arrived)) = some (.holding, 21, true) := by decide +kernel

/-! ## States and operands that meet the hypotheses of the obligations -/

theorem test_meets_StepRunsFrontCommand : ({ base with pending := [.cueTake] } : State).pending = .cueTake :: [] := rfl

theorem test_meets_StepKeepsInRange : InRange (queued 2) := by
  refine ⟨⟨?_, ?_, ?_, ?_, ?_, ?_, ?_, fun a => ?_⟩, rfl⟩
  · exact ⟨by decide, by decide, by decide⟩
  · exact ⟨by decide, by decide, by decide, by simp [queued, base, State.reset, Clock.reset]⟩
  · unfold LinkInRange
    decide
  · unfold XferInRange
    decide
  · unfold ChainInRange
    decide
  · exact ⟨fun c => by simp [queued, base, State.reset, LampUnit.reset],
      fun c => by simp [queued, base, State.reset, LampUnit.reset]⟩
  · exact ⟨fun c => by simp [queued, base, State.reset, Tables.reset],
      fun c => by simp [queued, base, State.reset, Tables.reset, LampRecInRange]⟩
  · simp [queued, base, State.reset, Tables.reset, AxisInRange, AxisRecInRange, Axis.reset, PosInRange]

theorem test_meets_StepKeepsTrackConsistent : TrackConsistent base := by
  have hr : ∀ t : TrainId, base.trains[t] = Train.reset 100 := by decide +kernel
  have hs : ∀ n : SectionId, base.secs[n] = ⟨.free, false, []⟩ := by decide +kernel
  have hu : ∀ t : TrainId, base.tables.trains[t].inUse = false := by decide +kernel
  refine ⟨fun t => ?_, fun n => ?_⟩
  · constructor <;> simp [hr, hs, Train.reset, show base.tables.trains[t.val].inUse = false from hu t]
  · constructor <;> simp [hs]

theorem test_meets_StepKeepsRestConsistent :
    (resting .dormant).owed = [] ∧ RestConsistent (resting .dormant) := by
  refine ⟨rfl, fun _ => by decide +kernel, fun _ => by decide +kernel, fun _ => by decide +kernel⟩

theorem test_meets_TablesChangeOnlyByWritesOrResets :
    writesTables .cueTake = false ∧ writesTables (.downstreamFrame [0, 0, 0, 2, 7]) = false ∧
    writesTables (.softReset .own) = false := by decide

theorem test_meets_HardReset : Instr.powerOnReset = .powerOnReset ∨ Instr.powerOnReset = .pinReset := Or.inl rfl

/-- The one premise of several statements, and a player already STOPPED. -/
theorem test_meets_nothing_owed : base.owed = [] ∧ (playingAll .playing).owed = [] ∧
    (playingAll .stopped).players[0].state = .stopped := by decide

theorem test_meets_FramePeriodCountsAndPorts :
    base.owed = [] ∧ base.axisDue = false ∧ base.link.talk = none ∧
    (∀ a : AxisId, (withAxis (axisIn .holding)).tables.axes[a].inUse = true →
      generates (withAxis (axisIn .holding)).axes[a] = false) := by decide +kernel

theorem test_meets_FramePeriodMovesSeekingAxis :
    let s := withAxis { axisIn .seeking with target := some 21, v := 50, acc := 3990 }
    let odd := { s with choices := [1], axisDue := true }
    s.owed = [] ∧ s.choices = 0 :: List.replicate 39 0 ∧ s.axisDue = false ∧ s.tables.axes[2].inUse = true ∧
    s.axes[2].state = .seeking ∧ s.axes[2].target = some 21 ∧ s.axes[2].turn = none ∧
    ¬ s.axes[2].acc + s.axes[2].v < 4000 ∧ stepPos s.tables.axes[2] s.axes[2].dir s.axes[2].pos = 21 ∧
    odd.choices = 1 :: [] ∧ odd.axisDue = true ∧
    (∀ b : AxisId, b ≠ 2 → odd.tables.axes[b].inUse = true → generates odd.axes[b] = false) ∧
    (linked .lost 40 0 0).link.state ≠ .locked ∧ 40 ≤ (linked .lost 40 0 0).link.stepGap := by decide +kernel

theorem test_meets_FrameCheckAndClasses :
    ¬ ([1, 2, 3].length = 6 ∧ crc ([1, 2, 3].take 5) = [1, 2, 3].getD 5 0) ∧
    (0x03 : Byte).getLsbD 1 = true ∧ (0x05 : Byte).getLsbD 1 = false ∧ (0x05 : Byte).getLsbD 2 = true ∧
    (0x01 : Byte).getLsbD 1 = false ∧ (0x01 : Byte).getLsbD 2 = false := by decide

theorem test_meets_FailedFrame :
    ¬ ([1, 2, 3].length = 6 ∧ crc ([1, 2, 3].take 5) = [1, 2, 3].getD 5 0) ∧ base.owed = [] ∧
    base.xfer.opened = none ∧ (staged .own [1] 0).xfer.opened = some .own ∧ (staged .own [1] 0).owed = [] := by decide

theorem test_meets_DamagedOrOrphanFrame :
    (0x02 : Byte).getLsbD 1 = true ∧ (0x04 : Byte).getLsbD 2 = true ∧ base.owed = [] ∧ base.xfer.opened = none ∧
    (staged .broadcast [1] 0).xfer.opened = some .broadcast := by decide

theorem test_meets_ValidFrameBringsLinesAndCue :
    (0x00 : Byte).getLsbD 0 = false ∧ (0x00 : Byte).getLsbD 1 = false ∧ (0x00 : Byte).getLsbD 2 = false ∧
    symbolActs 0 0 = false ∧ symbolActs 5 64 = false ∧ (linked .lost 0 0 0).link.state = .lost ∧
    (linked .locked 0 0 0).link.state ≠ .lost ∧ (linked .locked 0 0 0).owed = [] ∧
    (queued 31).cue.queue.length < 32 ∧ 32 ≤ (queued 32).cue.queue.length ∧ (queued 32).link.state ≠ .lost := by decide

theorem test_meets_EnumGivesAddress :
    (63 : Byte).toNat < 64 ∧ (linked .locked 0 0 0).link.state ≠ .lost ∧ (linked .locked 0 0 0).owed = [] := by decide

theorem test_meets_GrantStartsAnswer :
    let s := linked .locked 5 5 0
    (5 : Byte).toNat = s.link.address ∧ 1 ≤ s.link.address ∧ s.link.address ≤ 62 ∧ s.link.talk = none ∧
    s.link.state ≠ .lost ∧ s.owed = [] ∧ s.xfer.replies = [] ∧ s.notices.master = true ∧
    (∀ k : Fin 13, reportable s.notices k = false) ∧
    reportable (latch .chain (.chain true) s).notices 8 = true ∧
    (staged .own [] 1).xfer.replies = ⟨5, .ok, []⟩ :: [] := by decide

theorem test_meets_TransferSymbolsAreStaged :
    base.xfer.opened = none ∧ (63 : Byte).toNat < 64 ∧ base.link.state ≠ .lost ∧ base.owed = [] ∧
    (staged .broadcast [1] 0).xfer.opened = some .broadcast ∧
    (staged .own (List.replicate 255 0) 0).xfer.buf.length < 256 ∧
    256 ≤ (staged .own (List.replicate 256 0) 0).xfer.buf.length ∧
    (staged .own (List.replicate 256 0) 0).xfer.opened = some .own := by decide +kernel

theorem test_meets_CloseJudgesTransfer :
    (staged .own [5, 9] 0).xfer.buf.length < 3 ∧
    checks [5] ≠ ((0 : Byte).toNat, (0 : Byte).toNat) ∧ checks [0] = ((0 : Byte).toNat, (0 : Byte).toNat) ∧
    checks [12] = ((12 : Byte).toNat, (12 : Byte).toNat) ∧ checks [2] = ((2 : Byte).toNat, (2 : Byte).toNat) ∧
    (staged .broadcast [2, 2, 2] 0).xfer.opened = some .broadcast ∧
    checks [5] = ((5 : Byte).toNat, (5 : Byte).toNat) ∧ ([] : List Byte).length + 1 ≠ 2 ∧
    ((5 : Byte).toNat, 2) ∈ [(4, 10), (5, 2), (7, 6), (8, 1), (9, 1), (10, 1), (11, 1)] ∧
    ((3 : Byte).toNat, 3) ∈ [(2, 5), (3, 3)] ∧ checks [1] = ((1 : Byte).toNat, (1 : Byte).toNat) := by decide

/-- For a body of each kind the two checks are bytes, so the staged bytes of the commits exist. -/
theorem test_meets_CloseJudgesTransfer_commits :
    ∀ body ∈ ([[1, 10, 0, 1, 1, 1, 60, 2], [2, 10, 0, 1, 5], [3, 5, 0], [4, 0, 0, 1, 2, 0, 3, 0, 4, 1], [5, 9], [6, 4, 3, 0, 0],
      [7, 1, 2, 3, 4, 5], [8], [9], [10], [11]] : List (List Byte)),
      checks body = ((byte (checks body).1).toNat, (byte (checks body).2).toNat) := by decide

theorem test_meets_StepMarksMakeSceneSteps :
    (0x01 : Byte).getLsbD 0 = true ∧ (0x01 : Byte).getLsbD 1 = false ∧ (0x01 : Byte).getLsbD 2 = false ∧
    symbolActs 0 0 = false ∧ (linked .locked 30 30 0).owed = [] ∧ 30 ≤ (linked .locked 30 30 0).link.stepGap ∧
    (linked .locked 29 29 0).link.state = .locked ∧ (linked .locked 29 29 0).link.stepGap < 30 := by decide

theorem test_meets_ThirdMarkLocks :
    (linked .searching 40 51 2).link.state ≠ .locked ∧ (linked .searching 40 51 2).link.lockRun ≤ 2 ∧
    ¬ (30 ≤ (linked .searching 40 51 2).link.markGap ∧ (linked .searching 40 51 2).link.markGap ≤ 50) ∧
    30 ≤ (linked .lost 40 30 1).link.markGap ∧ (linked .lost 40 30 1).link.lockRun < 2 ∧
    (linked .lost 40 50 2).link.markGap ≤ 50 ∧ (linked .lost 40 50 2).link.lockRun = 2 := by decide

theorem test_meets_FallbackStepReachesBlocks :
    (linked .locked 40 0 0).link.state = .locked ∧ (linked .lost 39 0 0).link.stepGap < 40 ∧
    (linked .lost 40 0 0).link.state ≠ .locked ∧ 40 ≤ (linked .lost 40 0 0).link.stepGap ∧
    (linked .lost 40 0 0).node = .active ∧ ClockInRange (linked .lost 40 0 0).clock ∧
    (linked .lost 40 0 0).owed = [] := by
  refine ⟨rfl, by decide, by decide, by decide, rfl, ⟨by decide, by decide, by decide, ?_⟩, rfl⟩
  intro p hp
  exact absurd hp (by change ¬ (none = some p); intro h; cases h)

theorem test_meets_LinkLostEntersLost :
    (linked .locked 799 0 0).link.stepGap < 40 * (linked .locked 799 0 0).link.timeout ∧
    (linked .locked 800 0 0).link.state = .locked ∧
    40 * (linked .locked 800 0 0).link.timeout ≤ (linked .locked 800 0 0).link.stepGap ∧
    (linked .locked 800 0 0).link.talk = none ∧ (linked .locked 800 0 0).owed = [] ∧
    (talkingNow .notice [⟨3, 0⟩]).link.talk = some ⟨.notice, ⟨3, 0⟩ :: []⟩ ∧
    (talkingNow .notice []).link.talk = some ⟨.notice, []⟩ ∧
    (linked .locked 800 0 0).xfer.opened = none ∧ (staged .own [1] 3).xfer.opened ≠ none ∧
    (staged .own [1] 3).xfer.replies = [⟨5, .ok, []⟩, ⟨5, .ok, []⟩, ⟨5, .ok, []⟩] ∧
    (staged .own [1] 3).xfer.replies.length < 4 ∧ (staged .broadcast [1] 3).xfer.opened ≠ some .own ∧
    (talkingNow .reply []).link.talk = some ⟨.reply, []⟩ ∧
    (withTrain (trainIn .running)).trains[0].state = .running ∧
    (withAxis (axisIn .running)).axes[2].state = .running ∧
    (∀ n : SectionId, (withAxis (axisIn .running)).tables.sections[n].guardAxis ≠ some 2) := by decide +kernel

theorem test_meets_ReturnFrames :
    base.link.talk = none ∧ base.link.retOwn = false ∧
    ¬ ([1, 2].length = 3 ∧ crc ([1, 2].take 2) = [1, 2].getD 2 0) ∧
    (talkingNow .empty [⟨3, 0⟩]).link.talk = some ⟨.empty, ⟨3, 0⟩ :: []⟩ ∧ (1 : Byte) ≠ 0 := by decide

theorem test_meets_AnswerSentEndsAnswer :
    (∀ k, base.link.talk ≠ some ⟨k, []⟩) ∧ (talkingNow .reply []).link.talk = some ⟨.reply, []⟩ ∧
    (talkingNow .notice []).link.talk = some ⟨.notice, []⟩ ∧ (talkingNow .empty []).link.talk = some ⟨.empty, []⟩ := by
  refine ⟨fun k h => ?_, rfl, rfl, rfl⟩
  exact absurd h (by cases k <;> decide)

theorem test_meets_CueTakeLimitsAndEmptyTakes :
    base.owed = [] ∧ base.cue.queue = [] ∧ 2 ≤ ({ base.cue with takes := 2 } : CueEngine).takes ∧
    (queued 1).cue.queue = ⟨9, .link⟩ :: [] ∧ (queued 1).cue.takes < 2 ∧ (queued 1).node = .active ∧
    (queued 1).tables.cueMap[9].count = 0 ∧ ({ queued 1 with node := .dormant } : State).node = .dormant ∧
    (queued 1).tables.wakeSet.getLsbD 9 = false := by decide +kernel

theorem test_meets_CueTakeRunsItsList :
    let s := listed .dormant true
    s.owed = [] ∧ s.cue.queue = ⟨9, .link⟩ :: [⟨9, .link⟩] ∧ s.cue.takes < 2 ∧ s.tables.cueMap[9] = ⟨7, 3⟩ ∧
    s.tables.pool[7] = ⟨4, 3, 0, 0⟩ ∧ s.tables.pool[8] = ⟨10, 2, 0, 0⟩ ∧ s.tables.pool[9] = ⟨4, 4, 0, 0⟩ ∧
    s.tables.trains[2].inUse = false ∧ s.node ≠ .active ∧ s.tables.wakeSet.getLsbD 9 = true ∧
    (listed .active false).node = .active ∧ (listed .quiescing false).node = .quiescing ∧
    (listed .quiescing false).tables.wakeSet.getLsbD 9 = false := by decide +kernel

theorem test_meets_OutcomesAndLatches :
    (staged .own [] 3).xfer.replies.length < 4 ∧ 4 ≤ (staged .own [] 4).xfer.replies.length ∧
    Result.range ≠ .ok ∧
    latchOf base .chain = .clear ∧ latchOf (latch .chain (.chain true) base) .chain = .set (.chain true) ∧
    latchOf { base with notices := { base.notices with
      latches := base.notices.latches.set 8 (.reporting (.chain true) none) } } .chain = .reporting (.chain true) none ∧
    latchOf { base with notices := { base.notices with
      latches := base.notices.latches.set 8 (.reporting (.chain true) (some (.chain false))) } } .chain =
      .reporting (.chain true) (some (.chain false)) ∧ NoticeKind.wake ≠ .chain := by decide

theorem test_meets_WriteTableRefusals :
    [(1 : Byte)].length ≠ (1 : Byte).toNat * recordSize (1 : Byte).toNat ∧
    [(1 : Byte)].length = (1 : Byte).toNat * recordSize (16 : Byte).toNat ∧ 15 < (16 : Byte).toNat ∧
    ([] : List Byte).length = (0 : Byte).toNat * recordSize (1 : Byte).toNat ∧
    recordCount (1 : Byte).toNat < (256 : BitVec 16).toNat + (1 : Byte).toNat ∧
    [(2 : Byte), 0, 4].length = 1 * recordSize 1 ∧ (commitWrite 1 0 1 [2, 0, 4] base).1 ≠ .ok := by decide +kernel

theorem test_meets_WriteTableLocksAndStores :
    (withTrain { Train.reset 100 with state := .stopped }).trains[0].state ≠ .parked ∧
    (List.replicate 42 (0 : Byte)).length = 42 ∧ (List.replicate 13 (0 : Byte)).length = 13 ∧
    (1 : Byte).toNat * 256 + (252 : Byte).toNat + min 4 (9 : Byte).toNat ≤ 512 ∧
    512 < (1 : Byte).toNat * 256 + (253 : Byte).toNat + min 4 (9 : Byte).toNat := by decide +kernel

theorem test_meets_StoredRecordsReadBack_tables0to6 :
    (decNode [1, 200, 200, 1]).isSome ∧ (decCueMap [1, 252, 9]).isSome ∧ (decPool [28, 7, 0, 0]).isSome ∧
    (decListDir [1, 255, 2, 0]).isSome ∧ (decListEntry [0, 255, 255, 1]).isSome ∧
    (decAlarm [2, 255, 255, 255, 1, 1]).isSome ∧ (decCurve (List.replicate 49 0)).isSome := by decide +kernel

theorem test_meets_StoredRecordsReadBack_tables7to14 :
    (decLamp [1, 16, 255, 7, 3, 9, 8, 0, 255, 0, 0]).isSome ∧
    (decSection 4 [1, 1, 5, 6, 255, 0, 0, 255, 0, 0, 0, 0, 0]).isSome ∧
    (decTrain (List.replicate 42 0)).isSome ∧ (decPoint [1, 60, 2]).isSome ∧
    (decAxis [1, 0, 0, 1, 0, 0, 255, 255, 0, 0, 1, 0, 0, 0, 0, 0, 1, 4, 0, 0]).isSome ∧
    (decOut [8, 7, 1, 1]).isSome ∧ (decIn [1, 15, 99, 0]).isSome ∧ (decWatch (List.replicate 20 1)).isSome := by
  decide +kernel

theorem test_meets_StoredRecordsReadBack_unread :
    (decSection 4 [1, 255, 77, 4, 255, 200, 200, 255, 0, 0, 0, 0, 0]).map encSection =
      some [1, 255, 77, 4, 255, 200, 200, 255, 0, 0, 0, 0, 0] ∧
    (decAxis [1, 1, 0, 9, 0, 5, 0, 9, 0, 1, 1, 0, 1, 0, 0, 0, 99, 88, 0, 0]).map (·.kind) = some .linear := by decide +kernel

theorem test_meets_ReadTableReply :
    15 < (16 : Byte).toNat ∧ recordCount (10 : Byte).toNat ≤ (8 : BitVec 16).toNat ∧
    (7 : BitVec 16).toNat < recordCount (10 : Byte).toNat := by decide

theorem test_meets_ReadStateReply :
    5 < (6 : Byte).toNat ∧ 3 < (4 : Byte).toNat ∧
    ¬ (5 < (3 : Byte).toNat ∨ ((3 : Byte) = 1 ∧ 3 < (5 : Byte).toNat) ∨ ((3 : Byte) = 3 ∧ 5 < (5 : Byte).toNat)) := by
  decide

theorem test_meets_SetClockAndCueTransfers :
    (9 : Byte) ≠ 0 ∧ (queued 31).cue.queue.length < 32 ∧ 32 ≤ (queued 32).cue.queue.length := by decide

theorem test_meets_ExecuteRefusals :
    base.owed = [] ∧ ¬ ([(1 : Byte)].length % 4 = 0 ∧ 4 ≤ [(1 : Byte)].length ∧ [(1 : Byte)].length ≤ 32) ∧
    28 < (29 : Byte).toNat ∧ base.tables.trains[0].inUse = false ∧ (resting .quiescing).node ≠ .active := by
  decide +kernel

theorem test_meets_ExecuteFlagAndLampActions : withLamp.owed = [] ∧ withLamp.tables.lamps[6].inUse = true := by decide +kernel

theorem test_meets_ThrowRequests :
    (withPoint ⟨some .normal, none, none⟩).pts[1].motion = none ∧
    (withPoint ⟨some .normal, none, none⟩).pts[1].position = some .normal ∧
    (withPoint ⟨none, none, none⟩).pts[1].position ≠ some .normal ∧
    (withPoint ⟨none, some ⟨.normal, 3, 2⟩, none⟩).pts[1].motion = some ⟨.normal, 3, 2⟩ := by decide +kernel

theorem test_meets_ExecutePointThrow :
    let s := withSection (.held 0 none)
    s.owed = [] ∧ s.tables.points[1].inUse = true ∧ s.tables.sections[4].inUse = true ∧
    ownerOf s.secs[4].state ≠ none ∧ s.tables.sections[4].exitPoint = some 1 ∧
    (∀ n : SectionId, (withSection .free).tables.sections[n].inUse = true →
      ownerOf (withSection .free).secs[n].state ≠ none →
      (withSection .free).tables.sections[n].exitPoint ≠ some 1 ∧
      (withSection .free).tables.sections[n].entryPoint ≠ some 1) := by decide +kernel

theorem test_meets_ExecuteTrainPlaceAndClear :
    let s := withTrain (Train.reset 100)
    let c := onTrack (trainIn .stopped) .free []
    s.owed = [] ∧ s.tables.trains[0].inUse = true ∧ 0 < s.tables.trains[0].length ∧ s.tables.trains[0].route[0] = 4 ∧
    s.trains[0].state = .parked ∧ s.tables.sections[4].inUse = true ∧ s.secs[4].state = .free ∧
    s.trains[0].speed = 0 ∧
    c.owed = [] ∧ c.tables.trains[0].inUse = true ∧ c.trains[0].state = .stopped ∧ c.trains[0].hold = [4] ∧
    c.trains[0].queued = none ∧ c.secs[4].state = .held 0 none ∧ (∀ m : SectionId, c.secs[m].queue = []) ∧
    (∀ m : SectionId, m ≠ 4 → c.secs[m].state = .free) := by decide +kernel

theorem test_meets_RequestsAreAnswered :
    let s := onTrack (trainIn .stopped) .free []
    let p := overPoint (trainIn .stopped) .free none
    let q := onTrack (trainIn .stopped) .blocked [1, 2]
    s.owed = [] ∧ s.node = .active ∧ s.chain.state ≠ .fault ∧ s.tables.trains[0].inUse = true ∧
    s.trains[0].state = .stopped ∧ s.trains[0].overload = false ∧ s.trains[0].speed = 0 ∧
    s.trains[0].hold.head? = some 4 ∧ (1 : Fin 32).val = (s.trains[0].headIndex + 1) % s.tables.trains[0].length ∧
    s.tables.trains[0].route[1] = 5 ∧ s.tables.sections[5].inUse = true ∧ s.secs[5].state = .free ∧
    s.tables.sections[4].exitPoint = none ∧ s.tables.sections[5].entryPoint = none ∧
    s.tables.sections[5].guardAxis = none ∧
    p.tables.sections[4].exitPoint = some 1 ∧ p.tables.sections[4].nextNormal = 5 ∧ p.tables.points[1].inUse = true ∧
    p.pts[1].motion = none ∧ p.secs[4].state = .held 0 none ∧ p.pts[1].position ≠ some .normal ∧
    (setPt 1 ⟨some .normal, none, none⟩ p).pts[1].position = some .normal ∧
    (∀ m : SectionId, m ≠ 4 → ownerOf p.secs[m].state = none) ∧
    q.secs[5].state ≠ .free ∧ q.secs[5].queue.length < 3 ∧
    3 ≤ (onTrack (trainIn .stopped) .blocked [1, 2, 3]).secs[5].queue.length := by decide +kernel

theorem test_meets_RequestsAreAnswered_throw :
    let s := overPoint { trainIn .waiting with res := some (5, .setting) } (.reserved 0 .setting 4) (some ⟨.normal, 1, 0⟩)
    s.pts[1].motion = some ⟨.normal, 1, 0⟩ ∧ s.pts[1].slot = none ∧ s.secs[5].state = .reserved 0 .setting 4 ∧
    (∀ o : SectionId, o ≠ 5 → s.secs[o].state = .free ∨ s.secs[o].state = .held 0 none) ∧
    s.tables.sections[4].exitPoint = some 1 ∧ s.tables.sections[4].nextNormal = 5 ∧
    s.tables.sections[5].entryPoint = none ∧ s.tables.sections[5].guardAxis = none ∧
    s.trains[0].res = some (5, .setting) ∧ s.trains[0].state = .waiting := by decide +kernel

theorem test_meets_ExecuteAxisSeekFromRest :
    let s := withAxis (axisIn .idle)
    s.owed = [] ∧ s.node = .active ∧ s.tables.axes[2].inUse = true ∧ s.axes[2].known = true ∧ s.axes[2].state = .idle ∧
    (∀ n : SectionId, s.tables.sections[n].guardAxis = some 2 → ownerOf s.secs[n].state = none) ∧
    s.tables.axes[2].kind = .rotary ∧ s.axes[2].pos < s.tables.axes[2].steps ∧ s.tables.axes[2].policy = .forward ∧
    ((0 : Byte).toNat * 256 + (30 : Byte).toNat) % s.tables.axes[2].steps ≠ s.axes[2].pos ∧
    (withAxis (axisIn .following)).axes[2].state = .following ∧ (withAxis (axisIn .following)).axes[2].v = 0 := by
  decide +kernel

theorem test_meets_NoticesTransferSetsAndClears :
    (0x800 : BitVec 16).getLsbD (NoticeKind.wake.idx).val = true ∧ NoticeKind.wake ≠ .replyOverrun ∧
    latchOf (latch .wake (.wake .transfer) base) .wake ≠ .clear ∧
    (0x8 : BitVec 16).getLsbD (NoticeKind.replyOverrun.idx).val = true ∧ base.xfer.replies.length < 4 := by decide

theorem test_meets_DormantTransferBeginsRest :
    latchOf (latch .wake (.wake .transfer) base) .wake ≠ .clear ∧ latchOf base .wake = .clear ∧ base.node = .active ∧
    latchOf (resting .dormant) .wake = .clear ∧ (resting .dormant).node ≠ .active ∧ base.owed = [] := by decide

theorem test_meets_DormantTransferBeginsRest_axes :
    let s := withAxis { axisIn .running with known := false, v := 20 }
    s.node = .active ∧ latchOf s .wake = .clear ∧ s.tables.axes[2].inUse = true ∧ s.axes[2].state = .running ∧
    s.axes[2].known = false ∧ s.axes[2].v ≤ s.tables.axes[2].vs ∧
    (∀ b : AxisId, b ≠ 2 → s.axes[b].state = .idle) ∧
    (∀ k : TrainId, s.trains[k].speed = 0 ∧ s.trains[k].state = .parked) ∧ s.chain.inFlight = none ∧
    (∀ n : SectionId, s.tables.sections[n].guardAxis ≠ some 2) ∧
    (withAxis (axisIn .following)).axes[2].state = .following ∧ (withAxis (axisIn .running)).axes[2].known = true := by
  decide +kernel

theorem test_meets_WakeTransferEndsRest :
    let s := { withAxis { axisIn .holding with follow := true } with node := NodeState.quiescing }
    base.node = .active ∧ s.node ≠ .active ∧ s.owed = [] ∧ s.axes[2].follow = true ∧ s.axes[2].known = true ∧
    s.axes[2].state = .holding ∧ s.axes[3].follow = false := by decide +kernel

theorem test_meets_AllStopHaltsTrainsAndAxes :
    (withTrain (trainIn .running)).trains[0].state = .running ∧
    (withTrain (trainIn (.halted .lost))).trains[0].state = .halted .lost ∧
    (withTrain (Train.reset 100)).trains[0].state = .parked ∧
    (withAxis (axisIn .running)).tables.axes[2].inUse = true ∧ (withAxis (axisIn .running)).axes[2].state = .running ∧
    (withAxis (axisIn .following)).axes[2].state = .following ∧
    (withAxis (axisIn .holding)).axes[2].state = .holding := by decide +kernel

theorem test_meets_DormantCompleteChecksStand :
    (resting .quiescing).node = .quiescing ∧ (∀ t : TrainId, (resting .quiescing).trains[t].speed = 0) ∧
    (resting .quiescing).chain.inFlight = none ∧ (∀ a : AxisId, (resting .quiescing).axes[a].state = .idle) ∧
    base.node ≠ .quiescing ∧ (cycling .ok 0 0).chain.inFlight ≠ none := by decide +kernel

/-- Player 1 at its last count on entry 20, with the delay of entry 21, and its directory record. -/
def playing (atEnd : Bool) (d : Nat) (r : ListDirRec) : State :=
  { base with
    players := base.players.set 1 ⟨.playing, 20, 1⟩
    tables := { base.tables with
      listDir := base.tables.listDir.set 1 r
      listMem := ((base.tables.listMem.set 20 ⟨atEnd, 4, 9⟩).set 21 ⟨false, d, 8⟩).set 22 ⟨false, 5, 7⟩ } }

theorem test_meets_ListEntryFires :
    let s := playing false 6 ⟨0, .once, 0⟩
    s.players[1].state = .playing ∧ s.players[1].countdown ≤ 1 ∧ s.players[1].index = 20 ∧
    s.tables.listMem[20] = ⟨false, 4, 9⟩ ∧ s.tables.listMem[21] = ⟨false, 6, 8⟩ ∧
    (playing false 0 ⟨0, .once, 0⟩).tables.listMem[21] = ⟨false, 0, 8⟩ ∧ s.tables.listMem[22] = ⟨false, 5, 7⟩ ∧
    (playing true 6 ⟨0, .once, 0⟩).tables.listMem[20] = ⟨true, 4, 9⟩ ∧ s.tables.listDir[1].mode ≠ .loop ∧
    (playing true 6 ⟨21, .loop, 3⟩).tables.listDir[1] = ⟨21, .loop, 3⟩ ∧
    (playing true 6 ⟨20, .loop, 0⟩).tables.listDir[1] = ⟨20, .loop, 0⟩ := by decide +kernel

theorem test_list_entry_fires :
    (after (.listEntryFire 1) (playing false 6 ⟨0, .once, 0⟩)).map (fun t => (t.players[1], t.cue.queue)) =
      some (⟨.playing, 21, 6⟩, [⟨9, .list⟩]) := by decide +kernel

theorem test_meets_ClockFadesPulsesAndHoldOffs :
    base.clock.pendingSet = none ∧
    (fillPendingSet ⟨77, none⟩ base).clock.pendingSet = some ⟨77, none⟩ ∧
    (fillPendingSet ⟨77, some ⟨1, 2, .running⟩⟩ base).clock.pendingSet = some ⟨77, some ⟨1, 2, .running⟩⟩ ∧
    (10 : Nat) ≤ 9 + 1 ∧ (setChan 6 ⟨some ⟨3, some ⟨0, 9, 10, 9⟩⟩, 0, false⟩ base).lamp.chans[6].layer =
      some ⟨3, some ⟨0, 9, 10, 9⟩⟩ ∧
    (setMaster 2 ⟨3, some ⟨0, 9, 10, 9⟩⟩ base).lamp.masters[2] = ⟨3, some ⟨0, 9, 10, 9⟩⟩ ∧
    (setFlag 3 ⟨true, some 1⟩ base).cue.flags[3].pulse = some 1 ∧ base.chain.watches[4].holdOff ≤ 1 := by decide +kernel

theorem test_meets_CoilAndThrowEnd :
    (withPoint ⟨none, some ⟨.normal, 1, 1⟩, some .reverse⟩).pts[1].motion = some ⟨.normal, 1, 1⟩ ∧
    (withPoint ⟨none, some ⟨.normal, 1, 1⟩, some .reverse⟩).pts[1].slot = some .reverse ∧
    (withPoint ⟨none, some ⟨.normal, 1, 1⟩, none⟩).pts[1].slot = none ∧
    (∀ n : SectionId, (withPoint ⟨none, some ⟨.normal, 1, 1⟩, none⟩).secs[n].state = .free) := by decide +kernel

theorem test_meets_TrainCountersRunOut :
    let s := withTrain { Train.reset 100 with state := .running, res := some (5, .set), speed := 7, arrival := some 2 }
    let a := withTrain { Train.reset 100 with state := .approach, brakeDelay := some 1 }
    a.trains[0].state = .approach ∧ a.trains[0].brakeDelay = some 1 ∧ s.trains[0].state = .running ∧
    s.trains[0].res = some (5, .set) ∧ 0 < s.trains[0].speed ∧ s.trains[0].queued = none ∧
    s.trains[0].arrival = some 2 ∧ 0 < s.tables.trains[0].timeout ∧
    s.tables.trains[0].timeout ≤ min 65535 (2 + 1) := by decide +kernel

theorem test_meets_AxisTimersRunOut :
    let s := withAxis { axisIn .homing with acc := 3990, v := 50, homeCount := 400 }
    (withAxis { axisIn .holding with holdTimer := some 1 }).axes[2].holdTimer = some 1 ∧
    s.tables.axes[2].inUse = true ∧ s.axes[2].state = .homing ∧ 4000 ≤ s.axes[2].acc + s.axes[2].v ∧
    s.tables.axes[2].homeLimit ≤ s.axes[2].homeCount ∧ s.node = .active ∧
    (∀ n : SectionId, s.tables.sections[n].guardAxis ≠ some 2) := by decide +kernel

theorem test_meets_BadChainCycle :
    (0x5A : Byte) ≠ 0xA5 ∧ base.chain.inFlight = none ∧ (cycling .off 0 0).chain.state = .off ∧ (cycling .ok 1 0).chain.inFlight = some ⟨0, 2⟩ ∧
    (cycling .ok 1 0).chain.state = .ok ∧ (cycling .ok 1 0).node = .active ∧ (cycling .ok 1 0).chain.breaks < 2 ∧
    2 ≤ (cycling .ok 2 0).chain.breaks ∧ (cycling .ok 2 0).owed = [] := by decide

theorem test_meets_GoodChainCycle :
    (cycling .ok 0 3).chain.inFlight = some ⟨0, 2⟩ ∧ (cycling .ok 0 3).chain.state = .ok ∧
    (cycling .fault 9 2).chain.state = .fault ∧ 2 ≤ (cycling .fault 9 2).chain.goods ∧
    (cycling .fault 9 1).chain.state = .fault ∧ (cycling .fault 9 1).chain.goods < 2 ∧
    (cycling .fault 9 1).node = .active ∧ (cycling .fault 9 1).owed = [] := by decide

theorem test_meets_ArrivalsActBySectionState :
    let v := fun m : SectionId => m == 5 || m == 4
    let run := onTrack { trainIn .running with res := some (5, .set), speed := 9 } (.reserved 0 .set 4) []
    (∀ m : SectionId, m ≠ 5 → v m = run.secs[m].occ) ∧ v 5 = true ∧ run.secs[5].occ = false ∧
    base.tables.sections[5].inUse = false ∧ run.tables.sections[5].inUse = true ∧
    (onTrack (trainIn .stopped) .free []).secs[5].state = .free ∧
    (onTrack (trainIn .stopped) (.held 1 none) []).secs[5].state = .held 1 none ∧
    (onTrack { trainIn .approach with res := some (5, .setting) } (.reserved 0 .setting 4) []).trains[0].res =
      some (5, .setting) ∧
    run.secs[5].state = .reserved 0 .set 4 ∧ run.trains[0].hold = 4 :: [] ∧ run.secs[4].occ = true ∧
    run.trains[0].state = .running ∧ 0 < run.trains[0].speed ∧
    (0 : Fin 32).val = ((run.trains[0].headIndex + 1) % run.tables.trains[0].length + 1) % run.tables.trains[0].length ∧
    run.tables.trains[0].route[0] = 4 ∧ run.secs[4].state ≠ .free ∧ run.secs[4].queue.length < 3 ∧
    (onTrack (trainIn (.halted .link)) (.reserved 0 .set 4) []).trains[0].state = .halted .link ∧
    (∀ m : SectionId, (onTrack (trainIn .stopping) (.reserved 0 .set 4) []).secs[m].queue = []) := by decide +kernel

theorem test_meets_ArrivalsActBySectionState_answers :
    let run := onTrack { trainIn .running with res := some (5, .set), speed := 9 } (.reserved 0 .set 4) []
    let next := fun (x : Section) (r : SectionRec) => ({ run with secs := run.secs.set 4 x, tables := { run.tables with sections := run.tables.sections.set 4 r } } : State)
    let full := next ⟨.held 0 none, true, [1, 2, 3]⟩ run.tables.sections[4]
    let free := next ⟨.free, true, []⟩ run.tables.sections[4]
    let guarded := next ⟨.free, true, []⟩ { run.tables.sections[4] with guardAxis := some 2, guardPos := 30 }
    let s := { guarded with tables := { guarded.tables with axes := (withAxis (axisIn .holding)).tables.axes }, axes := (withAxis (axisIn .holding)).axes }
    full.secs[4].state ≠ .free ∧ 3 ≤ full.secs[4].queue.length ∧ free.secs[4].state = .free ∧ free.secs[4].occ = true ∧
    free.tables.sections[4].inUse = true ∧ free.tables.sections[5].exitPoint = none ∧
    free.tables.sections[4].entryPoint = none ∧ free.tables.sections[4].guardAxis = none ∧
    s.secs[4].state = .free ∧ s.tables.sections[4].inUse = true ∧ s.tables.sections[4].guardAxis = some 2 ∧
    (∀ j : SectionId, j ≠ 4 → s.tables.sections[j].guardAxis ≠ some 2) ∧ s.tables.axes[2].inUse = true ∧
    s.axes[2].known = true ∧ s.axes[2].state = .holding ∧ s.axes[2].pos ≠ takeTarget s.tables.axes[2] 30 ∧
    s.secs[5].state = .reserved 0 .set 4 ∧ s.trains[0].hold = [4] ∧ s.trains[0].state = .running := by decide +kernel

theorem test_meets_ArrivalsActBySectionState_length :
    let s := withTrain { trainIn .running with hold := [4, 3, 2] }
    s.trains[0].hold = 4 :: [3, 2] ∧ s.trains[0].queued = none ∧ s.trains[0].state = .running ∧ s.secs[4].occ = false ∧
    (withTrain { trainIn (.halted .lost) with hold := [4, 3, 2] }).trains[0].state = .halted .lost ∧
    (setOcc 4 true s).secs[4].occ = true := by decide +kernel

theorem test_meets_ClearingsReleaseAndGrant :
    let s := onTrack { trainIn .waiting with queued := some 5 } .blocked [0]
    let v := fun m : SectionId => m == 4 && m != 5
    let u := setOcc 5 true s
    (∀ m : SectionId, m ≠ 5 → v m = u.secs[m].occ) ∧ v 5 = false ∧ u.secs[5].occ = true ∧
    s.tables.sections[5].inUse = true ∧ base.tables.sections[5].inUse = false ∧
    (onTrack (trainIn .stopped) .free []).secs[5].state = .free ∧
    (onTrack (trainIn .stopped) (.held 0 none) []).trains[0].hold.head? ≠ some 5 ∧
    (∀ m : SectionId, (onTrack (trainIn .stopped) (.held 0 none) []).secs[m].queue = []) ∧
    s.secs[4].state = .held 0 none ∧ s.trains[0].hold.head? = some 4 ∧
    s.secs[5].state = .blocked ∧ s.secs[5].queue = [0] ∧ (∀ m : SectionId, m ≠ 5 → s.secs[m].queue = []) ∧
    s.tables.sections[4].exitPoint = none ∧ s.tables.sections[5].entryPoint = none ∧
    s.tables.sections[5].guardAxis = none := by decide +kernel

theorem test_meets_MasterAndLimitStages :
    withLamp.tables.lamps[6].inUse = true ∧ withLamp.node = .active ∧ withLamp.tables.lamps[6].flashLine = none ∧
    withLamp.tables.lamps[6].lo ≤ withLamp.tables.lamps[6].hi := by decide +kernel

theorem test_meets_CabDutyAndDirection_ramp :
    let up : Train := { Train.reset 100 with speed := 3, target := 9 }
    let down : Train := { Train.reset 100 with speed := 9, target := 3 }
    let falls : Train := { Train.reset 100 with state := .halted .link, speed := 9 }
    up.speed < up.target ∧ down.target < down.speed ∧ (∀ why, down.state ≠ .halted why) ∧
    falls.target < falls.speed ∧ falls.state = .halted .link := by
  refine ⟨by decide, by decide, fun why h => ?_, by decide, rfl⟩
  exact absurd h (by cases why <;> decide)

theorem test_meets_CabDutyAndDirection :
    let out : List Byte := [0, 1, 50, 2, 2, 2, 9, 0, 0, 3] ++ List.replicate 32 4
    ({ base with pinsLow := false } : State).pinsLow = false ∧ out.length = 42 ∧
    (decTrain out).map (·.inUse) = some false ∧ base.trains[0].state = .parked := by decide +kernel

theorem test_meets_ProfileAndAxisLines :
    let s := withAxis { axisIn .seeking with target := some 30, v := 50 }
    s.tables.axes[2].inUse = true ∧ s.axes[2].state = .seeking ∧ s.axes[2].turn = none ∧
    s.axes[2].target = some 30 ∧ remaining s.tables.axes[2] s.axes[2].dir s.axes[2].pos 30 ≠ 0 ∧
    s.tables.axes[2].vs ≤ s.tables.axes[2].vmax ∧ s.axes[2].v ≤ s.tables.axes[2].vmax ∧
    ({ s with pinsLow := false } : State).pinsLow = false ∧ base.pinsLow = true := by decide +kernel

end Sys2Proof.Tests
end

section
/-! What the commands leave owed: every function that hands on no request leaves the owed requests as they stand (log entry
6), so the commands that end without `finish` leave none over. -/

namespace Sys2Proof.Machine

/-! ## The units, cues and players -/

/-- The updates of the Reservation, Train and Axis Units owe nothing. -/
theorem owed_of_others {s t : State} (h : othersOf t = othersOf s) : t.owed = s.owed :=
  show (othersOf t).owed = (othersOf s).owed from congrArg State.owed h

@[simp] theorem coilEnds_owed (p : PointId) (s : State) : (coilEnds p s).owed = s.owed :=
  owed_of_others ((closed_others s).coilEnds rfl)

@[simp] theorem throwEnds_owed (p : PointId) (s : State) : (throwEnds p s).owed = s.owed :=
  owed_of_others ((closed_others s).throwEnds rfl)

@[simp] theorem arrivalTimesOut_owed (t : TrainId) (s : State) : (arrivalTimesOut t s).owed = s.owed :=
  owed_of_others ((closed_others s).arrivalTimesOut rfl)

@[simp] theorem homeLimitPasses_owed (a : AxisId) (s : State) : (homeLimitPasses a s).owed = s.owed :=
  owed_of_others ((closed_others s).homeLimitPasses rfl)

@[simp] theorem pointsCommitted_owed (old : Vector PointRec 8) (s : State) : (pointsCommitted old s).owed = s.owed := by
  let u := { s with pts := tab fun p =>
    if old[p].inUse = s.tables.points[p].inUse then s.pts[p] else { s.pts[p] with position := none } }
  exact owed_of_others ((closed_others u).reevaluate rfl)

@[simp] theorem appendCue_owed (code : Nat) (source : Source) (s : State) : (appendCue code source s).owed = s.owed :=
  owed_of_others ((closed_others s).cue _ _ _ rfl)

@[simp] theorem arrive_owed (p : PlayerId) (i : Nat) (s : State) : (arrive p i s).2.owed = s.owed := rfl

@[simp] theorem fireEnd_owed (p : PlayerId) (s : State) : (fireEnd p s).2.owed = s.owed := by
  unfold fireEnd
  dsimp only
  split <;> simp

@[simp] theorem fireEntry_owed (p : PlayerId) (s : State) : (fireEntry p s).2.2.owed = s.owed := by
  unfold fireEntry
  dsimp only
  split
  · simp
  · split <;> simp

@[simp] theorem fireEntries_owed (fuel left : Nat) (p : PlayerId) (s : State) :
    (fireEntries fuel left p s).owed = s.owed := by
  induction fuel generalizing left s with
  | zero => rfl
  | succ fuel ih =>
    unfold fireEntries
    dsimp only
    split
    · split <;> simp [ih]
    · simp

@[simp] theorem countdownEnds_owed (p : PlayerId) (s : State) : (countdownEnds p s).owed = s.owed := by
  unfold countdownEnds
  dsimp only
  split
  · split <;> simp
  all_goals rfl

@[simp] theorem applyPendingSet_owed (s : State) : (applyPendingSet s).owed = s.owed := by
  unfold applyPendingSet
  split <;> rfl

/-! ## Node Control's check -/

@[simp] theorem nodeCheck_owed (s : State) : (nodeCheck s).owed = s.owed := by
  unfold nodeCheck
  split
  · split
    · rfl
    · split <;> rfl
  · rfl

@[simp] theorem afterEvent_owed (s t : State) : (afterEvent s t).owed = t.owed := by
  unfold afterEvent
  split <;> simp

/-! ## The return lane -/

@[simp] theorem placeOwn_owed (s : State) : (placeOwn s).owed = s.owed := by
  unfold placeOwn
  split
  · split <;> rfl
  all_goals rfl

@[simp] theorem reportSent_owed (a : AnswerKind) (s : State) : (reportSent a s).owed = s.owed := by
  cases a <;> rfl

@[simp] theorem answerDone_owed (s : State) : (answerDone s).owed = s.owed := by
  unfold answerDone
  split <;> simp

@[simp] theorem passReturn_owed (bs : List Byte) (s : State) : (passReturn bs s).owed = s.owed := by
  unfold passReturn
  split <;> rfl

@[simp] theorem countDamaged_owed (ret : Bool) (s : State) : (countDamaged ret s).owed = s.owed := rfl

@[simp] theorem collide_owed (type value : Byte) (s : State) : (collide type value s).owed = s.owed := rfl

@[simp] theorem arrive3_owed (bs : List Byte) (s : State) : (arrive3 bs s).owed = s.owed := by
  unfold arrive3
  dsimp only
  split
  · split
    · rw [placeOwn_owed]
      split <;> simp
    · simp
  · split <;> simp

/-! ## The transfers that hand nothing on -/

@[simp] theorem closeUnit_owed (s : State) : (closeUnit s).owed = s.owed := rfl

/-- The outcome of a commit owes what the commit left. -/
@[simp] theorem conclude_owed (via : Opened) (kind : Byte) (c : Commit) : (conclude via kind c).owed = c.2.2.owed :=
  outcome_owed ..

/-- A commit of records owes nothing, whatever the table's owner does at it. -/
theorem storeRecords_owed {table first : Nat} {recs : List (List Byte)} {s u : State}
    (h : storeRecords table first recs s = .ok u) : u.owed = s.owed := by
  unfold storeRecords at h
  dsimp only at h
  split at h
  case h_1 =>
    split at h
    · obtain rfl := Except.ok.inj h
      rfl
    · cases h
  case h_9 =>
    split at h
    · cases h
    · rename_i u' hu
      split at h
      · cases h
      · obtain rfl := Except.ok.inj h
        obtain ⟨v, rfl, -⟩ := store_ok hu
        rfl
  case h_11 =>
    obtain ⟨v, hu, -⟩ := store_ok h
    rw [hu, pointsCommitted_owed]
  case h_16 =>
    obtain rfl := Except.ok.inj h
    rfl
  all_goals
    obtain ⟨v, rfl, -⟩ := store_ok h
    rfl

@[simp] theorem commitWrite_owed (table first count : Nat) (records : List Byte) (s : State) :
    (commitWrite table first count records s).2.2.owed = s.owed := by
  unfold commitWrite plain
  split
  · rfl
  · split
    · rfl
    · split
      · rfl
      · split
        · rfl
        · next hu => exact storeRecords_owed hu

@[simp] theorem writeTransfer_owed (via : Opened) (table first count : Nat) (records : List Byte) (s : State) :
    (writeTransfer via table first count records s).owed = s.owed := by
  unfold writeTransfer
  split <;> simp [plain]

/-- A read owes what it found owed, whether the broadcast is refused or the read made. -/
theorem unlessBroadcast_owed {via : Opened} {s : State} {c : Commit} (h : c.2.2.owed = s.owed) :
    (unlessBroadcast via s c).2.2.owed = s.owed := by
  cases via
  · exact h
  · rfl

@[simp] theorem readTransfer_owed (via : Opened) (table first count : Nat) (s : State) :
    (readTransfer via table first count s).owed = s.owed := by
  rw [readTransfer, conclude_owed]
  refine unlessBroadcast_owed ?_
  unfold commitRead plain
  split
  · rfl
  · split <;> rfl

@[simp] theorem viewTransfer_owed (via : Opened) (view index : Byte) (s : State) :
    (viewTransfer via view index s).owed = s.owed := by
  rw [viewTransfer, conclude_owed]
  refine unlessBroadcast_owed ?_
  unfold commitView plain
  split <;> rfl

@[simp] theorem clockTransfer_owed (via : Opened) (ms day rate : Nat) (runHold : Byte) (s : State) :
    (clockTransfer via ms day rate runHold s).owed = s.owed := conclude_owed ..

@[simp] theorem codeTransfer_owed (via : Opened) (code : Nat) (s : State) : (codeTransfer via code s).owed = s.owed := by
  rw [codeTransfer, conclude_owed, commitCue]
  split <;> simp [plain]

@[simp] theorem noticesTransfer_owed (via : Opened) (master : Byte) (enables clear : BitVec 16) (s : State) :
    (noticesTransfer via master enables clear s).owed = s.owed := conclude_owed ..

/-- A soft reset takes back what was owed (R174). -/
@[simp] theorem resetTransfer_owed (via : Opened) (s : State) : (resetTransfer via s).owed = [] := conclude_owed ..

end Sys2Proof.Machine
end

section
/-! The state after power-on reset is in range, consistent and at rest, and every command keeps the ranges. -/

namespace Sys2Proof.Machine

/-! ## The state after reset, item by item -/

@[simp] theorem reset_secs (n : Nat) (h : n < 16) : State.reset.secs[n] = ⟨.free, false, []⟩ := by simp [State.reset]

@[simp] theorem reset_trains (t : Nat) (h : t < 4) : State.reset.trains[t] = Train.reset 100 := by simp [State.reset]

@[simp] theorem reset_axes (a : Nat) (h : a < 6) : State.reset.axes[a] = Axis.reset := by simp [State.reset]

@[simp] theorem reset_node : State.reset.node = .active := rfl

/-- No train's record is in use after reset. -/
theorem reset_train_unused (t : TrainId) : State.reset.tables.trains[t].inUse = false := by
  simp [State.reset, Tables.reset]

/-- The record of every axis after reset is in range, and the axis at position 0 with it (R103, R105). -/
theorem reset_axis_inRange (a : AxisId) : AxisInRange State.reset.tables.axes[a] State.reset.axes[a] := by
  have hr : State.reset.tables.axes[a] = ⟨false, .rotary, 200, 50, 400, 20, .reverse, 400, 50, 0, .forward, .none, 0⟩ := by
    simp [State.reset, Tables.reset]
  rw [hr]
  simp [AxisInRange, AxisRecInRange, Axis.reset]

/-- The stored records after reset are in range (R5, R40). -/
theorem reset_tables_inRange : TablesInRange State.reset.tables :=
  ⟨fun i => by simp [State.reset, Tables.reset], fun c => by simp [State.reset, Tables.reset, LampRecInRange]⟩

/-- The blocks after reset are in range. -/
theorem reset_heldInRange : HeldInRange State.reset where
  cue := ⟨by decide, fun _ hx => (List.not_mem_nil hx).elim, by decide⟩
  clock := ⟨by decide, by decide, by decide, fun _ hp => (Option.not_mem_none _ hp).elim⟩
  link := by simp [LinkInRange, State.reset]
  xfer := by simp [XferInRange, State.reset]
  chain := by simp [ChainInRange, State.reset]
  lamp := ⟨fun c => by simp [State.reset, LampUnit.reset], fun p => by simp [State.reset, LampUnit.reset]⟩
  tables := reset_tables_inRange
  axes := reset_axis_inRange

theorem reset_inRange : InRange State.reset := ⟨reset_heldInRange, rfl⟩

/-- A parked train without sections agrees with free sections without waiters (R62, R85). -/
theorem reset_trainConsistent (t : TrainId) : TrainConsistent State.reset t where
  route h := by
    rcases h with h | h
    · rw [reset_train_unused] at h
      cases h
    · exact absurd (by simp [Train.reset]) h
  holdsFew := by simp [Train.reset]
  holdsOnce := by simp [Train.reset]
  holds n := by simp [Train.reset]
  holdsNone := by simp [Train.reset]
  reserves n ph := by simp [Train.reset]
  waits n := by simp [Train.reset]
  waitsFree h := by simp [Train.reset] at h
  unreserved _ := by simp [Train.reset]
  running h := by simp [Train.reset] at h
  target _ _ := by simp [Train.reset]

theorem reset_sectionConsistent (n : SectionId) : SectionConsistent State.reset n where
  unused _ := by simp
  queueFew := by simp
  queueOnce := by simp

/-- The node is ACTIVE after reset, so the conditions of rest ask nothing. -/
theorem reset_restConsistent : RestConsistent State.reset where
  trains h := absurd reset_node h
  speeds h := by simp at h
  axes h := by simp at h

/-- Settles O3: each of the three invariants holds of the values that State.reset gives, item by item. -/
theorem resetMeetsInvariants : Obligations.ResetMeetsInvariants :=
  ⟨reset_inRange, ⟨reset_trainConsistent, reset_sectionConsistent⟩, reset_restConsistent⟩

/-! ## Every command keeps the ranges -/

namespace HeldInRange

variable {s : State}

theorem setPending {q : List Instr} (h : HeldInRange s) : HeldInRange { s with pending := q } :=
  ⟨h.cue, h.clock, h.link, h.xfer, h.chain, h.lamp, h.tables, h.axes⟩

/-- A hard reset gives the values of State.reset (R175). -/
theorem hardReset (s : State) : HeldInRange (hardReset s) :=
  closed_inRange.choose _ _ _ reset_heldInRange.setPending

theorem pinReset (s : State) : HeldInRange (pinResetState s) := (hardReset s).setChain (hardReset s).chain

/-- At the end of a command every owed request has been taken. -/
theorem finished (h : HeldInRange s) : InRange (Machine.finish s) := ⟨h.finish, finish_owed s⟩

end HeldInRange

/-- Every command answers a next state, and it is in range. -/
theorem exec_keeps_inRange (c : Instr) {s : State} (h : InRange s) : ∃ t, exec c s = .next t ∧ InRange t := by
  obtain ⟨h, ho⟩ := h
  have hc : HeldInRange (closeUnit s) := h.closeUnit
  cases c with
  | powerOnReset => exact ⟨_, rfl, .hardReset s, rfl⟩
  | pinReset => exact ⟨_, rfl, .pinReset s, rfl⟩
  | framePeriod => exact ⟨_, rfl, h.beginPeriod.finished⟩
  | downstreamFrame bytes => exact ⟨_, rfl, h.arrive6.finished⟩
  | returnFrame bytes => exact ⟨_, rfl, h.arrive3, by simp [ho]⟩
  | answerSent => exact ⟨_, rfl, h.answerDone, by simp [ho]⟩
  | fallbackStep => exact ⟨_, rfl, h.fallback.finished⟩
  | linkLost => exact ⟨_, rfl, h.loseLink.finished⟩
  | cueTake => exact ⟨_, rfl, h.takeCue.finished⟩
  | writeTable via table first count records => exact ⟨_, rfl, hc.writeTransfer, by simp [ho]⟩
  | readTable via table first count => exact ⟨_, rfl, hc.readTransfer, by simp [ho]⟩
  | readState via view index => exact ⟨_, rfl, hc.viewTransfer, by simp [ho]⟩
  | setClock via ms day rate runHold =>
    exact ⟨_, rfl, hc.clockTransfer (Nat.le_of_lt_succ day.isLt) (Nat.le_of_lt_succ rate.isLt), by simp [ho]⟩
  | cueTransfer via code => exact ⟨_, rfl, hc.codeTransfer, by simp [ho]⟩
  | execute via records => exact ⟨_, rfl, hc.executeTransfer.finished⟩
  | notices via master enables clear => exact ⟨_, rfl, hc.noticesTransfer, by simp [ho]⟩
  | dormantTransfer via => exact ⟨_, rfl, hc.restTransfer.finished⟩
  | wakeTransfer via => exact ⟨_, rfl, hc.awakeTransfer.finished⟩
  | allStopTransfer via => exact ⟨_, rfl, hc.haltTransfer.finished⟩
  | softReset via => exact ⟨_, rfl, h.resetTransfer, by simp⟩
  | dormantComplete => exact ⟨_, rfl, h.nodeCheck, by simp [ho]⟩
  | pendingSetApply => exact ⟨_, rfl, h.applyPending, by simp [ho]⟩
  | listEntryFire player => exact ⟨_, rfl, h.countdownEnds, by simp [ho]⟩
  | cueFadeEnd channel => exact ⟨_, rfl, h.setLayer rfl, by simp [ho]⟩
  | masterFadeEnd group => exact ⟨_, rfl, h.setMaster, by simp [ho]⟩
  | flagPulseEnd flag => exact ⟨_, rfl, h.setFlag, by simp [ho]⟩
  | coilEnd point => exact ⟨_, rfl, closed_inRange.coilEnds h, by simp [ho]⟩
  | throwComplete point => exact ⟨_, rfl, closed_inRange.throwEnds h, by simp [ho]⟩
  | chainCycleComplete ret inputs => exact ⟨_, rfl, h.completeCycle.finished⟩
  | watchHoldoffEnd watch => exact ⟨_, rfl, h.setWatch, by simp [ho]⟩
  | brakeDelayEnd train => exact ⟨_, rfl, closed_inRange.train _ _ _ h, by simp [ho]⟩
  | arrivalTimeout train => exact ⟨_, rfl, closed_inRange.arrivalTimesOut h, by simp [ho]⟩
  | holdTimerEnd axis => exact ⟨_, rfl, closed_inRange.axis _ _ _ h (h.axes axis).holdEnds, by simp [ho]⟩
  | homeLimit axis => exact ⟨_, rfl, (closed_inRange.homeLimitPasses h).afterEvent, by simp [ho]⟩

/-- Settles O4: the block idles on an empty queue, and otherwise the front command keeps the ranges (`exec_keeps_inRange`),
for which every function of the model has its own lemma in Laws/Range.lean and Laws/RangeLink.lean. -/
theorem stepKeepsInRange : Obligations.StepKeepsInRange := by
  intro s h
  rcases hq : s.pending with _ | ⟨c, rest⟩
  · exact ⟨s, by simp [step, hq], h⟩
  · obtain ⟨t, ht, hi⟩ := exec_keeps_inRange c (s := { s with pending := rest }) ⟨h.1.setPending, h.2⟩
    exact ⟨t, by simpa [step, hq] using ht, hi⟩

end Sys2Proof.Machine
end

section
/-! Actions, lists and takes with nothing owed: what one action of a list does, the records that spell an action, and the take
of a cue by the state of the node (R6 to R11). -/

namespace Sys2Proof.Machine

/-! ## One action of a list -/

/-- An accepted action that leaves trains, axes and the chain's cycle as they stand brings nothing but its own effect. -/
theorem runOne_accepted {code position : Nat} {act : Action} {s u : State} (ho : s.owed = [])
    (h : runAction code act s = (none, u)) (ht : u.trains = s.trains) (ha : u.axes = s.axes)
    (hc : u.chain.inFlight = s.chain.inFlight) : runOne code position act s = (none, u) := by
  simp only [runOne, settle_of_nothing_owed ho, h, afterEvent_of_same ht ha hc]

/-- A refused action that changes nothing latches REFUSED and brings nothing else (R8). -/
theorem runOne_refused {code position : Nat} {act : Action} {reason : Reason} {s : State} (ho : s.owed = [])
    (h : runAction code act s = (some reason, s)) :
    runOne code position act s = (some reason, latch .refused (.refused code position reason) s) := by
  simp only [runOne, settle_of_nothing_owed ho, h, Prod.mk.injEq, true_and]
  exact afterEvent_of_same rfl rfl rfl

@[simp] theorem runList_nil (code position : Nat) (s : State) : runList code position [] s = (⟨0, none⟩, s) := rfl

/-- A list of one accepted action has no refusal (R9). -/
theorem runList_one_accepted {code position : Nat} {act : Action} {s u : State}
    (h : runOne code position act s = (none, u)) : runList code position [act] s = (⟨0, none⟩, u) := by
  simp only [runList, h]

/-- The state after a list is that after its first action and then the rest, refused or not (R7). -/
theorem runList_cons_snd (code position : Nat) (act : Action) (rest : List Action) (s : State) :
    (runList code position (act :: rest) s).2 =
      (runList code (position + 1) rest (runOne code position act s).2).2 := by
  rcases h : runOne code position act s with ⟨_ | reason, u⟩
  · simp only [runList, h]
  · simp only [runList, h]

/-- TRAIN RUN of a train not in use is refused RANGE, also while the node rests (log entry 9). -/
theorem runAction_trainRun_unused {t : TrainId} {s : State} (h : s.tables.trains[t].inUse = false) (code : Nat) :
    runAction code (.trainRun t) s = (some .range, s) := by
  simp only [runAction, whenInUse, h, Bool.false_eq_true, if_false]

/-! ## The records that spell an action -/

/-- An item's number is read back as the item. -/
@[simp] theorem item_val {n : Nat} (i : Fin n) : item n i.val = some i := by simp [item]

theorem decodeAction_flagSet (f : FlagId) (p q : Nat) : decodeAction ⟨4, f.val, p, q⟩ = some (.flagSet f) := by
  simp [decodeAction]

theorem decodeAction_trainRun (t : TrainId) (p q : Nat) : decodeAction ⟨10, t.val, p, q⟩ = some (.trainRun t) := by
  simp [decodeAction]

/-- The pool at the number of one of its records. -/
theorem poolAt_val (s : State) (i : Fin 512) : poolAt s i.val = s.tables.pool[i] := by simp [poolAt]

/-- A cue map record with count 0 names the empty list (R4). -/
theorem cueList_empty {s : State} {code : Nat} (h : code < 256) (hm : s.tables.cueMap[code].count = 0) :
    cueList s code = [] := by
  simp [cueList, h, hm]

/-- Three records of the pool in a row, each an action, are the list of a cue that names them (R4, R7). -/
theorem cueList_three {s : State} {code : Nat} {i j k : Fin 512} {a b c : Action} (h : code < 256)
    (hm : s.tables.cueMap[code] = ⟨i.val, 3⟩) (hj : j.val = i.val + 1) (hk : k.val = i.val + 2)
    (ha : decodeAction s.tables.pool[i] = some a) (hb : decodeAction s.tables.pool[j] = some b)
    (hc : decodeAction s.tables.pool[k] = some c) : cueList s code = [a, b, c] := by
  have hr : List.range 3 = [0, 1, 2] := rfl
  rw [← poolAt_val] at ha hb hc
  rw [hj] at hb
  rw [hk] at hc
  simp [cueList, h, hm, hr, ha, hb, hc]

/-- The list of a cue depends on the tables alone. -/
theorem cueList_congr {s u : State} (h : u.tables = s.tables) (code : Nat) : cueList u code = cueList s code := by
  simp only [cueList, poolAt, h]

/-! ## The take of a cue -/

/-- The queue without its head, and one more take made. -/
def takenCue (rest : List Cue) (s : State) : State :=
  { s with cue := { s.cue with queue := rest, takes := s.cue.takes + 1 } }

@[simp] theorem takenCue_owed (rest : List Cue) (s : State) : (takenCue rest s).owed = s.owed := rfl
@[simp] theorem takenCue_tables (rest : List Cue) (s : State) : (takenCue rest s).tables = s.tables := rfl
@[simp] theorem takenCue_trains (rest : List Cue) (s : State) : (takenCue rest s).trains = s.trains := rfl
@[simp] theorem takenCue_node (rest : List Cue) (s : State) : (takenCue rest s).node = s.node := rfl

/-- Nothing is taken from an empty queue, or after two takes of the frame period (R6). -/
theorem takeCue_none {s : State} (h : s.cue.queue = [] ∨ 2 ≤ s.cue.takes) : takeCue s = s := by
  unfold takeCue
  split
  · rfl
  · next c rest hq =>
    have ht : ¬ s.cue.takes < maxTakes := by
      rcases h with h | h
      · simp [hq] at h
      · exact Nat.not_lt.2 h
    rw [if_neg ht]

/-- The head of the queue is taken and handled (R6). -/
theorem takeCue_head {s : State} {c : Cue} {rest : List Cue} (hq : s.cue.queue = c :: rest) (ht : s.cue.takes < 2) :
    takeCue s = handleCue c.code (takenCue rest s) := by
  simp [takeCue, hq, maxTakes, ht, takenCue]

/-- A DORMANT node takes a cue outside the wake set without effect (R11). -/
theorem handleCue_ignored {s : State} {code : Nat} (hn : s.node = .dormant)
    (hw : s.tables.wakeSet.getLsbD code = false) : handleCue code s = s := by
  simp [handleCue, inWakeSet, hn, hw]

/-- A node that is ACTIVE, or QUIESCING at a cue outside the wake set, runs the cue's list as it stands (R11). -/
theorem handleCue_runs {s : State} {code : Nat}
    (h : s.node = .active ∨ (s.node = .quiescing ∧ s.tables.wakeSet.getLsbD code = false)) :
    handleCue code s = (runList code 0 (cueList s code) s).2 := by
  rcases h with hn | ⟨hn, hw⟩
  · simp [handleCue, hn]
  · simp [handleCue, inWakeSet, hn, hw]

/-- A resting node is woken by a cue of the wake set and then runs its list (R11, R172). -/
theorem handleCue_wakes {s : State} {code : Nat} (hn : s.node ≠ .active) (hw : s.tables.wakeSet.getLsbD code = true) :
    handleCue code s = (runList code 0 (cueList s code) (wake (.cue code) s)).2 := by
  rcases h : s.node with _ | _ | _
  · exact absurd h hn
  all_goals simp [handleCue, inWakeSet, h, hw]

/-- Settles O27: nothing is taken at the two limits; a cue ignored, or one with an empty list, is taken and has no effect. -/
theorem cueTakeLimitsAndEmptyTakes : Obligations.CueTakeLimitsAndEmptyTakes := by
  intro s ho
  refine ⟨fun h => ?_, fun c rest hq ht h => ?_⟩
  · show execCueTake s = _
    rw [execCueTake, takeCue_none h, finish_of_nothing_owed ho]
  · have handled : handleCue c.code (takenCue rest s) = takenCue rest s := by
      rcases h with ⟨hn, hw⟩ | ⟨hn, hc, hm⟩
      · exact handleCue_ignored (s := takenCue rest s) hn hw
      · rw [handleCue_runs (s := takenCue rest s) (.inl hn), cueList_empty (s := takenCue rest s) hc hm, runList_nil]
    show execCueTake s = .next (takenCue rest s)
    rw [execCueTake, takeCue_head hq ht, handled, finish_of_nothing_owed (s := takenCue rest s) ho]

/-! ## EXECUTE of one record -/

/-- A number below 256 is read back from its byte. -/
theorem toNat_byte {n : Nat} (h : n < 256) : (byte n).toNat = n := by
  rw [byte, BitVec.toNat_ofNat]
  exact Nat.mod_eq_of_lt h

/-- The commit of one record whose action is accepted (R161). -/
theorem commitExecute_one_accepted {k a q r : Byte} {act : Action} {s u : State}
    (hd : decodeAction (actionRec [k, a, q, r]) = some act) (h : runOne 0 0 act s = (none, u)) :
    commitExecute [k, a, q, r] s = (.ok, [0, 0xFF], u) := by
  have hacts : (pieces 4 ([k, a, q, r].length / 4) [k, a, q, r]).map (fun bs => decodeAction (actionRec bs)) =
      [some act] := by simp [pieces, hd]
  have hbad : firstBad noBad 0 [some act] = none := rfl
  have hlist : [some act].filterMap id = [act] := rfl
  simp only [commitExecute, hacts, hbad, hlist, runList_one_accepted h]
  rfl

/-- EXECUTE of one record, with nothing owed: an action that is accepted and leaves trains, axes and the chain's cycle as they
stand has its effect on the closed unit, and the outcome is OK with no refusal (R161). -/
theorem exec_execute_accepted {via : Opened} {k q r : Byte} {i : Nat} {act : Action} {s u : State} (ho : s.owed = [])
    (hi : i < 256) (hd : decodeAction ⟨k.toNat, i, q.toNat, r.toNat⟩ = some act)
    (h : runAction 0 act (closeUnit s) = (none, u)) (hu : u.owed = []) (ht : u.trains = s.trains) (ha : u.axes = s.axes)
    (hc : u.chain.inFlight = s.chain.inFlight) :
    exec (.execute via [k, byte i, q, r]) s = .next (outcome via 6 .ok [0, 0xFF] u) := by
  have hone : runOne 0 0 act (closeUnit s) = (none, u) := runOne_accepted ho h ht ha hc
  have hrec : decodeAction (actionRec [k, byte i, q, r]) = some act := by
    rw [← hd, actionRec]
    simp [toNat_byte hi]
  have hdone : executeTransfer via [k, byte i, q, r] (closeUnit s) = outcome via 6 .ok [0, 0xFF] u := by
    simp [executeTransfer, commitExecute_one_accepted hrec hone, conclude]
  show execExecute via [k, byte i, q, r] s = _
  rw [execExecute, hdone, finish_of_nothing_owed (by rw [outcome_owed, hu])]

/-- Zero fade units bring the level at once (R46, R50). -/
theorem startFade_byte (cur level : Nat) (units : Byte) : startFade cur level units.toNat =
    if units = 0 then ⟨level, none⟩ else ⟨cur, some ⟨cur, level, 10 * units.toNat, 0⟩⟩ := by
  have h0 : units.toNat = 0 ↔ units = 0 := by
    rw [BitVec.toNat_eq]
    rfl
  simp only [startFade, h0]

/-- LAMP SET on a channel in use is accepted (R14). -/
theorem runAction_lampSet_inUse {c : ChannelId} {s : State} (h : s.tables.lamps[c].inUse = true)
    (code level units : Nat) : runAction code (.lampSet c level units) s = (none, lampSet c level units s) := by
  simp only [runAction, whenInUse, h, if_true, accepted]

/-- Settles O38: each record spells its action, the action is accepted, and its effect is that of its one function. -/
theorem executeFlagAndLampActions : Obligations.ExecuteFlagAndLampActions := by
  intro via q r s ho
  refine ⟨fun f => ⟨?_, ?_, ?_⟩, fun g => ?_, fun c hu => ?_⟩
  · exact exec_execute_accepted (act := .flagSet f) ho (by omega) (by simp [decodeAction]) rfl ho rfl rfl rfl
  · exact exec_execute_accepted (act := .flagClear f) ho (by omega) (by simp [decodeAction]) rfl ho rfl rfl rfl
  · exact exec_execute_accepted (act := .flagPulse f q.toNat) ho (by omega) (by simp [decodeAction]) rfl ho rfl rfl rfl
  · rw [exec_execute_accepted (act := .groupSet g q.toNat r.toNat) (u := groupSet g q.toNat r.toNat (closeUnit s))
      ho (by omega) (by simp [decodeAction]) rfl ho rfl rfl rfl, groupSet, startFade_byte]
    rfl
  · rw [exec_execute_accepted (act := .lampSet c q.toNat r.toNat) ho (by omega) (by simp [decodeAction])
      (runAction_lampSet_inUse (s := closeUnit s) hu 0 q.toNat r.toNat) ho rfl rfl rfl, lampSet, startFade_byte]
    rfl

end Sys2Proof.Machine
end

section
/-! A cue that wakes the node: while the three requests of the wake are still owed, the state of the node is that of a node
without them but for the dormant hold, the players, the axes and the model's own fields (R172, log entry 6). So a list that
runs between the requests can be followed on the state without them. -/

namespace Sys2Proof.Machine

/-- One of the three requests of a wake (R172). -/
def ofWake (r : Req) : Prop := r = .wakeClock ∨ r = .wakeLists ∨ r = .wakeAxes

/-- `s` is ACTIVE and owes requests of a wake alone, and it has the tables, trains, cue engine and notices of `z`, and its clock but
for the dormant hold, which stands only while the clock is still to be told. -/
structure Waking (z s : State) : Prop where
  node : s.node = .active
  owed : ∀ r ∈ s.owed, ofWake r
  tables : s.tables = z.tables
  trains : s.trains = z.trains
  cue : s.cue = z.cue
  notices : s.notices = z.notices
  clock : s.clock = { z.clock with dormantHold := s.clock.dormantHold }
  hold : .wakeClock ∈ s.owed ∨ s.clock.dormantHold = false

/-! ## Checks and requests of an ACTIVE node -/

/-- The completion check is one of a QUIESCING node (R171). -/
theorem nodeCheck_of_active {s : State} (h : s.node = .active) : nodeCheck s = s := by simp [nodeCheck, h]

theorem afterEvent_of_active {s t : State} (h : t.node = .active) : afterEvent s t = t := by
  unfold afterEvent
  split
  · exact nodeCheck_of_active h
  · rfl

/-- A check that fell due finds an ACTIVE node, and only its mark goes. -/
theorem dueCheck_of_active {s : State} (h : s.node = .active) : dueCheck s = { s with checkDue := false } := by
  unfold dueCheck
  split
  · exact nodeCheck_of_active h
  · next hd => rw [← Bool.eq_false_of_not_eq_true hd]

/-- A request that leaves the node ACTIVE brings no check. -/
theorem reqEvent_of_active {r : Req} {s : State} (h : (runReq r s).node = .active) :
    reqEvent r s = { runReq r s with checkDue := false } := by
  rw [reqEvent, afterEvent_of_active h, dueCheck_of_active h]

namespace Waking

variable {z s : State}

/-- The front request of a wake taken: the clock loses its hold, the players and the axes are no part of the likeness. -/
theorem reqEvent {r : Req} {rs : List Req} (h : Waking z s) (ho : s.owed = r :: rs) :
    Waking z (reqEvent r { s with owed := rs }) ∧ (reqEvent r { s with owed := rs }).owed = rs := by
  have hrs : ∀ q ∈ rs, ofWake q := fun q hq => h.owed q (ho ▸ List.mem_cons_of_mem _ hq)
  have hhold : r ≠ .wakeClock → .wakeClock ∈ rs ∨ s.clock.dormantHold = false := by
    intro hr
    have := h.hold
    rw [ho, List.mem_cons] at this
    exact this.imp_left (fun hm => hm.resolve_left (Ne.symm hr))
  have hunheld : { s.clock with dormantHold := false } = { z.clock with dormantHold := false } :=
    congrArg (fun c : Clock => { c with dormantHold := false }) h.clock
  obtain rfl | rfl | rfl : ofWake r := h.owed r (ho ▸ List.mem_cons_self)
  · rw [reqEvent_of_active (r := .wakeClock) (s := { s with owed := rs }) h.node]
    exact ⟨⟨h.node, hrs, h.tables, h.trains, h.cue, h.notices, hunheld, .inr rfl⟩, rfl⟩
  · rw [reqEvent_of_active (r := .wakeLists) (s := { s with owed := rs }) h.node]
    exact ⟨⟨h.node, hrs, h.tables, h.trains, h.cue, h.notices, h.clock, hhold (by decide)⟩, rfl⟩
  · rw [reqEvent_of_active (r := .wakeAxes) (s := { s with owed := rs }) h.node]
    exact ⟨⟨h.node, hrs, h.tables, h.trains, h.cue, h.notices, h.clock, hhold (by decide)⟩, rfl⟩

theorem takeReqs {left rs : List Req} (h : Waking z s) (ho : s.owed = rs ++ left) :
    Waking z (takeReqs left rs s) := by
  induction rs generalizing s with
  | nil =>
    have hs : { s with owed := left } = s := by rw [← ho.trans (List.nil_append left)]
    rw [Machine.takeReqs, hs]
    exact h
  | cons r rs ih =>
    obtain ⟨hw, hl⟩ := h.reqEvent (rs := rs ++ left) ho
    exact ih hw hl

/-- A draw of the model changes nothing that is compared. -/
theorem draw (h : Waking z s) : Waking z (draw s).2 := by
  obtain ⟨cs, n, e⟩ := draw_snd s
  rw [e]
  exact ⟨h.node, h.owed, h.tables, h.trains, h.cue, h.notices, h.clock, h.hold⟩

theorem settle (h : Waking z s) : Waking z (settle s) := by
  unfold Machine.settle
  split
  · exact h
  · dsimp only
    refine h.draw.takeReqs ?_
    obtain ⟨cs, n, e⟩ := draw_snd s
    rw [e, List.take_append_drop]

theorem finish (h : Waking z s) : Waking z (finish s) := h.takeReqs (List.append_nil _).symm

/-- The wake of a resting node with nothing owed: WAKE is latched (R172). -/
theorem wake {src : WakeSource} (ho : s.owed = []) (hn : s.node ≠ .active) :
    Waking (Machine.latch .wake (.wake src) s) (wake src s) := by
  have hw : Machine.wake src s = handOn [.wakeClock, .wakeLists, .wakeAxes]
      (Machine.latch .wake (.wake src) { s with node := .active }) := by
    unfold Machine.wake
    split
    · next h => exact absurd h hn
    all_goals rfl
  rw [hw, handOn]
  generalize hu : Machine.latch .wake (.wake src) { s with node := .active } = u
  have huo : u.owed = [] := hu ▸ ho
  obtain ⟨cs, n, e⟩ := arrange_snd [Req.wakeClock, .wakeLists, .wakeAxes] u
  rw [e]
  subst hu
  refine ⟨rfl, fun r hr => ?_, rfl, rfl, rfl, rfl, rfl, .inl ?_⟩
  · rw [huo, List.nil_append, mem_arrange] at hr
    simpa [ofWake] using hr
  · rw [huo, List.nil_append, mem_arrange]
    exact List.mem_cons_self

/-! ## Actions between the requests -/

theorem setFlag {f : FlagId} {x : Flag} (h : Waking z s) : Waking (setFlag f x z) (setFlag f x s) :=
  ⟨h.node, h.owed, h.tables, h.trains, by simp [h.cue], h.notices, h.clock, h.hold⟩

theorem latch {k : NoticeKind} {d : Detail} (h : Waking z s) : Waking (latch k d z) (latch k d s) :=
  ⟨h.node, h.owed, h.tables, h.trains, h.cue, by simp [Machine.latch, latchOf, h.notices], h.clock, h.hold⟩

/-- FLAG SET between the requests of a wake sets the flag. -/
theorem runOne_flagSet {code position : Nat} {f : FlagId} (h : Waking z s) :
    Waking (Machine.setFlag f ⟨true, none⟩ z) (runOne code position (.flagSet f) s).2 := by
  have hs := h.settle.setFlag (f := f) (x := ⟨true, none⟩)
  show Waking _ (Machine.afterEvent _ (Machine.setFlag f ⟨true, none⟩ (Machine.settle s)))
  rw [afterEvent_of_active hs.node]
  exact hs

/-- TRAIN RUN of a train not in use, between the requests of a wake, latches REFUSED (R8, R17). -/
theorem runOne_trainRun_unused {code position : Nat} {t : TrainId} (h : Waking z s)
    (ht : z.tables.trains[t].inUse = false) :
    Waking (Machine.latch .refused (.refused code position .range) z) (runOne code position (.trainRun t) s).2 := by
  have hs := h.settle.latch (k := .refused) (d := .refused code position .range)
  have hr := runAction_trainRun_unused (h.settle.tables ▸ ht) code
  simp only [runOne, hr]
  rw [afterEvent_of_active hs.node]
  exact hs

/-- The notice latches are compared. -/
theorem latchOf_eq (h : Waking z s) (k : NoticeKind) : latchOf s k = latchOf z k := by
  simp only [latchOf, h.notices]

/-- A finished wake owes nothing and leaves no dormant hold. -/
theorem clock_of_owed_nil (h : Waking z s) (ho : s.owed = []) : s.clock = { z.clock with dormantHold := false } := by
  have hh : s.clock.dormantHold = false := h.hold.resolve_left (by simp [ho])
  rw [← hh]
  exact h.clock

end Waking

/-! ## The list FLAG SET, TRAIN RUN, FLAG SET -/

/-- With nothing owed: both flags are set and the refused TRAIN RUN between them latches REFUSED at position 1 (R7, R8). -/
theorem runList_flag_unusedRun_flag {s : State} {t : TrainId} (ho : s.owed = []) (ht : s.tables.trains[t].inUse = false)
    (code : Nat) (f g : FlagId) : (runList code 0 [.flagSet f, .trainRun t, .flagSet g] s).2 =
      setFlag g ⟨true, none⟩ (latch .refused (.refused code 1 .range) (setFlag f ⟨true, none⟩ s)) := by
  let s1 := setFlag f ⟨true, none⟩ s
  let s2 := latch .refused (.refused code 1 .range) s1
  have h1 : runOne code 0 (.flagSet f) s = (none, s1) := runOne_accepted ho rfl rfl rfl rfl
  have h2 : runOne code 1 (.trainRun t) s1 = (some .range, s2) :=
    runOne_refused ho (runAction_trainRun_unused (s := s1) ht code)
  have h3 : runOne code 2 (.flagSet g) s2 = (none, setFlag g ⟨true, none⟩ s2) := runOne_accepted ho rfl rfl rfl rfl
  rw [runList_cons_snd, h1, runList_cons_snd, h2, runList_cons_snd, h3, runList_nil]

/-- Between the requests of a wake the list does the same to what is compared. -/
theorem Waking.runList_flag_unusedRun_flag {z s : State} {t : TrainId} (h : Waking z s)
    (ht : z.tables.trains[t].inUse = false) (code : Nat) (f g : FlagId) :
    Waking (Machine.setFlag g ⟨true, none⟩ (Machine.latch .refused (.refused code 1 .range) (Machine.setFlag f ⟨true, none⟩ z)))
      (runList code 0 [.flagSet f, .trainRun t, .flagSet g] s).2 := by
  simp only [runList_cons_snd, runList_nil, Nat.reduceAdd]
  exact ((h.runOne_flagSet (f := f)).runOne_trainRun_unused ht).runOne_flagSet

/-- A flag is no latch. -/
theorem latchOf_setFlag (f : FlagId) (x : Flag) (s : State) (k : NoticeKind) :
    latchOf (setFlag f x s) k = latchOf s k := rfl

/-- The latch of another kind is left. -/
theorem latchOf_latch_ne {k l : NoticeKind} (h : k.idx ≠ l.idx) (d : Detail) (s : State) :
    latchOf (latch k d s) l = latchOf s l := by
  simp only [latchOf, latch, Fin.getElem_fin]
  exact Vector.getElem_set_ne _ _ (by simpa [Fin.ext_iff] using h)

/-- The latch of the kind takes the detail (R165). -/
theorem latchOf_latch (k : NoticeKind) (d : Detail) (s : State) : latchOf (latch k d s) k = (latchOf s k).take d := by
  simp [latchOf, latch]

/-- Settles O28: the list is run with nothing owed, or between the requests of the wake (`Waking`), which `finish` takes. -/
theorem cueTakeRunsItsList : Obligations.CueTakeRunsItsList := by
  intro s c rest i j k f g t p q ho hq htk hmap hj hk hpi hpj hpk ht cue
  obtain ⟨hc, hm⟩ := hmap
  have hlist : cueList (takenCue rest s) c.code = [.flagSet f, .trainRun t, .flagSet g] :=
    cueList_three (s := takenCue rest s) hc hm hj hk (by rw [takenCue_tables, hpi, decodeAction_flagSet])
      (by rw [takenCue_tables, hpj, decodeAction_trainRun]) (by rw [takenCue_tables, hpk, decodeAction_flagSet])
  have hexec : exec .cueTake s = .next (finish (handleCue c.code (takenCue rest s))) := by
    rw [← takeCue_head hq htk]
    rfl
  refine ⟨fun hn => ?_, fun hn hw => ?_⟩
  · rw [hexec, handleCue_runs (s := takenCue rest s) hn, hlist, runList_flag_unusedRun_flag (s := takenCue rest s) ho ht,
      finish_of_nothing_owed (by exact ho)]
    rfl
  · have hwake := Waking.wake (s := takenCue rest s) (src := .cue c.code) ho hn
    have h := (hwake.runList_flag_unusedRun_flag (t := t) ht c.code f g).finish
    have hdone := finish_owed (runList c.code 0 [.flagSet f, .trainRun t, .flagSet g]
      (wake (.cue c.code) (takenCue rest s))).2
    rw [hexec, handleCue_wakes (s := takenCue rest s) hn hw, hlist]
    generalize finish _ = u at h hdone ⊢
    refine ⟨u, rfl, h.node, hdone, ?_, ?_, h.cue, h.clock_of_owed_nil hdone, ?_, ?_⟩
    · rw [h.latchOf_eq, latchOf_setFlag, latchOf_latch_ne (by decide), latchOf_setFlag, latchOf_latch]
      rfl
    · rw [h.latchOf_eq, latchOf_setFlag, latchOf_latch, latchOf_setFlag, latchOf_latch_ne (by decide)]
      rfl
    · rw [h.trains, setFlag_trains, latch_trains, setFlag_trains, latch_trains, takenCue_trains]
    · rw [h.tables, setFlag_tables, latch_tables, setFlag_tables, latch_tables, takenCue_tables]

end Sys2Proof.Machine
end

section
/-! The List Players' moments: what one firing of a player at its last count does, and how the firings of one step follow
one another (R35, R36); and LIST STOP (R37). -/

namespace Sys2Proof.Machine

/-! ## Cues and players are apart -/

/-- A cue that arrives changes the Cue Engine and the notices alone (R2, R3). -/
theorem appendCue_eq (code : Nat) (source : Source) (s : State) :
    ∃ c n, appendCue code source s = { s with cue := c, notices := n } := by
  unfold appendCue
  split
  · exact ⟨s.cue, s.notices, rfl⟩
  · split
    · exact ⟨_, s.notices, rfl⟩
    · exact ⟨s.cue, _, rfl⟩

@[simp] theorem appendCue_players (code : Nat) (source : Source) (s : State) :
    (appendCue code source s).players = s.players := by
  obtain ⟨c, n, e⟩ := appendCue_eq code source s
  rw [e]

@[simp] theorem appendCue_tables (code : Nat) (source : Source) (s : State) :
    (appendCue code source s).tables = s.tables := by
  obtain ⟨c, n, e⟩ := appendCue_eq code source s
  rw [e]

/-- The queue does not depend on the players. -/
theorem appendCue_setPlayer (code : Nat) (source : Source) (p : PlayerId) (x : Player) (s : State) :
    appendCue code source (setPlayer p x s) = setPlayer p x (appendCue code source s) := by
  unfold appendCue
  rw [apply_ite (setPlayer p x), apply_ite (setPlayer p x)]
  rfl

/-- Of two values given to a player the later stays. -/
@[simp] theorem setPlayer_setPlayer (p : PlayerId) (x y : Player) (s : State) :
    setPlayer p x (setPlayer p y s) = setPlayer p x s := by simp [setPlayer]

/-- A player given the value it has. -/
theorem setPlayer_self (p : PlayerId) (s : State) : setPlayer p s.players[p] s = s := by simp [setPlayer]

/-- A player's value set after a cue was appended. -/
theorem setPlayer_appendCue (p : PlayerId) (x : Player) (code : Nat) (source : Source) (s : State) :
    setPlayer p x (appendCue code source s) =
      { appendCue code source s with players := s.players.set p x } := by simp [setPlayer]

/-! ## List memory -/

/-- List memory at the number of one of its entries. -/
theorem entryAt_val (s : State) (i : Fin 512) : entryAt s i.val = s.tables.listMem[i] := by simp [entryAt]

/-- List memory is a table. -/
theorem entryAt_congr {s u : State} (h : u.tables = s.tables) (i : Nat) : entryAt u i = entryAt s i := by
  simp only [entryAt, h]

/-- A CUE entry is arrived at with its own delay (R32, R33). -/
theorem entryDelay_cueEntry {s : State} {i : Fin 512} {delay code : Nat}
    (h : s.tables.listMem[i] = ⟨false, delay, code⟩) : entryDelay (entryAt s i.val) = delay := by
  rw [entryAt_val, h]
  rfl

/-- An END is arrived at with delay 0 (R32, R33). -/
theorem entryDelay_endEntry {s : State} {i : Fin 512} {delay code : Nat}
    (h : s.tables.listMem[i] = ⟨true, delay, code⟩) : entryDelay (entryAt s i.val) = 0 := by
  rw [entryAt_val, h]
  rfl

/-! ## One firing of a PLAYING player whose countdown has run out -/

section
variable {p : PlayerId} {i delay code : Nat} {s : State}

/-- A player arrives at an entry with its delay; with delay 0 the entry fires in the same step (R33, R35). -/
theorem arrive_setPlayer (p : PlayerId) (x : Player) (i : Nat) (s : State) :
    arrive p i (setPlayer p x s) = (decide (entryDelay (entryAt s i) = 0),
      setPlayer p ⟨x.state, i, entryDelay (entryAt s i)⟩ s) := by
  have hmem : entryAt (setPlayer p x s) i = entryAt s i := entryAt_congr rfl i
  simp [arrive, hmem]

/-- A player arrives at an entry after a cue was appended. -/
theorem arrive_appendCue (p : PlayerId) (x : Player) (i code : Nat) (source : Source) (s : State) :
    arrive p i (appendCue code source (setPlayer p x s)) = (decide (entryDelay (entryAt s i) = 0),
      setPlayer p ⟨x.state, i, entryDelay (entryAt s i)⟩ (appendCue code source s)) := by
  rw [appendCue_setPlayer, arrive_setPlayer, entryAt_congr (appendCue_tables code source s)]

/-- A CUE entry below index 511 appends its code, and the player arrives at the next entry (R35). -/
theorem fireEntry_cue (he : entryAt s i = ⟨false, delay, code⟩) (hi : i < 511) :
    fireEntry p (setPlayer p ⟨.playing, i, 0⟩ s) = (decide (entryDelay (entryAt s (i + 1)) = 0), 1,
      setPlayer p ⟨.playing, i + 1, entryDelay (entryAt s (i + 1))⟩ (appendCue code .list s)) := by
  have hmem : entryAt (setPlayer p ⟨.playing, i, 0⟩ s) i = ⟨false, delay, code⟩ := (entryAt_congr rfl i).trans he
  simp [fireEntry, hmem, hi, arrive_appendCue]

/-- An END of a LOOP list appends the end cue, and the player arrives at the start entry (R36). -/
theorem fireEntry_end_loop (he : entryAt s i = ⟨true, delay, code⟩) (hm : s.tables.listDir[p].mode = .loop) :
    fireEntry p (setPlayer p ⟨.playing, i, 0⟩ s) =
      (decide (entryDelay (entryAt s s.tables.listDir[p].start) = 0), 1,
        setPlayer p ⟨.playing, s.tables.listDir[p].start, entryDelay (entryAt s s.tables.listDir[p].start)⟩
          (appendCue s.tables.listDir[p].endCue .list s)) := by
  have hmem : entryAt (setPlayer p ⟨.playing, i, 0⟩ s) i = ⟨true, delay, code⟩ := (entryAt_congr rfl i).trans he
  simp only [Fin.getElem_fin] at hm
  simp [fireEntry, fireEnd, hmem, hm, arrive_appendCue]

/-- An END outside LOOP stops the player, appends the end cue and latches LIST_END (R36). -/
theorem fireEntry_end_stops (he : entryAt s i = ⟨true, delay, code⟩) (hm : s.tables.listDir[p].mode ≠ .loop) :
    fireEntry p (setPlayer p ⟨.playing, i, 0⟩ s) = (false, 1, latch .listEnd (.player p)
      (appendCue s.tables.listDir[p].endCue .list (setPlayer p ⟨.stopped, i, 0⟩ s))) := by
  have hmem : entryAt (setPlayer p ⟨.playing, i, 0⟩ s) i = ⟨true, delay, code⟩ := (entryAt_congr rfl i).trans he
  simp only [Fin.getElem_fin] at hm
  rcases hr : s.tables.listDir[p.val].mode with _ | _ | _
  · simp [fireEntry, fireEnd, hmem, hr]
  · exact absurd hr hm
  · simp [fireEntry, fireEnd, hmem, hr]

end

/-! ## The firings of one step -/

section
variable {fuel left n : Nat} {p : PlayerId} {s u : State}

/-- A firing after which no entry is due is the last. -/
theorem fireEntries_last (h : fireEntry p s = (false, n, u)) : fireEntries (fuel + 1) left p s = u := by
  simp [fireEntries, h]

/-- A firing that counts one and leaves the next entry due is followed by the firings that are left. -/
theorem fireEntries_next (h : fireEntry p s = (true, 1, u)) :
    fireEntries (fuel + 1) (left + 2) p s = fireEntries fuel (left + 1) p u := by
  simp [fireEntries, h]

/-- The firing that meets the limit cuts the step short: the player waits with countdown 1 (R35). -/
theorem fireEntries_limit (h : fireEntry p s = (true, 1, u)) :
    fireEntries (fuel + 1) 1 p s = setPlayer p { u.players[p] with countdown := 1 } u := by
  simp [fireEntries, h]

/-- An entry that fires again and again without effect fires up to the limit, whatever the limit is. -/
theorem fireEntries_spin (h : fireEntry p s = (true, 1, s)) (n : Nat) :
    fireEntries (n + 1) (n + 1) p s = setPlayer p { s.players[p] with countdown := 1 } s := by
  induction n with
  | zero => exact fireEntries_limit h
  | succ n ih => rw [fireEntries_next h, ih]

/-- LIST_ENTRY_FIRE of a PLAYING player at its last count: the countdown reaches 0 and the firings begin, sixteen at most. -/
theorem exec_listEntryFire_due (hs : s.players[p].state = .playing) (hc : s.players[p].countdown ≤ 1) :
    exec (.listEntryFire p) s =
      .next (fireEntries 16 16 p (setPlayer p ⟨.playing, s.players[p].index, 0⟩ s)) := by
  show Host.Outcome.next (countdownEnds p s) = _
  simp only [countdownEnds, hs, hc, if_true, maxFires]

end

/-- Settles O51: each clause follows the firings of the step one by one; in the last the END fires without effect up to the
limit (`fireEntries_spin`). -/
theorem listEntryFires : Obligations.ListEntryFires := by
  intro p s i hs hc hi
  rw [exec_listEntryFire_due hs hc, hi]
  refine ⟨?_, ?_, ?_, ?_, ?_⟩
  · intro j delay code d code' hj hei hej hd
    have hfire := fireEntry_cue (p := p) ((entryAt_val s i).trans hei) (by omega)
    rw [← hj, entryDelay_cueEntry hej, decide_eq_false hd.ne'] at hfire
    rw [fireEntries_last hfire, setPlayer_appendCue]
  · intro j k delay code code' d code'' hj hk hei hej hek hd
    let u := appendCue code .list s
    have hu : u.tables = s.tables := appendCue_tables ..
    have hfire := fireEntry_cue (p := p) ((entryAt_val s i).trans hei) (by omega)
    rw [← hj, entryDelay_cueEntry hej] at hfire
    have hnext := fireEntry_cue (s := u) (p := p) ((entryAt_val u j).trans (hu ▸ hej)) (by omega)
    rw [show j.val + 1 = k.val by omega, entryDelay_cueEntry (s := u) (hu ▸ hek), decide_eq_false hd.ne'] at hnext
    rw [fireEntries_next hfire, fireEntries_last hnext, setPlayer_appendCue, appendCue_players]
  · intro delay code hei hm
    rw [fireEntries_last (fireEntry_end_stops ((entryAt_val s i).trans hei) hm)]
    rfl
  · intro j delay code d code' hei hm hst hej hd
    have hfire := fireEntry_end_loop ((entryAt_val s i).trans hei) hm
    rw [hst, entryDelay_cueEntry hej, decide_eq_false hd.ne'] at hfire
    rw [fireEntries_last hfire, setPlayer_appendCue]
  · intro delay code hei hm hst hend
    have hfire := fireEntry_end_loop ((entryAt_val s i).trans hei) hm
    rw [hst, entryDelay_endEntry hei, hend, appendCue_zero] at hfire
    rw [fireEntries_spin hfire 15, setPlayer_setPlayer]
    simp [setPlayer]

/-! ## LIST STOP -/

/-- A wake leaves a STOPPED player STOPPED (R38). -/
theorem wakeLists_stopped {p : PlayerId} {s : State} (h : s.players[p].state = .stopped) :
    (wakeLists s).players[p] = s.players[p] := by
  simp only [wakeLists, tab_get, h]

/-- LIST STOP of a STOPPED player changes nothing (R37). -/
theorem listStop_of_stopped {p : PlayerId} {s : State} (h : s.players[p].state = .stopped) : listStop p s = s := by
  rw [listStop, ← h]
  exact setPlayer_self p s

/-- LIST STOP leaves the player STOPPED (R37). -/
theorem listStop_state (p : PlayerId) (s : State) : (listStop p s).players[p].state = .stopped := by simp [listStop]

/-- Settles O40: LIST STOP is accepted without a look at the node or the player, and has the effect of `listStop`. -/
theorem listStopStopsPlayer : Obligations.ListStopStopsPlayer := by
  intro p s
  refine ⟨fun code => rfl, listStop_of_stopped, ?_, fun via q r ho => ?_⟩
  · show (wakeLists (listStop p s)).players[p].state = .stopped
    rw [wakeLists_stopped (listStop_state p s), listStop_state]
  · exact exec_execute_accepted (act := .listStop p) ho (by omega) (by simp [decodeAction]) rfl ho rfl rfl rfl

end Sys2Proof.Machine
end

section
/-! The moments of the clock, the fades, the flags and the watches: each at its last count (R21, R27, R47, R50, R135). -/

namespace Sys2Proof.Machine

/-- With no set present nothing is applied (R27). -/
theorem applyPendingSet_none {s : State} (h : s.clock.pendingSet = none) : applyPendingSet s = s := by
  simp only [applyPendingSet, h]

/-- A pending set present is applied to the clock (R27). -/
theorem applyPendingSet_some {s : State} {p : PendingSet} (h : s.clock.pendingSet = some p) :
    applyPendingSet s = setClock (applySet p s.clock) s := by
  simp only [applyPendingSet, h]

/-- A fade at its last step gives way to its to-level (R47). -/
theorem fadeEnds_last {v : Nat} {f : Fade} (h : f.len ≤ f.elapsed + 1) : fadeEnds ⟨v, some f⟩ = ⟨f.to_, none⟩ := by
  simp only [fadeEnds, h, if_true]

/-- A pulse at its last count clears its flag (R21). -/
theorem flagPulseEnds_last {x : Flag} {n : Nat} (h : x.pulse = some n) (hn : n ≤ 1) :
    flagPulseEnds x = ⟨false, none⟩ := by
  simp only [flagPulseEnds, h, hn, if_true]

/-- A hold-off at its last count becomes 0 (R135). -/
theorem holdOffEnds_last {w : Watch} (h : w.holdOff ≤ 1) : holdOffEnds w = ⟨w.isMatch, 0⟩ := by
  simp only [holdOffEnds, h, if_true]

/-- Settles O52: each command replaces one value of its block, and that value's own lemma says by what. -/
theorem clockFadesPulsesAndHoldOffs : Obligations.ClockFadesPulsesAndHoldOffs := by
  intro s
  refine ⟨?_, ?_, ?_, ?_, ?_, ?_, ?_⟩
  · intro h
    exact congrArg Host.Outcome.next (applyPendingSet_none h)
  · intro ms h
    exact congrArg Host.Outcome.next (applyPendingSet_some h)
  · intro ms day rate run h
    exact congrArg Host.Outcome.next (applyPendingSet_some h)
  · intro c v f hf h
    show execCueFadeEnd c s = _
    rw [execCueFadeEnd, h, Option.map_some, fadeEnds_last hf]
    rfl
  · intro g v f hf h
    show execMasterFadeEnd g s = _
    rw [execMasterFadeEnd, h, fadeEnds_last hf]
    rfl
  · intro f n h hn
    show execFlagPulseEnd f s = _
    rw [execFlagPulseEnd, flagPulseEnds_last h hn]
    rfl
  · intro w h
    show execWatchHoldoffEnd w s = _
    rw [execWatchHoldoffEnd, holdOffEnds_last h]
    rfl

end Sys2Proof.Machine
end

section
/-! The last two stages of the level computation, and what they make of a channel's output at a scene step (R51, R53). -/

namespace Sys2Proof.Machine

variable {s : State} {c : ChannelId} {r : LampRec}

/-! ## The master stage (R51) -/

/-- A full master leaves the mix as it is. -/
@[simp] theorem masterStage_full_master (P : Nat) : masterStage P 255 = P := by
  unfold masterStage
  omega

/-- A full mix takes the master's level. -/
@[simp] theorem masterStage_full_mix (M : Nat) : masterStage 255 M = M := by
  unfold masterStage
  omega

/-- A master at 0 darkens every mix. -/
@[simp] theorem masterStage_zero_master (P : Nat) : masterStage P 0 = 0 := by
  simp [masterStage]

/-- A mix of 0 stays dark under every master. -/
@[simp] theorem masterStage_zero_mix (M : Nat) : masterStage 0 M = 0 := by
  simp [masterStage]

/-! ## The limit stage (R53) -/

/-- What the limit stage lets through is dark or lies within the limits. -/
theorem limitStage_zero_or_within {lo hi : Nat} (h : lo ≤ hi) (Q : Nat) :
    limitStage lo hi Q = 0 ∨ (lo ≤ limitStage lo hi Q ∧ limitStage lo hi Q ≤ hi) := by
  by_cases hQ : Q = 0
  · exact .inl (if_pos hQ)
  · have hout : limitStage lo hi Q = max lo (min hi Q) := if_neg hQ
    have hlo : lo ≤ limitStage lo hi Q := hout ▸ le_max_left ..
    exact .inr ⟨hlo, limitStage_le h⟩

/-! ## The level of a channel (Table 3-1) -/

/-- In ACTIVE a channel with no flash line gives its mix through the master stage and the limit stage. -/
theorem channelLevel_of_active (layer : Option Level) (M : Nat) (ha : s.node = .active) (hf : r.flashLine = none) :
    channelLevel s r layer M = limitStage r.lo r.hi (masterStage (mix r.mode (sceneValue s r) layer) M) := by
  simp only [channelLevel, ha, hf]

/-- Whichever level feeds it (the dormant level, the flash level or the master stage), the limit stage comes last. -/
theorem channelLevel_eq_limitStage (s : State) (r : LampRec) (layer : Option Level) (M : Nat) :
    ∃ Q, channelLevel s r layer M = limitStage r.lo r.hi Q := by
  unfold channelLevel
  cases s.node with
  | quiescing => exact ⟨_, rfl⟩
  | dormant => exact ⟨_, rfl⟩
  | active =>
    cases r.flashLine with
    | none => exact ⟨_, rfl⟩
    | some l =>
      dsimp only
      split
      · exact ⟨_, rfl⟩
      · exact ⟨_, rfl⟩

/-! ## The output of a channel after a scene step (R43) -/

/-- A step gives an in-use channel the level of its layer and its group master as that step left them. -/
theorem stepLamps_out (hu : s.tables.lamps[c].inUse = true) :
    (stepLamps s).lamp.chans[c].out = channelLevel s s.tables.lamps[c] (s.lamp.chans[c].layer.map fadeStep)
      (stepLamps s).lamp.masters[s.tables.lamps[c].group].value := by
  simp only [stepLamps, tab_get, channelStep, hu, if_true]

/-- In every node state a step leaves an in-use channel dark or within its limits. -/
theorem stepLamps_out_zero_or_within (hu : s.tables.lamps[c].inUse = true)
    (hl : s.tables.lamps[c].lo ≤ s.tables.lamps[c].hi) :
    (stepLamps s).lamp.chans[c].out = 0 ∨
      (s.tables.lamps[c].lo ≤ (stepLamps s).lamp.chans[c].out ∧
        (stepLamps s).lamp.chans[c].out ≤ s.tables.lamps[c].hi) := by
  obtain ⟨Q, hQ⟩ := channelLevel_eq_limitStage s s.tables.lamps[c] (s.lamp.chans[c].layer.map fadeStep)
    (stepLamps s).lamp.masters[s.tables.lamps[c].group].value
  rw [stepLamps_out hu, hQ]
  exact limitStage_zero_or_within hl Q

/-- Settles O58: the limit stage comes last in every node state, and in ACTIVE without a flash line the master stage
feeds it. -/
theorem masterAndLimitStages : Obligations.MasterAndLimitStages := by
  refine ⟨fun _ _ => rfl, ?_, by decide, by decide, ?_, ?_⟩
  · intro x _
    exact ⟨masterStage_full_master x, masterStage_full_mix x, masterStage_zero_master x, masterStage_zero_mix x⟩
  · intro s c hu ha hf
    exact (stepLamps_out hu).trans (channelLevel_of_active _ _ ha hf)
  · intro s c hu hl
    exact stepLamps_out_zero_or_within hu hl

end Sys2Proof.Machine
end


section
/-! Trains and sections in agreement, in the form the proofs use: what holds of a train by itself (`Fit`), what ties it to
the sections (`Placed`), and what holds of a section (`SectionOk`), each a statement about plain values; so an update that
touches neither trains nor sections nor their records leaves all three by unfolding alone (R62, R84 to R87). -/

namespace Sys2Proof.Machine

/-! ## One item of a vector replaced -/

theorem get_set_same {α : Type} {n : Nat} (v : Vector α n) (i : Fin n) (x : α) : (v.set i x)[i] = x := by simp

theorem get_set_ne {α : Type} {n : Nat} (v : Vector α n) {i j : Fin n} (x : α) (h : j ≠ i) : (v.set i x)[j] = v[j] := by
  simp only [Fin.getElem_fin]
  exact Vector.getElem_set_ne _ _ (by simpa [Fin.ext_iff, eq_comm] using h)

/-! ## The three parts of the agreement -/

/-- What holds of a train by itself, under its record. -/
structure Fit (r : TrainRec) (x : Train) : Prop where
  route : r.inUse = true ∨ x.state ≠ .parked → RouteOk r
  few : x.hold.length ≤ 3
  once : x.hold.Nodup
  holdsNone : x.hold = [] ↔ x.state = .parked
  waitsFree : x.queued ≠ none → x.res = none ∧ (x.state = .waiting ∨ x.state = .approach)
  unreserved : x.state = .parked ∨ x.state = .stopped → x.res = none
  running : x.state = .running → x.target = x.cruise ∧ ∃ n, x.res = some (n, .set)
  target : x.state ≠ .running → x.state ≠ .approach → x.target = 0

/-- What a train says of the sections, the sections say of the train. -/
structure Placed (t : TrainId) (x : Train) (secs : Vector Section 16) : Prop where
  holds : ∀ n : SectionId, n ∈ x.hold ↔ ∃ kept, secs[n].state = .held t kept
  reserves : ∀ (n : SectionId) ph, x.res = some (n, ph) ↔ ∃ kept, secs[n].state = .reserved t ph kept
  waits : ∀ n : SectionId, t ∈ secs[n].queue ↔ x.queued = some n

/-- What holds of a section, under its record. -/
structure SectionOk (r : SectionRec) (x : Section) : Prop where
  unused : r.inUse = false → x.state = .free
  queueFew : x.queue.length ≤ 3
  queueOnce : x.queue.Nodup

/-- One train agrees with the sections. -/
def Settled (s : State) (t : TrainId) : Prop :=
  Placed t s.trains[t] s.secs ∧ Fit s.tables.trains[t] s.trains[t]

/-- Every section is as it may be. -/
def SectionsOk (s : State) : Prop := ∀ n : SectionId, SectionOk s.tables.sections[n] s.secs[n]

/-- Every train agrees with the sections. -/
def Agree (s : State) : Prop := (∀ t, Settled s t) ∧ SectionsOk s

/-- Every train but one agrees with the sections. -/
def AgreeBut (t : TrainId) (s : State) : Prop := (∀ u, u ≠ t → Settled s u) ∧ SectionsOk s

theorem trainConsistent_iff {s : State} {t : TrainId} : TrainConsistent s t ↔ Settled s t :=
  ⟨fun h => ⟨⟨h.holds, h.reserves, h.waits⟩,
      ⟨h.route, h.holdsFew, h.holdsOnce, h.holdsNone, h.waitsFree, h.unreserved, h.running, h.target⟩⟩,
    fun ⟨p, f⟩ => ⟨f.route, f.few, f.once, p.holds, f.holdsNone, p.reserves, p.waits, f.waitsFree, f.unreserved, f.running,
      f.target⟩⟩

theorem sectionConsistent_iff {s : State} {n : SectionId} :
    SectionConsistent s n ↔ SectionOk s.tables.sections[n] s.secs[n] :=
  ⟨fun h => ⟨h.unused, h.queueFew, h.queueOnce⟩, fun h => ⟨h.unused, h.queueFew, h.queueOnce⟩⟩

/-- The parts say what `TrackConsistent` says. -/
theorem trackConsistent_iff {s : State} : TrackConsistent s ↔ Agree s :=
  and_congr (forall_congr' fun _ => trainConsistent_iff) (forall_congr' fun _ => sectionConsistent_iff)

theorem Agree.but {s : State} (h : Agree s) (t : TrainId) : AgreeBut t s := ⟨fun u _ => h.1 u, h.2⟩

/-- The last train agrees too. -/
theorem AgreeBut.agree {s : State} {t : TrainId} (h : AgreeBut t s) (ht : Settled s t) : Agree s :=
  ⟨fun u => if e : u = t then e ▸ ht else h.1 u e, h.2⟩

/-! ## A section that changes for other trains -/

/-- A train's part in a section is the same in `y` as in `x`. -/
structure Aside (u : TrainId) (x y : Section) : Prop where
  held : (∃ kept, y.state = .held u kept) ↔ ∃ kept, x.state = .held u kept
  reserved : ∀ ph, (∃ kept, y.state = .reserved u ph kept) ↔ ∃ kept, x.state = .reserved u ph kept
  queue : u ∈ y.queue ↔ u ∈ x.queue

theorem Aside.refl (u : TrainId) (x : Section) : Aside u x x := ⟨Iff.rfl, fun _ => Iff.rfl, Iff.rfl⟩

theorem Aside.trans {u : TrainId} {x y z : Section} (h : Aside u x y) (k : Aside u y z) : Aside u x z :=
  ⟨k.held.trans h.held, fun ph => (k.reserved ph).trans (h.reserved ph), k.queue.trans h.queue⟩

/-- Neither state names the train, and the queue is the same to it. -/
theorem Aside.of_not_owner {u : TrainId} {x y : Section} (hx : ownerOf x.state ≠ some u) (hy : ownerOf y.state ≠ some u)
    (hq : u ∈ y.queue ↔ u ∈ x.queue) : Aside u x y := by
  have none_held : ∀ z : Section, ownerOf z.state ≠ some u → ¬ ∃ kept, z.state = .held u kept :=
    fun z hz ⟨_, e⟩ => hz (by rw [e]; rfl)
  have none_reserved : ∀ z : Section, ownerOf z.state ≠ some u → ∀ ph, ¬ ∃ kept, z.state = .reserved u ph kept :=
    fun z hz _ ⟨_, e⟩ => hz (by rw [e]; rfl)
  exact ⟨iff_of_false (none_held y hy) (none_held x hx),
    fun ph => iff_of_false (none_reserved y hy ph) (none_reserved x hx ph), hq⟩

/-- The state stays, and the queue is the same to the train. -/
theorem Aside.of_state {u : TrainId} {x y : Section} (h : y.state = x.state) (hq : u ∈ y.queue ↔ u ∈ x.queue) :
    Aside u x y := ⟨by rw [h], fun ph => by rw [h], hq⟩

theorem Placed.of_aside {u : TrainId} {x : Train} {secs secs' : Vector Section 16} (h : Placed u x secs)
    (k : ∀ m : SectionId, Aside u secs[m] secs'[m]) : Placed u x secs' :=
  ⟨fun n => (h.holds n).trans (k n).held.symm, fun n ph => (h.reserves n ph).trans ((k n).reserved ph).symm,
    fun n => (k n).queue.trans (h.waits n)⟩

/-- One section changed: the train's part in the others is the same. -/
theorem aside_set {u : TrainId} {secs : Vector Section 16} {n : SectionId} {x : Section} (h : Aside u secs[n] x)
    (m : SectionId) : Aside u secs[m] (secs.set n x)[m] := by
  by_cases e : m = n
  · subst e
    rwa [get_set_same]
  · rw [get_set_ne _ _ e]
    exact Aside.refl u _

/-- A train placed anew with one section: they agree on that section, and the train says of the others what it said. -/
theorem Placed.set {t : TrainId} {x y : Train} {secs : Vector Section 16} {n : SectionId} {z : Section}
    (h : Placed t x secs)
    (hold : ∀ m, m ≠ n → (m ∈ y.hold ↔ m ∈ x.hold)) (holdN : n ∈ y.hold ↔ ∃ kept, z.state = .held t kept)
    (res : ∀ m ph, m ≠ n → (y.res = some (m, ph) ↔ x.res = some (m, ph)))
    (resN : ∀ ph, y.res = some (n, ph) ↔ ∃ kept, z.state = .reserved t ph kept)
    (wait : ∀ m, m ≠ n → (y.queued = some m ↔ x.queued = some m)) (waitN : t ∈ z.queue ↔ y.queued = some n) :
    Placed t y (secs.set n z) := by
  refine ⟨fun m => ?_, fun m ph => ?_, fun m => ?_⟩ <;> by_cases e : m = n
  · subst e
    rwa [get_set_same]
  · rw [get_set_ne _ _ e, hold m e]
    exact h.holds m
  · subst e
    rw [get_set_same]
    exact resN ph
  · rw [get_set_ne _ _ e, res m ph e]
    exact h.reserves m ph
  · subst e
    rwa [get_set_same]
  · rw [get_set_ne _ _ e, wait m e]
    exact h.waits m

/-- A train that changes, but not in what it says of the sections. -/
theorem Placed.drive {t : TrainId} {x y : Train} {secs : Vector Section 16} (h : Placed t x secs) (hh : y.hold = x.hold)
    (hr : y.res = x.res) (hq : y.queued = x.queued) : Placed t y secs :=
  ⟨fun n => by rw [hh]; exact h.holds n, fun n ph => by rw [hr]; exact h.reserves n ph,
    fun n => by rw [hq]; exact h.waits n⟩

/-! ## Updates of the state -/

section
variable {s : State} {t : TrainId} {n : SectionId} {x : Section} {y : Train}

theorem SectionsOk.putSec (h : SectionsOk s) (hx : SectionOk s.tables.sections[n] x) : SectionsOk (setSec n x s) := by
  intro m
  show SectionOk s.tables.sections[m] (s.secs.set n x)[m]
  by_cases e : m = n
  · subst e
    rwa [get_set_same]
  · rw [get_set_ne _ _ e]
    exact h m

theorem Settled.putSec {u : TrainId} (h : Settled s u) (hx : Aside u s.secs[n] x) : Settled (setSec n x s) u :=
  ⟨h.1.of_aside (aside_set hx), h.2⟩

theorem Settled.putTrain {u : TrainId} (h : Settled s u) (hu : u ≠ t) : Settled (setTrain t y s) u := by
  unfold Settled at *
  have e : (setTrain t y s).trains[u] = s.trains[u] := get_set_ne _ _ hu
  rw [e]
  exact h

/-- The train set agrees if its value does. -/
theorem settled_setTrain (hp : Placed t y s.secs) (hf : Fit s.tables.trains[t] y) : Settled (setTrain t y s) t := by
  unfold Settled
  have e : (setTrain t y s).trains[t] = y := get_set_same _ _ _
  rw [e]
  exact ⟨hp, hf⟩

theorem AgreeBut.putTrain (h : AgreeBut t s) : AgreeBut t (setTrain t y s) :=
  ⟨fun u hu => (h.1 u hu).putTrain hu, h.2⟩

theorem AgreeBut.putSec (h : AgreeBut t s) (ha : ∀ u, u ≠ t → Aside u s.secs[n] x)
    (hx : SectionOk s.tables.sections[n] x) : AgreeBut t (setSec n x s) :=
  ⟨fun u hu => (h.1 u hu).putSec (ha u hu), h.2.putSec hx⟩

/-- One train's value replaced by one that agrees. -/
theorem AgreeBut.settle (h : AgreeBut t s) (hp : Placed t y s.secs) (hf : Fit s.tables.trains[t] y) :
    Agree (setTrain t y s) := h.putTrain.agree (settled_setTrain hp hf)

/-- One train driven, at its place among the sections. -/
theorem Agree.drive (h : Agree s) (hh : y.hold = s.trains[t].hold) (hr : y.res = s.trains[t].res)
    (hq : y.queued = s.trains[t].queued) (hf : Fit s.tables.trains[t] y) : Agree (setTrain t y s) :=
  (h.but t).settle ((h.1 t).1.drive hh hr hq) hf

/-- One section and one train replaced together. -/
theorem Agree.update (h : Agree s) (ha : ∀ u, u ≠ t → Aside u s.secs[n] x) (hx : SectionOk s.tables.sections[n] x)
    (hp : Placed t y (s.secs.set n x)) (hf : Fit s.tables.trains[t] y) : Agree (setTrain t y (setSec n x s)) :=
  ((h.but t).putSec ha hx).settle hp hf

/-- One section replaced, in which no train has a part. -/
theorem Agree.putSec (h : Agree s) (ha : ∀ u, Aside u s.secs[n] x) (hx : SectionOk s.tables.sections[n] x) :
    Agree (setSec n x s) := ⟨fun u => (h.1 u).putSec (ha u), h.2.putSec hx⟩

/-- A section of which the record is not in use is nobody's. -/
theorem SectionsOk.inUse (h : SectionsOk s) (hn : s.secs[n].state ≠ .free) : s.tables.sections[n].inUse = true := by
  cases e : s.tables.sections[n].inUse with
  | true => rfl
  | false => exact absurd ((h n).unused e) hn

/-- A section in use takes any state, with its queue or a part of it. -/
theorem SectionsOk.restate (h : SectionsOk s) (hu : s.tables.sections[n].inUse = true)
    (hq : x.queue.Sublist s.secs[n].queue) : SectionOk s.tables.sections[n] x :=
  ⟨fun e => (nomatch hu.symm.trans e), hq.length_le.trans (h n).queueFew, (h n).queueOnce.sublist hq⟩

/-- A section that keeps its state, with its queue or a part of it. -/
theorem SectionsOk.requeue (h : SectionsOk s) (hs : x.state = s.secs[n].state)
    (hq : x.queue.Sublist s.secs[n].queue) : SectionOk s.tables.sections[n] x :=
  ⟨fun e => by rw [hs]; exact (h n).unused e, hq.length_le.trans (h n).queueFew, (h n).queueOnce.sublist hq⟩

end

end Sys2Proof.Machine
end


section
/-! The Reservation Unit keeps trains and sections in agreement: what each of its operations does to the trains and sections,
and that they agree after it (R62, R70 to R81, R96, R98). -/

namespace Sys2Proof.Machine

/-! ## A train's own values -/

/-- A train on the track: its route is one, and it holds one to three sections, none twice. -/
structure OnRoute (r : TrainRec) (x : Train) : Prop where
  route : RouteOk r
  few : x.hold.length ≤ 3
  once : x.hold.Nodup
  holding : x.hold ≠ []

section
variable {r : TrainRec} {x y : Train}

theorem Fit.onRoute (h : Fit r x) (hp : x.state ≠ .parked) : OnRoute r x :=
  ⟨h.route (.inr hp), h.few, h.once, fun e => hp (h.holdsNone.1 e)⟩

theorem OnRoute.of_hold (h : OnRoute r x) (e : y.hold = x.hold) : OnRoute r y :=
  ⟨h.route, e ▸ h.few, e ▸ h.once, e ▸ h.holding⟩

/-- A train with a reservation is not PARKED and not STOPPED, and stands in no queue (R62, R86). -/
theorem Fit.of_reserved (h : Fit r x) (hr : x.res ≠ none) :
    x.state ≠ .parked ∧ x.state ≠ .stopped ∧ x.queued = none :=
  ⟨fun e => hr (h.unreserved (.inl e)), fun e => hr (h.unreserved (.inr e)),
    Decidable.byContradiction fun e => hr (h.waitsFree e).1⟩

/-- Only a WAITING or an APPROACH train stands in a queue (R86). -/
theorem Fit.unqueued (h : Fit r x) (hw : x.state ≠ .waiting) (ha : x.state ≠ .approach) : x.queued = none :=
  Decidable.byContradiction fun e => (h.waitsFree e).2.elim hw ha

theorem OnRoute.fit_held (h : OnRoute r x) (hh : y.hold = x.hold)
    (hs : y.state = .waiting ∧ y.target = 0 ∨ y.state = .approach) (hq : y.queued ≠ none → y.res = none) : Fit r y := by
  obtain ⟨route, few, once, holding⟩ := h.of_hold hh
  refine ⟨fun _ => route, few, once, iff_of_false holding ?_, fun e => ⟨hq e, ?_⟩, ?_, ?_, ?_⟩
  all_goals rcases hs with ⟨hs, ht⟩ | hs
  all_goals simp_all

theorem OnRoute.fit_running (h : OnRoute r x) (hh : y.hold = x.hold) {n : SectionId} (hs : y.state = .running)
    (ht : y.target = y.cruise) (hr : y.res = some (n, .set)) (hq : y.queued = none) : Fit r y := by
  obtain ⟨route, few, once, holding⟩ := h.of_hold hh
  exact ⟨fun _ => route, few, once, iff_of_false holding (by simp [hs]), fun e => absurd hq e,
    fun e => by simp [hs] at e, fun _ => ⟨ht, n, hr⟩, fun e => absurd hs e⟩

theorem OnRoute.fit_standing (h : OnRoute r x) (hh : y.hold = x.hold)
    (hs : y.state = .stopped ∧ y.res = none ∨ y.state = .stopping ∨ ∃ why, y.state = .halted why) (ht : y.target = 0)
    (hq : y.queued = none) : Fit r y := by
  obtain ⟨route, few, once, holding⟩ := h.of_hold hh
  refine ⟨fun _ => route, few, once, iff_of_false holding ?_, fun e => absurd hq e, ?_, ?_, fun _ _ => ht⟩
  all_goals rcases hs with ⟨hs, hr⟩ | hs | ⟨why, hs⟩
  all_goals simp_all

/-- The values that the agreement speaks of, and no others, make a train fit. -/
theorem Fit.congr (h : Fit r x) (hs : y.state = x.state) (hh : y.hold = x.hold) (hr : y.res = x.res)
    (hq : y.queued = x.queued) (ht : y.target = x.target) (hc : y.cruise = x.cruise) : Fit r y :=
  ⟨by rw [hs]; exact h.route, by rw [hh]; exact h.few, by rw [hh]; exact h.once, by rw [hs, hh]; exact h.holdsNone,
    by rw [hs, hr, hq]; exact h.waitsFree, by rw [hs, hr]; exact h.unreserved,
    by rw [hs, ht, hc, hr]; exact h.running, by rw [hs, ht]; exact h.target⟩

end

/-! ## States with the same trains and sections -/

/-- `u` has the tables, the trains and the sections of `s`. -/
structure SameRails (u s : State) : Prop where
  tables : u.tables = s.tables
  trains : u.trains = s.trains
  secs : u.secs = s.secs

theorem SameRails.refl (s : State) : SameRails s s := ⟨rfl, rfl, rfl⟩

theorem SameRails.trans {s u v : State} (h : SameRails v u) (k : SameRails u s) : SameRails v s :=
  ⟨h.tables.trans k.tables, h.trains.trans k.trains, h.secs.trans k.secs⟩

theorem Settled.rails {s u : State} {t : TrainId} (h : Settled s t) (e : SameRails u s) : Settled u t := by
  unfold Settled at *
  rw [e.tables, e.trains, e.secs]
  exact h

theorem SectionsOk.rails {s u : State} (h : SectionsOk s) (e : SameRails u s) : SectionsOk u := by
  unfold SectionsOk at *
  rw [e.tables, e.secs]
  exact h

theorem Agree.rails {s u : State} (h : Agree s) (e : SameRails u s) : Agree u :=
  ⟨fun t => (h.1 t).rails e, h.2.rails e⟩

theorem AgreeBut.rails {s u : State} {t : TrainId} (h : AgreeBut t s) (e : SameRails u s) : AgreeBut t u :=
  ⟨fun v hv => (h.1 v hv).rails e, h.2.rails e⟩

theorem appendCue_rails (c : Nat) (src : Source) (s : State) : SameRails (appendCue c src s) s := by
  obtain ⟨q, n, e⟩ := appendCue_eq c src s
  rw [e]
  exact ⟨rfl, rfl, rfl⟩

theorem arrange_rails {α : Type} (xs : List α) (s : State) : SameRails (arrange xs s).2 s := by
  obtain ⟨cs, n, e⟩ := arrange_snd xs s
  rw [e]
  exact ⟨rfl, rfl, rfl⟩

theorem draw_rails (s : State) : SameRails (draw s).2 s := by
  obtain ⟨cs, n, e⟩ := draw_snd s
  rw [e]
  exact ⟨rfl, rfl, rfl⟩

theorem throwRequest_rails (q : PointNeed) (s : State) : SameRails (throwRequest q s) s := by
  unfold throwRequest
  dsimp only
  repeat' split
  all_goals exact ⟨rfl, rfl, rfl⟩

theorem guardSeek_rails (a : AxisId) (g : Nat) (s : State) : SameRails (guardSeek a g s) s := by
  unfold guardSeek
  dsimp only
  split <;> exact ⟨rfl, rfl, rfl⟩

theorem orderGuard_rails (n : SectionId) (s : State) : SameRails (orderGuard n s) s := by
  unfold orderGuard
  split
  · exact SameRails.refl s
  · split
    · exact SameRails.refl s
    · exact guardSeek_rails _ _ _

/-! ## Leaving a queue, and halts -/

/-- A train that stands in no queue leaves none. -/
theorem dequeue_of_unqueued {t : TrainId} {s : State} (h : s.trains[t].queued = none) : dequeue t s = s := by
  simp only [dequeue, h]

/-- Of the train itself, leaving its queue changes the queued field alone. -/
theorem dequeue_train (t : TrainId) (s : State) : (dequeue t s).trains[t] = { s.trains[t] with queued := none } := by
  unfold dequeue
  split
  · next h => rw [← h]
  · exact get_set_same _ _ _

theorem Agree.dequeue {t : TrainId} {s : State} (h : Agree s) : Agree (dequeue t s) := by
  unfold Machine.dequeue
  split
  · exact h
  · next n hq =>
    obtain ⟨hp, hf⟩ := h.1 t
    refine h.update (fun u hu => Aside.of_state rfl (by simp [hu])) (h.2.requeue rfl List.filter_sublist)
      (hp.set (fun _ _ => Iff.rfl) (hp.holds n) (fun _ _ _ => Iff.rfl) (hp.reserves n) (fun m hm => ?_)
        (by simp)) ?_
    · simp [-Fin.getElem_fin, hq, hm.symm]
    · exact ⟨hf.route, hf.few, hf.once, hf.holdsNone, fun e => absurd rfl e, hf.unreserved, hf.running, hf.target⟩

/-- A halt reaches no PARKED train (R98). -/
theorem not_parked_of_haltReaches {reason : HaltReason} {r : TrainRec} {x : Train} (hf : Fit r x)
    (h : haltReaches reason x = true) : x.state ≠ .parked := by
  intro e
  have hr := hf.unreserved (.inl e)
  cases reason <;> simp [haltReaches, e, hr] at h

/-- A halt for GUARD reaches every train but a PARKED one (R98). -/
theorem haltReaches_guard {x : Train} (h : x.state ≠ .parked) : haltReaches .guard x = true := by
  cases e : x.state <;> simp_all [haltReaches]

/-- A halted train is as it may be (R98). -/
theorem fit_halted {reason : HaltReason} {r : TrainRec} {x : Train} (h : OnRoute r x) : Fit r (halted reason x) :=
  h.fit_standing rfl (.inr (.inr ⟨_, rfl⟩)) rfl rfl

theorem Agree.halt {reason : HaltReason} {t : TrainId} {s : State} (h : Agree s) : Agree (halt reason t s) := by
  unfold Machine.halt
  split
  · next hr =>
    have hu : Agree (Machine.dequeue t s) := h.dequeue
    have hp : s.trains[t].state ≠ .parked := not_parked_of_haltReaches (h.1 t).2 hr
    have hs : (Machine.dequeue t s).trains[t].state ≠ .parked := by rwa [dequeue_train]
    exact hu.drive (t := t) (y := halted reason (Machine.dequeue t s).trains[t]) rfl rfl (by rw [dequeue_train]; rfl)
      (fit_halted ((hu.1 t).2.onRoute hs))
  · exact h

/-- A halt of a train that stands in no queue (R98). -/
theorem halt_of_unqueued {reason : HaltReason} {t : TrainId} {s : State} (hr : haltReaches reason s.trains[t] = true)
    (hq : s.trains[t].queued = none) :
    halt reason t s = latch .trainHalt (.halt t reason) (setTrain t (halted reason s.trains[t]) s) := by
  simp only [halt, hr, if_true, dequeue_of_unqueued hq]

theorem Agree.haltAll {reason : HaltReason} {s : State} (h : Agree s) : Agree (haltAll reason s) :=
  foldl_keeps _ _ (fun _ _ _ hu => hu.halt) _ (h.rails (arrange_rails _ s))

/-! ## A reservation changes its phase (R73, R81, R96) -/

/-- A state of one owner is no part of another train. -/
theorem aside_owned {u t : TrainId} {x y : Section} (hx : ownerOf x.state = some t ∨ ownerOf x.state = none)
    (hy : ownerOf y.state = some t ∨ ownerOf y.state = none) (hu : u ≠ t) (hq : u ∈ y.queue ↔ u ∈ x.queue) :
    Aside u x y := by
  refine Aside.of_not_owner ?_ ?_ hq
  · rcases hx with e | e <;> simp [e, hu.symm]
  · rcases hy with e | e <;> simp [e, hu.symm]

/-- A reservation and its train take a phase together. -/
theorem Agree.rephase {s : State} {t : TrainId} {n kept : SectionId} {ph ph' : Phase} {y : Train} (h : Agree s)
    (hs : s.secs[n].state = .reserved t ph kept) (hh : y.hold = s.trains[t].hold) (hr : y.res = some (n, ph'))
    (hq : y.queued = s.trains[t].queued) (hf : Fit s.tables.trains[t] y) :
    Agree (setTrain t y (setSec n { s.secs[n] with state := .reserved t ph' kept } s)) := by
  have hp := (h.1 t).1
  have hres : s.trains[t].res = some (n, ph) := (hp.reserves n ph).2 ⟨kept, hs⟩
  refine h.update (fun u hu => aside_owned (t := t) (.inl (by rw [hs]; rfl)) (.inl rfl) hu Iff.rfl)
    (h.2.restate (h.2.inUse (by rw [hs]; exact SecState.noConfusion)) (List.Sublist.refl _)) (hp.set ?_ ?_ ?_ ?_ ?_ ?_) hf
  · intro m _
    rw [hh]
  · rw [hh, hp.holds n, hs]
    simp
  · intro m p hm
    simp [-Fin.getElem_fin, hr, hres, hm.symm]
  · intro p
    simp [hr]
  · intro m _
    rw [hq]
  · rw [hq]
    exact hp.waits n

/-- A train of a SETTING reservation neither stands PARKED or STOPPED nor is RUNNING (R86, R87). -/
theorem Fit.of_setting {r : TrainRec} {x : Train} {n : SectionId} (h : Fit r x) (hr : x.res = some (n, .setting)) :
    x.state ≠ .parked ∧ x.state ≠ .stopped ∧ x.state ≠ .running ∧ x.queued = none := by
  obtain ⟨hp, hs, hq⟩ := h.of_reserved (by simp [hr])
  refine ⟨hp, hs, fun e => ?_, hq⟩
  obtain ⟨-, m, hm⟩ := h.running e
  simp [hr] at hm

/-- The telling of SET follows the reservation that turns SET (R96). -/
theorem Agree.tellSet {s : State} {t : TrainId} {n kept : SectionId} (h : Agree s)
    (hs : s.secs[n].state = .reserved t .setting kept) :
    Agree (tellSet t (setSec n { s.secs[n] with state := .reserved t .set kept } s)) := by
  obtain ⟨hp, hf⟩ := h.1 t
  have hr : s.trains[t].res = some (n, .setting) := (hp.reserves n _).2 ⟨kept, hs⟩
  obtain ⟨hpk, hst, hrun, hq⟩ := hf.of_setting hr
  have ho := hf.onRoute hpk
  have running : Agree (setTrain t (goRunning { s.trains[t] with res := some (n, .set), arrival := some 0 })
      (setSec n { s.secs[n] with state := .reserved t .set kept } s)) :=
    h.rephase hs rfl rfl rfl (ho.fit_running rfl rfl rfl rfl hq)
  have standing : s.trains[t].state = .stopping ∨ (∃ why, s.trains[t].state = .halted why) →
      Agree (setTrain t { s.trains[t] with res := some (n, .set), arrival := some 0 }
        (setSec n { s.secs[n] with state := .reserved t .set kept } s)) := by
    intro e
    refine h.rephase hs rfl rfl rfl (ho.fit_standing rfl (.inr e) ?_ hq)
    refine hf.target hrun ?_
    rcases e with e | ⟨_, e⟩ <;> exact e.trans_ne nofun
  unfold Machine.tellSet
  simp only [setSec_trains, hr]
  split
  · exact running
  · exact running
  · next e => exact standing (.inl e)
  · next e => exact standing (.inr ⟨_, e⟩)
  · next e => exact absurd e hpk
  · next e => exact absurd e hst
  · next e => exact absurd e hrun

/-- The telling of a return to SETTING, with the halt of a train it finds moving, follows the reservation (R81, R96). -/
theorem Agree.tellSetting {s : State} {t : TrainId} {n kept : SectionId} (h : Agree s)
    (hs : s.secs[n].state = .reserved t .set kept) :
    Agree (tellSetting t (setSec n { s.secs[n] with state := .reserved t .setting kept } s)) := by
  obtain ⟨hp, hf⟩ := h.1 t
  have hr : s.trains[t].res = some (n, .set) := (hp.reserves n _).2 ⟨kept, hs⟩
  obtain ⟨hpk, hst, hq⟩ := hf.of_reserved (by rw [hr]; exact Option.some_ne_none _)
  have ho := hf.onRoute hpk
  let u := setSec n { s.secs[n] with state := .reserved t .setting kept } s
  let y : Train := { s.trains[t] with res := some (n, .setting), arrival := none }
  have halts : Agree (Machine.halt .guard t (setTrain t y u)) := by
    have ey : (setTrain t y u).trains[t] = y := get_set_same _ _ _
    rw [halt_of_unqueued (by rw [ey]; exact haltReaches_guard hpk) (by rw [ey]; exact hq), ey]
    have e : setTrain t (halted .guard y) (setTrain t y u) = setTrain t (halted .guard y) u := by simp [setTrain]
    rw [e]
    exact h.rephase (y := halted .guard y) hs rfl rfl hq.symm (fit_halted (ho.of_hold rfl))
  have stays : s.trains[t].state ≠ .running → Agree (setTrain t y u) := fun hrun =>
    h.rephase hs rfl rfl rfl ⟨hf.route, hf.few, hf.once, hf.holdsNone, fun e => absurd hq e,
      fun e => (e.elim hpk hst).elim, fun e => absurd e hrun, hf.target⟩
  unfold Machine.tellSetting
  simp only [setSec_trains, hr]
  split
  · exact halts
  · exact halts
  all_goals next e => exact stays (e.trans_ne nofun)

theorem Agree.checkSetting {n : SectionId} {s : State} (h : Agree s) : Agree (checkSetting n s) := by
  unfold Machine.checkSetting
  split
  · next t kept hs =>
    split
    · exact h.tellSet hs
    · exact h
  all_goals exact h

theorem Agree.pointIdle {p : PointId} {s : State} (h : Agree s) : Agree (pointIdle p s) := by
  refine foldl_keeps _ _ (fun u n _ hu => ?_) _ h
  split
  · split
    · exact hu.checkSetting
    · exact hu
  · exact hu

theorem Agree.axisStandTold {a : AxisId} {s : State} (h : Agree s) : Agree (axisStandTold a s) := by
  refine foldl_keeps _ _ (fun u n _ hu => ?_) _ h
  split
  · exact hu.checkSetting
  · exact hu

theorem Agree.axisFaultTold {a : AxisId} {s : State} (h : Agree s) : Agree (axisFaultTold a s) := by
  refine foldl_keeps _ _ (fun u n _ hu => ?_) _ h
  split
  · split
    · next t kept hs => exact hu.tellSetting hs
    · exact hu
  · exact hu

/-! ## Throws (R67) -/

theorem Agree.throwEnds {p : PointId} {s : State} (h : Agree s) : Agree (throwEnds p s) := by
  unfold Machine.throwEnds
  split
  · exact h
  · next m _ =>
    split
    · have hu : Agree (setPt p (throwDone s.tables.points[p] m s.pts[p]) s) := h
      dsimp only
      split
      · exact hu.pointIdle
      · exact hu
    · exact h

theorem coilEnds_rails (p : PointId) (s : State) : SameRails (coilEnds p s) s := by
  unfold coilEnds
  repeat' split
  all_goals exact ⟨rfl, rfl, rfl⟩

theorem Agree.stepPoint {p : PointId} {s : State} (h : Agree s) : Agree (stepPoint p s) := by
  unfold Machine.stepPoint
  dsimp only
  split
  · exact h
  · split
    · exact Agree.throwEnds (s := setPt p _ s) h
    · exact h

theorem Agree.stepPoints {s : State} (h : Agree s) : Agree (stepPoints s) :=
  foldl_keeps _ _ (fun _ _ _ hu => hu.stepPoint) _ h

end Sys2Proof.Machine
end


section
/-! Requests, grants and re-evaluations keep trains and sections in agreement. A re-evaluation is made while the train that
gave its trigger may not agree yet, so what it does is said train by train (`Regrants`): who agreed agrees, and who stands in
no queue is left as it was (R70 to R72, R77). -/

namespace Sys2Proof.Machine

/-! ## Grants (R71) -/

/-- A section reserved for a train, which leaves its queue. -/
def reservedFor (t : TrainId) (ph : Phase) (kept : SectionId) (x : Section) : Section :=
  { x with state := .reserved t ph kept, queue := x.queue.filter (· != t) }

/-- The state of a grant before its phase is decided: the section reserved, the throws and the guard seek ordered. -/
def orderedFor (t : TrainId) (f n : SectionId) (s : State) : State :=
  orderGuard n ((pointNeeds s.tables.sections f n).foldl (fun u q => if pointStands u q then u else throwRequest q u)
    (setSec n (reservedFor t .setting f s.secs[n]) s))

/-- A grant is SET where all stands ready once it is ordered, and SETTING otherwise (R71). -/
theorem grant_eq (t : TrainId) (f n : SectionId) (s : State) :
    grant t f n s =
      if needsReady (orderedFor t f n s) f n then
        (.set, setSec n { (orderedFor t f n s).secs[n] with state := .reserved t .set f } (orderedFor t f n s))
      else (.setting, orderedFor t f n s) := rfl

/-- The orders of a grant go to points and axes alone. -/
theorem orderedFor_rails (t : TrainId) (f n : SectionId) (s : State) :
    SameRails (orderedFor t f n s) (setSec n (reservedFor t .setting f s.secs[n]) s) := by
  refine (orderGuard_rails n _).trans (foldl_keeps (P := (SameRails · _)) _ _ (fun u q _ hu => ?_) _ (SameRails.refl _))
  split
  · exact hu
  · exact (throwRequest_rails q u).trans hu

/-- A grant changes one section, and beside it points and axes alone. -/
theorem grant_rails (t : TrainId) (f n : SectionId) (s : State) :
    SameRails (grant t f n s).2 (setSec n (reservedFor t (grant t f n s).1 f s.secs[n]) s) := by
  have h := orderedFor_rails t f n s
  rw [grant_eq]
  split
  · refine ⟨h.tables, h.trains, ?_⟩
    simp only [setSec_secs]
    rw [h.secs, setSec_secs, get_set_same]
    simp [reservedFor]
  · exact h

/-- What can be granted is FREE and in use (R70). -/
theorem canMeet_free {s : State} {t : TrainId} {f n : SectionId} (h : canMeet s t f n = true) :
    s.secs[n].state = .free ∧ s.tables.sections[n].inUse = true := by
  simp only [canMeet, Bool.and_eq_true, beq_iff_eq] at h
  obtain ⟨⟨⟨hu, hs⟩, -⟩, -⟩ := h
  exact ⟨hs, hu⟩

/-- A FREE section granted to a train is no part of another. -/
theorem aside_grant {u t : TrainId} {ph : Phase} {kept : SectionId} {x : Section} (hx : x.state = .free) (hu : u ≠ t) :
    Aside u x (reservedFor t ph kept x) :=
  aside_owned (t := t) (.inr (by rw [hx]; rfl)) (.inl rfl) hu (by simp [reservedFor, hu])

theorem SectionsOk.grant {s : State} {t : TrainId} {ph : Phase} {kept n : SectionId} (h : SectionsOk s)
    (hu : s.tables.sections[n].inUse = true) : SectionsOk (setSec n (reservedFor t ph kept s.secs[n]) s) :=
  h.putSec (h.restate hu List.filter_sublist)

/-! ## Answers (R95) -/

/-- A train held back is WAITING at target 0, or in APPROACH, and keeps all but state, target and brake delay (R97, R99). -/
theorem holdBack_eq (s : State) (how : Approach) (x : Train) :
    ∃ st target delay, holdBack s how x = { x with state := st, target := target, brakeDelay := delay } ∧
      (st = .waiting ∧ target = 0 ∨ st = .approach) := by
  unfold holdBack
  split
  · exact ⟨.waiting, 0, none, rfl, .inl ⟨rfl, rfl⟩⟩
  · split
    · exact ⟨.approach, x.target, x.brakeDelay, rfl, .inr rfl⟩
    · exact ⟨.approach, 0, none, rfl, .inr rfl⟩
    · dsimp only
      split <;> split <;> exact ⟨.approach, _, _, rfl, .inr rfl⟩

theorem holdBack_hold (s : State) (how : Approach) (x : Train) : (holdBack s how x).hold = x.hold := by
  obtain ⟨_, _, _, e, -⟩ := holdBack_eq s how x
  rw [e]

theorem holdBack_res (s : State) (how : Approach) (x : Train) : (holdBack s how x).res = x.res := by
  obtain ⟨_, _, _, e, -⟩ := holdBack_eq s how x
  rw [e]

theorem holdBack_queued (s : State) (how : Approach) (x : Train) : (holdBack s how x).queued = x.queued := by
  obtain ⟨_, _, _, e, -⟩ := holdBack_eq s how x
  rw [e]

/-- A train held back on the track is as it may be, if it does not stand in a queue with a reservation. -/
theorem OnRoute.fit_heldBack {r : TrainRec} {x y : Train} (h : OnRoute r x) (hh : y.hold = x.hold) (s : State)
    (how : Approach) (hq : y.queued ≠ none → y.res = none) : Fit r (holdBack s how y) := by
  obtain ⟨st, target, delay, e, hs⟩ := holdBack_eq s how y
  rw [e]
  exact h.fit_held hh hs hq

theorem answered_hold (s : State) (how : Approach) (n : SectionId) (a : Answer) (x : Train) :
    (answered s how n a x).hold = x.hold := by
  rcases a with ⟨_ | _⟩ | _ | _
  · exact holdBack_hold ..
  · rfl
  all_goals exact holdBack_hold ..

/-- The reservation that an answer gives. -/
theorem answered_res (s : State) (how : Approach) (n : SectionId) (a : Answer) (x : Train) :
    (answered s how n a x).res = match a with
      | .granted ph => some (n, ph)
      | .queued | .full => none := by
  rcases a with ⟨_ | _⟩ | _ | _
  · exact holdBack_res ..
  · rfl
  all_goals exact holdBack_res ..

/-- The place in a queue that an answer gives. -/
theorem answered_queued (s : State) (how : Approach) (n : SectionId) (a : Answer) (x : Train) :
    (answered s how n a x).queued = match a with
      | .granted _ | .full => none
      | .queued => some n := by
  rcases a with ⟨_ | _⟩ | _ | _
  · exact holdBack_queued ..
  · rfl
  all_goals exact holdBack_queued ..

/-- A train on the track that takes an answer is as it may be. -/
theorem OnRoute.fit_answered {r : TrainRec} {x : Train} (h : OnRoute r x) (s : State) (how : Approach) (n : SectionId)
    (a : Answer) : Fit r (answered s how n a x) := by
  rcases a with ⟨_ | _⟩ | _ | _
  · exact h.fit_heldBack (y := { x with res := _, arrival := _, queued := none, retry := _ }) rfl s how
      (fun e => absurd rfl e)
  · exact h.fit_running rfl rfl rfl rfl rfl
  · exact h.fit_heldBack (y := { x with res := none, arrival := _, queued := _, retry := _ }) rfl s how (fun _ => rfl)
  · exact h.fit_heldBack (y := { x with res := none, arrival := _, queued := _, retry := _ }) rfl s how (fun _ => rfl)

/-- A train without reservation that stands in no queue but perhaps the section's takes a grant of it. -/
theorem Placed.granted {s u : State} {how : Approach} {t : TrainId} {ph : Phase} {kept n : SectionId} {x : Train}
    (h : Placed t x s.secs) (hr : x.res = none) (hq : ∀ m, m ≠ n → x.queued ≠ some m) (hf : s.secs[n].state = .free) :
    Placed t (answered u how n (.granted ph) x) (s.secs.set n (reservedFor t ph kept s.secs[n])) := by
  refine h.set (fun m _ => by rw [answered_hold]) ?_ (fun m p hm => ?_) (fun p => ?_) (fun m hm => ?_) ?_
  · rw [answered_hold, h.holds n, hf]
    simp [reservedFor]
  · simp [answered_res, hr, hm.symm]
  · simp [answered_res, reservedFor]
  · simp [answered_queued, hq m hm]
  · simp [answered_queued, reservedFor]

/-- A section with one more train at the end of its queue. -/
def joined (t : TrainId) (x : Section) : Section := { x with queue := x.queue ++ [t] }

/-- A train without reservation that stands in no queue joins one. -/
theorem Placed.joined {u : State} {secs : Vector Section 16} {how : Approach} {t : TrainId} {n : SectionId} {x : Train}
    (h : Placed t x secs) (hr : x.res = none) (hq : x.queued = none) :
    Placed t (answered u how n .queued x) (secs.set n (joined t secs[n])) := by
  refine h.set (fun m _ => by rw [answered_hold]) ?_ (fun m p _ => ?_) (fun p => ?_) (fun m hm => ?_) ?_
  · rw [answered_hold]
    exact h.holds n
  · simp [answered_res, hr]
  · rw [answered_res, ← hr]
    exact h.reserves n p
  · simp [answered_queued, hq, hm.symm]
  · simp [answered_queued, Machine.joined]

/-- A queue with room takes a train that does not stand in it. -/
theorem SectionOk.joined {r : SectionRec} {x : Section} {t : TrainId} (h : SectionOk r x) (hl : x.queue.length < 3)
    (ht : t ∉ x.queue) : SectionOk r (joined t x) :=
  ⟨h.unused, by simpa [Machine.joined] using hl, by
    simpa [Machine.joined, List.nodup_append] using ⟨h.queueOnce, fun u hu e => ht (e ▸ hu)⟩⟩

/-- A train placed in no queue stands in no queue. -/
theorem Placed.unqueued {t : TrainId} {x : Train} {secs : Vector Section 16} (h : Placed t x secs) (hq : x.queued = none)
    (m : SectionId) : t ∉ secs[m].queue := fun e => by simpa [hq] using (h.waits m).1 e

/-! ## A request (R92, R95) -/

/-- A route has a next entry, and it is a section (R83, R92). -/
theorem routeAt_isSome {r : TrainRec} (h : RouteOk r) (i : Nat) : ∃ n, routeAt r (i % r.length) = some n := by
  obtain ⟨h1, h32, hs⟩ := h
  have hi : i % r.length < r.length := Nat.mod_lt _ (by omega)
  have hn := hs ⟨i % r.length, by omega⟩ hi
  exact ⟨⟨r.route[i % r.length], Nat.lt_succ_of_le hn⟩, by
    simp only [routeAt, dif_pos (show i % r.length < 32 by omega), item]
    exact dif_pos (Nat.lt_succ_of_le hn)⟩

/-- A train on the track, without reservation and in no queue, sends its request: whatever the answer, all agree after it. -/
theorem AgreeBut.sendRequest {s : State} {how : Approach} {t : TrainId} (h : AgreeBut t s)
    (hp : Placed t s.trains[t] s.secs) (ho : OnRoute s.tables.trains[t] s.trains[t]) (hr : s.trains[t].res = none)
    (hq : s.trains[t].queued = none) : Agree (sendRequest how t s) := by
  obtain ⟨n, hn⟩ : ∃ n, nextSection s t = some n := routeAt_isSome ho.route _
  obtain ⟨f, hf⟩ : ∃ f, s.trains[t].hold.head? = some f :=
    Option.ne_none_iff_exists'.1 (mt List.head?_eq_none_iff.1 ho.holding)
  unfold Machine.sendRequest
  simp only [hf, hn]
  unfold request
  split
  · next hm =>
    obtain ⟨hfree, hu⟩ := canMeet_free hm
    have e := grant_rails t f n s
    have hb : AgreeBut t (setSec n (reservedFor t (grant t f n s).1 f s.secs[n]) s) :=
      ⟨fun u hu => (h.1 u hu).putSec (aside_grant hfree hu), h.2.grant hu⟩
    refine (hb.rails e).settle ?_ ?_
    · dsimp only
      rw [e.secs, e.trains]
      exact hp.granted hr (fun m _ => by simp [-Fin.getElem_fin, hq]) hfree
    · dsimp only
      rw [e.tables, e.trains]
      exact ho.fit_answered ..
  · split
    · next hl =>
      exact (h.putSec (x := joined t s.secs[n]) (fun u hu => Aside.of_state rfl (by simp [joined, hu]))
        ((h.2 n).joined hl (hp.unqueued hq n))).settle (hp.joined hr hq) (ho.fit_answered ..)
    · refine h.settle (hp.drive (answered_hold ..) ?_ ?_) (ho.fit_answered ..)
      · rw [answered_res]
        exact hr.symm
      · rw [answered_queued]
        exact hq.symm

/-- The same of a train that agrees. -/
theorem Agree.sendRequest {s : State} {how : Approach} {t : TrainId} (h : Agree s) (hs : s.trains[t].state ≠ .parked)
    (hr : s.trains[t].res = none) (hq : s.trains[t].queued = none) : Agree (sendRequest how t s) :=
  (h.but t).sendRequest (h.1 t).1 ((h.1 t).2.onRoute hs) hr hq

/-! ## Re-evaluation (R77) -/

/-- Every train that stands in a queue agrees. -/
def WaitersSettled (s : State) : Prop := ∀ (m : SectionId) (u : TrainId), u ∈ s.secs[m].queue → Settled s u

/-- What a re-evaluation does to trains and sections. -/
structure Regrants (s t : State) : Prop where
  tables : t.tables = s.tables
  settled : ∀ u, Settled s u → Settled t u
  sections : SectionsOk s → SectionsOk t
  queues : ∀ (m : SectionId) (u : TrainId), u ∈ t.secs[m].queue → u ∈ s.secs[m].queue
  spared : ∀ u : TrainId, (∀ m : SectionId, u ∉ s.secs[m].queue) →
    t.trains[u] = s.trains[u] ∧ ∀ m : SectionId, Aside u s.secs[m] t.secs[m]

theorem Regrants.refl (s : State) : Regrants s s :=
  ⟨rfl, fun _ h => h, fun h => h, fun _ _ h => h, fun _ _ => ⟨rfl, fun _ => Aside.refl _ _⟩⟩

theorem Regrants.trans {s t v : State} (h : Regrants s t) (k : Regrants t v) : Regrants s v where
  tables := k.tables.trans h.tables
  settled u hu := k.settled u (h.settled u hu)
  sections hs := k.sections (h.sections hs)
  queues m u hu := h.queues m u (k.queues m u hu)
  spared u hu := by
    obtain ⟨e1, a1⟩ := h.spared u hu
    obtain ⟨e2, a2⟩ := k.spared u (fun m hm => hu m (h.queues m u hm))
    exact ⟨e2.trans e1, fun m => (a1 m).trans (a2 m)⟩

theorem Regrants.waiters {s t : State} (h : Regrants s t) (hw : WaitersSettled s) : WaitersSettled t :=
  fun m u hu => h.settled u (hw m u (h.queues m u hu))

/-- The first waiter stands in the queue, and its request can be met. -/
theorem firstWaiter_spec {s : State} {n f : SectionId} {t : TrainId} (h : firstWaiter s n = some (t, f)) :
    t ∈ s.secs[n].queue ∧ canMeet s t f n = true := by
  obtain ⟨u, hu, he⟩ := List.exists_of_findSome?_eq_some h
  split at he
  · split at he
    · next hm =>
      obtain ⟨rfl, rfl⟩ := Prod.mk.inj (Option.some.inj he)
      exact ⟨hu, hm⟩
    · cases he
  · cases he

/-- A waiter that agrees takes the grant of its section. -/
theorem regrants_grant {s : State} {t : TrainId} {f n : SectionId} (ht : t ∈ s.secs[n].queue) (hs : Settled s t)
    (hm : canMeet s t f n = true) :
    Regrants s (takeAnswer .keep t n (.granted (grant t f n s).1) (grant t f n s).2) := by
  obtain ⟨hp, hf⟩ := hs
  obtain ⟨hfree, hu⟩ := canMeet_free hm
  have e := grant_rails t f n s
  have hq : s.trains[t].queued = some n := (hp.waits n).1 ht
  obtain ⟨hr, hst⟩ := hf.waitsFree (by rw [hq]; exact Option.some_ne_none _)
  have ho := hf.onRoute (by rcases hst with e | e <;> exact e.trans_ne nofun)
  generalize grant t f n s = g at e ⊢
  have secs : (takeAnswer .keep t n (.granted g.1) g.2).secs =
      s.secs.set n (reservedFor t g.1 f s.secs[n]) := e.secs
  refine ⟨e.tables, fun u hu => ?_, fun hk => ?_, fun m u hu => ?_, fun u hu => ?_⟩
  · by_cases hut : u = t
    · subst hut
      refine settled_setTrain ?_ ?_
      · rw [e.secs, e.trains]
        exact hp.granted hr (fun m hm => by simpa [-Fin.getElem_fin, hq] using hm.symm) hfree
      · rw [e.tables, e.trains]
        exact ho.fit_answered ..
    · exact ((hu.putSec (aside_grant hfree hut)).rails e).putTrain hut
  · have ok : SectionsOk g.2 := (hk.grant hu).rails e
    exact ok
  · rw [secs] at hu
    by_cases hmn : m = n
    · subst hmn
      rw [get_set_same] at hu
      exact (List.mem_filter.1 hu).1
    · rwa [get_set_ne _ _ hmn] at hu
  · have hut : u ≠ t := fun e => hu n (e ▸ ht)
    refine ⟨?_, fun m => ?_⟩
    · exact (get_set_ne _ _ hut).trans (by rw [e.trains]; rfl)
    · rw [secs]
      exact aside_set (aside_grant hfree hut) m

theorem examineQueue_regrants {s : State} (n : SectionId) (hw : WaitersSettled s) : Regrants s (examineQueue n s) := by
  unfold examineQueue
  split
  · split
    · next t f hx =>
      obtain ⟨ht, hm⟩ := firstWaiter_spec hx
      exact regrants_grant ht (hw n t ht) hm
    · exact Regrants.refl s
  all_goals exact Regrants.refl s

/-- A re-evaluation grants to waiters that agree, and leaves who does not wait (R77). -/
theorem reevaluate_regrants {s : State} (o : Option SectionId) (hw : WaitersSettled s) : Regrants s (reevaluate o s) :=
  foldl_keeps (P := Regrants s) _ _ (fun _ n _ hu => hu.trans (examineQueue_regrants n (hu.waiters hw))) s
    (Regrants.refl s)

theorem Agree.waiters {s : State} (h : Agree s) : WaitersSettled s := fun _ u _ => h.1 u

/-- While one train may not agree, the others do, and it stands in no queue. -/
theorem AgreeBut.waiters {s : State} {t : TrainId} (h : AgreeBut t s) (hq : ∀ m : SectionId, t ∉ s.secs[m].queue) :
    WaitersSettled s := fun m u hu => h.1 u (fun e => hq m (e ▸ hu))

theorem Agree.regrants {s u : State} (h : Agree s) (e : Regrants s u) : Agree u :=
  ⟨fun t => e.settled t (h.1 t), e.sections h.2⟩

theorem AgreeBut.regrants {s u : State} {t : TrainId} (h : AgreeBut t s) (e : Regrants s u) : AgreeBut t u :=
  ⟨fun v hv => e.settled v (h.1 v hv), e.sections h.2⟩

theorem Agree.reevaluate {o : Option SectionId} {s : State} (h : Agree s) : Agree (reevaluate o s) :=
  h.regrants (reevaluate_regrants o h.waiters)

end Sys2Proof.Machine
end


section
/-! Releases, cancels, renews and the Train Unit keep trains and sections in agreement (R74 to R80, R87 to R101). -/

namespace Sys2Proof.Machine

/-! ## Cancels (R75) -/

/-- The reserved section of a train is found (R62). -/
theorem reservedBy_some {s : State} {t : TrainId} {n : SectionId} (h : reservedBy s t = some n) :
    ∃ ph kept, s.secs[n].state = .reserved t ph kept := by
  have hf := List.find?_some h
  split at hf
  · next u ph kept e => exact ⟨ph, kept, by rw [e, beq_iff_eq.1 hf]⟩
  all_goals cases hf

/-- A train whose reserved section is not found has none. -/
theorem reservedBy_none {s : State} {t : TrainId} (h : reservedBy s t = none) (n : SectionId) (ph : Phase)
    (kept : SectionId) : s.secs[n].state ≠ .reserved t ph kept := by
  intro e
  have hf := List.find?_eq_none.1 h n (List.mem_finRange n)
  rw [e] at hf
  exact hf (beq_self_eq_true t)

/-- A train that loses its reservation (R75). -/
def unreserve (x : Train) : Train := { x with res := none, arrival := none }

/-- A section of a train is vacated while the train loses its part in it: what it says of the others stays. -/
theorem SectionsOk.vacated {s : State} {n : SectionId} (h : SectionsOk s) (hn : s.secs[n].state ≠ .free) :
    SectionOk s.tables.sections[n] (vacated s.secs[n]) := h.restate (h.inUse hn) (List.Sublist.refl _)

/-- A vacated section has no owner (R75, R76). -/
theorem ownerOf_vacated (x : Section) : ownerOf (vacated x).state = none := by
  unfold vacated
  dsimp only
  split <;> rfl

/-- A vacated section is held or reserved by nobody. -/
theorem vacated_state_ne (x : Section) (t : TrainId) :
    (∀ kept, (vacated x).state ≠ .held t kept) ∧ ∀ ph kept, (vacated x).state ≠ .reserved t ph kept := by
  constructor <;> intros <;> intro e <;> have := ownerOf_vacated x <;> rw [e] at this <;> cases this

/-- A cancel of a train that is not RUNNING: all agree after it, and the train has left its queue and its reservation. -/
theorem Agree.cancel {t : TrainId} {s : State} (h : Agree s) (hs : s.trains[t].state ≠ .running) :
    Agree (cancel t s) ∧ (Machine.cancel t s).trains[t] = unreserve { s.trains[t] with queued := none } := by
  have h1 : Agree (Machine.dequeue t s) := h.dequeue
  obtain ⟨hp, hf⟩ := h1.1 t
  rw [dequeue_train] at hp hf
  have hfit : Fit (Machine.dequeue t s).tables.trains[t] (unreserve { s.trains[t] with queued := none }) :=
    ⟨hf.route, hf.few, hf.once, hf.holdsNone, fun e => absurd rfl e, fun _ => rfl, fun e => absurd e hs, hf.target⟩
  unfold Machine.cancel
  dsimp only
  rw [dequeue_train]
  generalize Machine.dequeue t s = u at h1 hp hf hfit
  split
  · next hn =>
    have hr : s.trains[t].res = none := by
      refine Option.eq_none_iff_forall_ne_some.2 fun ⟨m, ph⟩ e => ?_
      obtain ⟨kept, he⟩ := (hp.reserves m ph).1 e
      exact reservedBy_none (s := setTrain t _ u) hn m ph kept he
    exact ⟨(h1.but t).settle (hp.drive rfl hr.symm rfl) hfit, get_set_same _ _ _⟩
  · next n hn =>
    obtain ⟨ph, kept, he⟩ := reservedBy_some hn
    have he : u.secs[n].state = .reserved t ph kept := he
    have hr : s.trains[t].res = some (n, ph) := (hp.reserves n ph).2 ⟨kept, he⟩
    have hv := vacated_state_ne u.secs[n] t
    have placed : Placed t (unreserve { s.trains[t] with queued := none }) (u.secs.set n (vacated u.secs[n])) := by
      refine hp.set (fun _ _ => Iff.rfl) ?_ (fun m p hm => ?_) (fun p => ?_) (fun _ _ => Iff.rfl) (hp.waits n)
      · refine (hp.holds n).trans (iff_of_false ?_ (fun ⟨k, e⟩ => hv.1 k e))
        rw [he]
        exact fun ⟨_, e⟩ => nomatch e
      · exact iff_of_false nofun (by simp [-Fin.getElem_fin, hr, hm.symm])
      · exact iff_of_false nofun (fun ⟨k, e⟩ => hv.2 p k e)
    have hw : Agree (setSec n (vacated u.secs[n]) (setTrain t (unreserve { s.trains[t] with queued := none }) u)) :=
      h1.update (fun v hv => aside_owned (t := t) (.inl (by rw [he]; rfl)) (.inr (ownerOf_vacated _)) hv Iff.rfl)
        (h1.2.vacated (by rw [he]; exact SecState.noConfusion)) placed hfit
    refine ⟨hw.reevaluate, ?_⟩
    have hin : (setSec n (vacated u.secs[n]) (setTrain t (unreserve { s.trains[t] with queued := none }) u)).trains[t] =
        unreserve { s.trains[t] with queued := none } := get_set_same _ _ _
    have hkept := ((reevaluate_regrants (vacateTrigger n u.secs[n]) hw.waiters).spared t
      ((hw.1 t).1.unqueued (by rw [hin]; rfl))).1
    exact hkept.trans hin

/-- A train on the track, not RUNNING, is stopped with a cancel (R89, R93). -/
theorem Agree.stopCancelled {t : TrainId} {s : State} (h : Agree s) (hr : s.trains[t].state ≠ .running)
    (hp : s.trains[t].state ≠ .parked) : Agree (stopCancelled t s) := by
  obtain ⟨hc, e⟩ := h.cancel hr
  have ho : OnRoute (Machine.cancel t s).tables.trains[t] (Machine.cancel t s).trains[t] :=
    (hc.1 t).2.onRoute (by rw [e]; exact hp)
  refine hc.drive rfl rfl rfl (ho.fit_standing rfl (.inl ⟨rfl, ?_⟩) rfl ?_)
  · exact congrArg Train.res e
  · exact congrArg Train.queued e

/-! ## Releases (R76, R80) -/

/-- A held section released behind the head: before the re-evaluation. -/
def releasedHeld (t : TrainId) (n : SectionId) (s : State) : State :=
  appendCue s.tables.sections[n].releaseCue .sectionCue
    (setTrain t { s.trains[t] with hold := s.trains[t].hold.filter (· != n) }
      (setSec n { s.secs[n] with state := .free } s))

theorem releaseHeld_eq (t : TrainId) (n : SectionId) (s : State) :
    releaseHeld t n s = reevaluate (some n) (releasedHeld t n s) := rfl

/-- A train gives up a section that it holds: it is placed among the sections without it. -/
theorem Placed.release {t : TrainId} {x : Train} {secs : Vector Section 16} {n : SectionId} {z : Section}
    (h : Placed t x secs) {kept : Option SectionId} (hn : secs[n].state = .held t kept) (hz : ownerOf z.state = none)
    (hq : z.queue = secs[n].queue) : Placed t { x with hold := x.hold.filter (· != n) } (secs.set n z) := by
  refine h.set (fun m hm => by simp [hm]) (iff_of_false (by simp) ?_) (fun _ _ _ => Iff.rfl) (fun p => ?_)
    (fun _ _ => Iff.rfl) (by rw [hq]; exact h.waits n)
  · rintro ⟨k, e⟩
    rw [e] at hz
    cases hz
  · refine (h.reserves n p).trans (iff_of_false ?_ ?_)
    · rw [hn]
      exact fun ⟨_, e⟩ => nomatch e
    · rintro ⟨k, e⟩
      rw [e] at hz
      cases hz

/-- The other trains, and the sections, agree after the release of a section held behind the head. -/
theorem AgreeBut.releasedHeld {t : TrainId} {n : SectionId} {s : State} (h : AgreeBut t s) {kept : Option SectionId}
    (hn : s.secs[n].state = .held t kept) : AgreeBut t (releasedHeld t n s) := by
  have hu : AgreeBut t (setSec n { s.secs[n] with state := .free } s) :=
    h.putSec (fun u hu => aside_owned (t := t) (.inl (by rw [hn]; rfl)) (.inr rfl) hu Iff.rfl)
      (h.2.restate (h.2.inUse (by rw [hn]; exact SecState.noConfusion)) (List.Sublist.refl _))
  exact hu.putTrain.rails (appendCue_rails _ _ _)

/-- A train not at its head releases a section; what it says of the rest stays, and a re-evaluation follows (R80). -/
theorem Agree.releaseHeld {t : TrainId} {n : SectionId} {s : State} (h : Agree s) {kept : Option SectionId}
    (hn : s.secs[n].state = .held t kept) (hh : s.trains[t].hold.head? ≠ some n) : Agree (releaseHeld t n s) := by
  obtain ⟨hp, hf⟩ := h.1 t
  have hmem : n ∈ s.trains[t].hold := (hp.holds n).2 ⟨kept, hn⟩
  rw [releaseHeld_eq]
  refine Agree.reevaluate (((h.but t).releasedHeld hn).agree (Settled.rails ?_ (appendCue_rails _ _ _)))
  refine settled_setTrain (hp.release hn rfl rfl) ⟨hf.route, ?_, hf.once.filter _, ?_, hf.waitsFree, hf.unreserved,
    hf.running, hf.target⟩
  · exact (List.length_filter_le _ _).trans hf.few
  · rw [← hf.holdsNone]
    cases e : s.trains[t].hold with
    | nil => simp
    | cons m rest =>
      have hm : m ≠ n := fun e' => hh (by rw [e, e']; rfl)
      simp [hm]

/-- Train `t` releases all: the sections `left` are still to be released, and all else agrees. -/
structure Releasing (t : TrainId) (x : Train) (left : List SectionId) (s : State) : Prop where
  others : AgreeBut t s
  train : s.trains[t] = x
  placed : Placed t { x with hold := left } s.secs

/-- One section of a release all (R76). -/
theorem Releasing.releaseOne {t : TrainId} {x : Train} {n : SectionId} {left : List SectionId} {s : State}
    (h : Releasing t x (n :: left) s) (hn : n ∉ left) (hq : x.queued = none) :
    Releasing t x left (Machine.releaseOne n s) := by
  obtain ⟨kept, hs⟩ := (h.placed.holds n).1 List.mem_cons_self
  have hne : s.secs[n].state ≠ .free := by rw [hs]; exact SecState.noConfusion
  have hleft : (n :: left).filter (· != n) = left := by
    rw [List.filter_cons_of_neg (by simp), List.filter_eq_self]
    intro m hm
    exact bne_iff_ne.2 fun e => hn (e ▸ hm)
  let u := appendCue s.tables.sections[n].releaseCue .sectionCue (setSec n (vacated s.secs[n]) s)
  have eu : SameRails u (setSec n (vacated s.secs[n]) s) := appendCue_rails _ _ _
  have hu : AgreeBut t u :=
    (h.others.putSec (fun v hv => aside_owned (t := t) (.inl (by rw [hs]; rfl)) (.inr (ownerOf_vacated _)) hv Iff.rfl)
      (h.others.2.vacated hne)).rails eu
  have placed : Placed t { x with hold := left } u.secs := by
    have hp := h.placed.release hs (ownerOf_vacated s.secs[n]) rfl
    dsimp only at hp
    rw [hleft] at hp
    rw [eu.secs]
    exact hp
  have free : ∀ m : SectionId, t ∉ u.secs[m].queue := placed.unqueued hq
  have e := reevaluate_regrants (vacateTrigger n s.secs[n]) (hu.waiters free)
  obtain ⟨et, ea⟩ := e.spared t free
  exact ⟨hu.regrants e, et.trans (by rw [eu.trains]; exact h.train), placed.of_aside ea⟩

theorem Releasing.all {t : TrainId} {x : Train} (hq : x.queued = none) {left : List SectionId} (hl : left.Nodup) :
    ∀ {s : State}, Releasing t x left s → Releasing t x [] (left.foldl (fun u n => Machine.releaseOne n u) s) := by
  induction left with
  | nil => exact fun h => h
  | cons n left ih =>
    obtain ⟨hn, hl⟩ := List.nodup_cons.1 hl
    exact fun h => ih hl (h.releaseOne hn hq)

/-- TRAIN CLEAR parks a train that is not RUNNING, with its sections released (R76, R94). -/
theorem Agree.clear {t : TrainId} {s : State} (h : Agree s) (hr : s.trains[t].state ≠ .running) :
    Agree (setTrain t (cleared (releaseAll t s).trains[t]) (releaseAll t s)) := by
  obtain ⟨hc, e⟩ := h.cancel hr
  obtain ⟨hp, hf⟩ := hc.1 t
  have hq : (Machine.cancel t s).trains[t].queued = none := congrArg Train.queued e
  have hres : (Machine.cancel t s).trains[t].res = none := congrArg Train.res e
  have start : Releasing t (Machine.cancel t s).trains[t] (Machine.cancel t s).trains[t].hold.reverse (Machine.cancel t s) :=
    ⟨hc.but t, rfl, ⟨fun n => by rw [← hp.holds n]; exact List.mem_reverse, hp.reserves, hp.waits⟩⟩
  have done := Releasing.all hq (List.nodup_reverse.2 hf.once) start
  let u := (Machine.cancel t s).trains[t].hold.reverse.foldl (fun u n => Machine.releaseOne n u) (Machine.cancel t s)
  have recs : u.tables = s.tables :=
    foldl_keeps (P := fun v => v.tables = s.tables) _ _ (fun v n _ hv => (((closed_fixed v).releaseOne
      (fixed_refl v)).2.1).trans hv) _ ((closed_fixed s).cancel (fixed_refl s)).2.1
  let y := cleared (setTrain t { u.trains[t] with hold := [] } u).trains[t]
  have final : Agree (setTrain t y (setTrain t { u.trains[t] with hold := [] } u)) := by
    refine done.others.putTrain.settle (done.placed.drive rfl hres.symm hq.symm) ?_
    refine ⟨fun hu => ?_, Nat.zero_le _, List.nodup_nil, iff_of_true rfl rfl, fun e => absurd rfl e, fun _ => rfl,
      fun e => (nomatch e), fun _ _ => rfl⟩
    have hu : u.tables.trains[t].inUse = true := hu.resolve_right (fun e => e rfl)
    show RouteOk u.tables.trains[t]
    rw [recs] at hu ⊢
    exact (h.1 t).2.route (.inl hu)
  exact final

/-! ## Renews (R74) and runs (R92, R99) -/

/-- A telling of SET leaves the sections. -/
theorem tellSet_secs (t : TrainId) (s : State) : (tellSet t s).secs = s.secs := by
  unfold tellSet
  dsimp only
  repeat' split
  all_goals rfl

/-- A check leaves the owner of its section its reservation, SET or SETTING (R73). -/
theorem checkSetting_reserved {n : SectionId} {s : State} {t : TrainId} {ph : Phase} {kept : SectionId}
    (h : s.secs[n].state = .reserved t ph kept) :
    ∃ ph', (checkSetting n s).secs[n].state = .reserved t ph' kept := by
  unfold checkSetting
  split
  · next v k e =>
    obtain ⟨rfl, rfl, rfl⟩ := SecState.reserved.inj (h.symm.trans e)
    split
    · refine ⟨.set, ?_⟩
      simp only [tellSet_secs, setSec_secs, get_set_same]
    · exact ⟨_, h⟩
  all_goals exact ⟨ph, h⟩

/-- The guard of a section ordered anew, unless its axis seeks (R74, R81). -/
def guardRenewed (n : SectionId) (s : State) : State :=
  match s.tables.sections[n].guardAxis with
  | none => s
  | some a => if s.axes[a].state == .seeking then s else orderGuard n s

theorem guardRenewed_rails (n : SectionId) (s : State) : SameRails (guardRenewed n s) s := by
  unfold guardRenewed
  split
  · exact SameRails.refl s
  · split
    · exact SameRails.refl s
    · exact orderGuard_rails n s

/-- A renew of a SET reservation changes nothing (R74). -/
theorem renew_of_set {t : TrainId} {s : State} {n u kept} (hn : reservedBy s t = some n)
    (hs : s.secs[n].state = .reserved u .set kept) : renew t s = (some .set, s) := by
  simp [-Fin.getElem_fin, renew, hn, hs]

/-- A renew of a SETTING reservation orders the guard anew, and answers the phase that the check leaves (R74). -/
theorem renew_of_setting {t : TrainId} {s : State} {n u kept} (hn : reservedBy s t = some n)
    (hs : s.secs[n].state = .reserved u .setting kept) {v ph k}
    (hc : (checkSetting n (guardRenewed n s)).secs[n].state = .reserved v ph k) :
    renew t s = (some ph, checkSetting n (guardRenewed n s)) := by
  unfold renew
  simp only [hn]
  split
  · next e => exact nomatch hs.symm.trans e
  · show (match (checkSetting n (guardRenewed n s)).secs[n].state with
      | .reserved _ .set _ => (some Phase.set, checkSetting n (guardRenewed n s))
      | _ => (some Phase.setting, checkSetting n (guardRenewed n s))) = _
    rw [hc]
    cases ph <;> rfl
  all_goals next e => exact nomatch hs.symm.trans e

/-- A renew of a train with a reservation answers the phase that its section then has (R74). -/
theorem Agree.renew {t : TrainId} {s : State} {n : SectionId} (h : Agree s) (hn : reservedBy s t = some n) :
    ∃ ph kept, (renew t s).1 = some ph ∧ (Machine.renew t s).2.secs[n].state = .reserved t ph kept ∧
      Agree (Machine.renew t s).2 := by
  obtain ⟨ph, kept, hs⟩ := reservedBy_some hn
  cases ph with
  | set =>
    rw [renew_of_set hn hs]
    exact ⟨.set, kept, rfl, hs, h⟩
  | setting =>
    have e := guardRenewed_rails n s
    obtain ⟨ph', h'⟩ := checkSetting_reserved (s := guardRenewed n s) (by rw [e.secs]; exact hs)
    rw [renew_of_setting hn hs h']
    exact ⟨ph', kept, rfl, h', (h.rails e).checkSetting⟩

/-- A RUN of a train with a reservation renews it (R92, R99). -/
theorem Agree.renewRun {t : TrainId} {s : State} (h : Agree s) (hr : s.trains[t].res ≠ none) : Agree (renewRun t s) := by
  obtain ⟨n, hn⟩ : ∃ n, reservedBy s t = some n := by
    refine Option.ne_none_iff_exists'.1 fun e => ?_
    obtain ⟨⟨m, ph⟩, hm⟩ := Option.ne_none_iff_exists'.1 hr
    obtain ⟨kept, hk⟩ := ((h.1 t).1.reserves m ph).1 hm
    exact reservedBy_none e m ph kept hk
  obtain ⟨ph, kept, hph, hs, hu⟩ := h.renew hn
  unfold Machine.renewRun
  simp only [hph]
  generalize (Machine.renew t s).2 = u at hu hs
  obtain ⟨hp, hf⟩ := hu.1 t
  have hres : u.trains[t].res = some (n, ph) := (hp.reserves n ph).2 ⟨kept, hs⟩
  obtain ⟨hpk, -, hq⟩ := hf.of_reserved (by rw [hres]; exact Option.some_ne_none _)
  have ho := hf.onRoute hpk
  cases ph with
  | set => exact hu.drive rfl rfl rfl (ho.fit_running rfl rfl rfl hres hq)
  | setting =>
    exact hu.drive (holdBack_hold ..) (holdBack_res ..) (holdBack_queued ..)
      (ho.fit_heldBack rfl u .resume (fun e => absurd hq e))

theorem Agree.resume {t : TrainId} {s : State} (h : Agree s) {why : HaltReason} (hs : s.trains[t].state = .halted why) :
    Agree (resume t s) := by
  have hf := (h.1 t).2
  have hpk : s.trains[t].state ≠ .parked := hs.trans_ne nofun
  have hq : s.trains[t].queued = none := hf.unqueued (hs.trans_ne nofun) (hs.trans_ne nofun)
  unfold Machine.resume
  split
  · next n e => exact h.drive rfl rfl rfl ((hf.onRoute hpk).fit_running rfl rfl rfl e hq)
  · next n e => exact h.renewRun (by rw [e]; exact Option.some_ne_none _)
  · next e => exact h.sendRequest hpk e hq

/-! ## Train actions -/

theorem Agree.trainPlace {t : TrainId} {i : Nat} {s : State} (h : Agree s) (hu : s.tables.trains[t].inUse = true) :
    Agree (trainPlace t i s).2 := by
  obtain ⟨hp, hf⟩ := h.1 t
  unfold Machine.trainPlace
  split
  · next n hs _ =>
    have hh : s.trains[t].hold = [] := hf.holdsNone.2 hs
    have hr : s.trains[t].res = none := hf.unreserved (.inl hs)
    have hq : s.trains[t].queued = none := hf.unqueued (hs.trans_ne nofun) (hs.trans_ne nofun)
    let y : Train := { s.trains[t] with state := .stopped, hold := [n], headIndex := i, speed := 0, target := 0 }
    let x : Section := { s.secs[n] with state := .held t none }
    have hy : Fit s.tables.trains[t] y :=
      ⟨fun _ => hf.route (.inl hu), by simp [y], by simp [y], iff_of_false (by simp [y]) (by simp [y]),
        fun e => absurd hq e, fun _ => hr, fun e => (nomatch e), fun _ _ => rfl⟩
    have placed : Placed t y (s.secs.set n x) := by
      refine hp.set (fun m hm => ?_) (by simp [x, y]) (fun _ _ _ => Iff.rfl) (fun p => ?_) (fun _ _ => Iff.rfl)
        (hp.waits n)
      · rw [hh]
        simp [y, hm]
      · exact iff_of_false (by simp [-Fin.getElem_fin, y, hr]) (fun ⟨_, e⟩ => nomatch e)
    have takes : (s.secs[n].state = .free ∨ s.secs[n].state = .blocked) → s.tables.sections[n].inUse = true →
        Agree (setTrain t y (setSec n x s)) := fun hn hi =>
      h.update (fun u hu => aside_owned (t := t) (.inr (by rcases hn with e | e <;> rw [e] <;> rfl)) (.inl rfl) hu Iff.rfl)
        (h.2.restate hi (List.Sublist.refl _)) placed hy
    unfold hold
    split
    · next hi =>
      split
      · next e => exact takes (.inl e) hi
      · next e => exact takes (.inr e) hi
      all_goals exact h
    · exact h
  · exact h

theorem Agree.trainRun {t : TrainId} {s : State} (h : Agree s) : Agree (trainRun t s).2 := by
  have hf := (h.1 t).2
  unfold Machine.trainRun
  dsimp only
  split
  · exact h
  · split
    · exact h
    · exact h
    · next e =>
      exact h.sendRequest (e.trans_ne nofun) (hf.unreserved (.inr e)) (hf.unqueued (e.trans_ne nofun) (e.trans_ne nofun))
    · split
      · next e => exact h.renewRun (by rw [e]; exact Option.some_ne_none _)
      all_goals exact h
    · exact h
    · exact h
    · next why e =>
      split
      · exact h.resume e
      · exact h

theorem Agree.trainStop {t : TrainId} {s : State} (h : Agree s) : Agree (trainStop t s).2 := by
  have hf := (h.1 t).2
  unfold Machine.trainStop
  dsimp only
  split
  · exact h
  · exact h
  · exact h
  · next e => exact h.stopCancelled (e.trans_ne nofun) (e.trans_ne nofun)
  · next e =>
    exact h.drive rfl rfl rfl ((hf.onRoute (e.trans_ne nofun)).fit_standing rfl (.inr (.inl rfl)) rfl
      (hf.unqueued (e.trans_ne nofun) (e.trans_ne nofun)))
  · next e =>
    have hu : Agree (Machine.dequeue t s) := h.dequeue
    have ho : OnRoute (Machine.dequeue t s).tables.trains[t] (Machine.dequeue t s).trains[t] :=
      (hu.1 t).2.onRoute (by rw [dequeue_train]; exact e.trans_ne nofun)
    exact hu.drive rfl rfl rfl (ho.fit_standing rfl (.inr (.inl rfl)) rfl (congrArg Train.queued (dequeue_train t s)))
  · next why e =>
    split
    · exact h.stopCancelled (e.trans_ne nofun) (e.trans_ne nofun)
    · exact h

theorem Agree.trainClear {t : TrainId} {s : State} (h : Agree s) : Agree (trainClear t s).2 := by
  have clears : ∀ b : Bool, (b = true → s.trains[t].state ≠ .running) →
      Agree (if b then (none, setTrain t (cleared (releaseAll t s).trains[t]) (releaseAll t s))
        else (some Reason.state, s) : Option Reason × State).2 := by
    intro b hb
    split
    · next e => exact h.clear (hb e)
    · exact h
  refine clears _ (fun ha e => ?_)
  rw [e] at ha
  cases ha

theorem fit_takeCruise {r : TrainRec} {x : Train} (h : Fit r x) (v : Nat) : Fit r (takeCruise v x) := by
  unfold takeCruise
  dsimp only
  split
  · next e =>
    exact ⟨h.route, h.few, h.once, h.holdsNone, h.waitsFree, h.unreserved, fun _ => ⟨rfl, (h.running e).2⟩,
      fun hs => absurd e hs⟩
  · next e _ =>
    exact ⟨h.route, h.few, h.once, h.holdsNone, h.waitsFree, h.unreserved, fun hs => (nomatch e.symm.trans hs),
      fun _ hs => absurd e hs⟩
  · next hr _ =>
    exact ⟨h.route, h.few, h.once, h.holdsNone, h.waitsFree, h.unreserved, fun hs => absurd hs hr, h.target⟩

theorem Agree.trainCruise {t : TrainId} {v : Nat} {s : State} (h : Agree s) : Agree (trainCruise t v s) := by
  have e : (takeCruise v s.trains[t]).hold = s.trains[t].hold ∧ (takeCruise v s.trains[t]).res = s.trains[t].res ∧
      (takeCruise v s.trains[t]).queued = s.trains[t].queued := by
    unfold takeCruise
    dsimp only
    split <;> exact ⟨rfl, rfl, rfl⟩
  exact h.drive e.1 e.2.1 e.2.2 (fit_takeCruise (h.1 t).2 v)

/-! ## Trains on a scene step (R87 to R89) -/

theorem Agree.rampTrain {t : TrainId} {s : State} (h : Agree s) : Agree (rampTrain t s) :=
  h.drive rfl rfl rfl ((h.1 t).2.congr rfl rfl rfl rfl rfl rfl)

/-- The arrival counter is no part of the agreement. -/
theorem Agree.setArrival {t : TrainId} {c : Option Nat} {s : State} (h : Agree s) :
    Agree (setTrain t { s.trains[t] with arrival := c } s) :=
  h.drive rfl rfl rfl ((h.1 t).2.congr rfl rfl rfl rfl rfl rfl)

theorem Agree.arrivalTimesOut {t : TrainId} {s : State} (h : Agree s) : Agree (arrivalTimesOut t s) := by
  unfold Machine.arrivalTimesOut
  split
  · exact h.setArrival.halt
  · exact h

theorem Agree.arrivalStep {t : TrainId} {s : State} (h : Agree s) : Agree (arrivalStep t s) := by
  unfold Machine.arrivalStep
  split
  · exact h.arrivalTimesOut
  · split
    · exact h.setArrival
    · exact h

/-- A brake delay is counted or ended only in APPROACH, where it may change the target (R89 item 1). -/
theorem fit_brakeDelay {r : TrainRec} {x : Train} (h : Fit r x) (hs : x.state = .approach) (d : Option Nat) (v : Nat) :
    Fit r { x with brakeDelay := d, target := v } :=
  ⟨h.route, h.few, h.once, h.holdsNone, h.waitsFree, h.unreserved, fun e => (nomatch hs.symm.trans e),
    fun _ e => absurd hs e⟩

theorem Agree.brakeDelayEnds {t : TrainId} {s : State} (h : Agree s) :
    Agree (setTrain t (brakeDelayEnds s.trains[t]) s) := by
  have stays : Agree (setTrain t s.trains[t] s) := h.drive rfl rfl rfl (h.1 t).2
  unfold Machine.brakeDelayEnds
  split
  · next e _ =>
    split
    · exact h.drive rfl rfl rfl (fit_brakeDelay (h.1 t).2 e none 0)
    · exact stays
  · exact stays

theorem Agree.brakeDelayStep {t : TrainId} {s : State} (h : Agree s) :
    Agree (setTrain t (brakeDelayStep s.trains[t]) s) := by
  unfold Machine.brakeDelayStep
  split
  · next n e _ =>
    split
    · exact h.brakeDelayEnds
    · exact h.drive rfl rfl rfl (fit_brakeDelay (h.1 t).2 e (some (n - 1)) s.trains[t].target)
  · exact h.drive rfl rfl rfl (h.1 t).2

theorem Agree.standStill {t : TrainId} {s : State} (h : Agree s) : Agree (standStill t s) := by
  have hf := (h.1 t).2
  unfold Machine.standStill
  dsimp only
  split
  · next e =>
    split
    · exact h.drive rfl rfl rfl ((hf.onRoute (e.trans_ne nofun)).fit_held rfl (.inl ⟨rfl, rfl⟩)
        (fun hq => (hf.waitsFree hq).1))
    · exact h
  · next e =>
    split
    · exact h.stopCancelled (e.trans_ne nofun) (e.trans_ne nofun)
    · exact h
  all_goals exact h

theorem Agree.retryStep {t : TrainId} {s : State} (h : Agree s) : Agree (retryStep t s) := by
  have sends : ∀ b : Bool, (b = true → s.trains[t].state ≠ .parked) →
      Agree (if b && s.trains[t].res.isNone && s.trains[t].queued.isNone && s.trains[t].retry then
        Machine.sendRequest .keep t s else s) := by
    intro b hb
    split
    · next hw =>
      simp only [Bool.and_eq_true, Option.isNone_iff_eq_none] at hw
      obtain ⟨⟨⟨hs, hr⟩, hq⟩, -⟩ := hw
      exact h.sendRequest (hb hs) hr hq
    · exact h
  refine sends _ (fun ha e => ?_)
  rw [e] at ha
  cases ha

theorem Agree.trainWork {t : TrainId} {s : State} (h : Agree s) : Agree (trainWork t s) := by
  unfold Machine.trainWork
  split
  · exact h
  all_goals exact h.brakeDelayStep.arrivalStep.standStill.retryStep

theorem Agree.rampsFirst {s : State} (h : Agree s) : Agree (rampsFirst s) :=
  foldl_keeps _ _ (fun _ _ _ hu => hu.trainWork) _ (foldl_keeps _ _ (fun _ _ _ hu => hu.rampTrain) _ h)

theorem Agree.trainByTrain {s : State} (h : Agree s) : Agree (trainByTrain s) :=
  foldl_keeps _ _ (fun _ _ _ hu => hu.rampTrain.trainWork) _ h

theorem Agree.stepTrains {s : State} (h : Agree s) : Agree (stepTrains s) := by
  unfold Machine.stepTrains
  split
  · exact h.rampsFirst
  · have hd := h.rails (draw_rails s)
    dsimp only
    split
    · exact hd.rampsFirst
    · exact hd.trainByTrain

end Sys2Proof.Machine
end


section
/-! Entries, detector events, cab faults, rest and the Axis Unit keep trains and sections in agreement (R78 to R81, R97, R98,
R100, R101, R107, R115 to R122). -/

namespace Sys2Proof.Machine

/-! ## Entries (R79, R97) -/

/-- Every train but one agrees, and that one has its part in the sections. -/
structure Apart (t : TrainId) (x : Train) (s : State) : Prop where
  others : AgreeBut t s
  train : s.trains[t] = x
  placed : Placed t x s.secs

theorem Apart.rails {t : TrainId} {x : Train} {s u : State} (h : Apart t x s) (e : SameRails u s) : Apart t x u :=
  ⟨h.others.rails e, by rw [e.trains]; exact h.train, by rw [e.secs]; exact h.placed⟩

/-- A re-evaluation passes a train that stands in no queue by. -/
theorem Apart.reevaluate {t : TrainId} {x : Train} {s : State} (h : Apart t x s) (hq : x.queued = none)
    (o : Option SectionId) : Apart t x (reevaluate o s) := by
  have free : ∀ m : SectionId, t ∉ s.secs[m].queue := h.placed.unqueued hq
  have e := reevaluate_regrants o (h.others.waiters free)
  obtain ⟨et, ea⟩ := e.spared t free
  exact ⟨h.others.regrants e, et.trans h.train, h.placed.of_aside ea⟩

/-- A train apart gives up a section that it holds (R80). -/
theorem Apart.releaseHeld {t : TrainId} {x : Train} {s : State} {n : SectionId} (h : Apart t x s) (hq : x.queued = none)
    (hn : n ∈ x.hold) : Apart t { x with hold := x.hold.filter (· != n) } (releaseHeld t n s) := by
  obtain ⟨kept, hs⟩ := (h.placed.holds n).1 hn
  have released : Apart t { x with hold := x.hold.filter (· != n) } (releasedHeld t n s) := by
    refine ⟨h.others.releasedHeld hs, ?_, ?_⟩
    · rw [releasedHeld, (appendCue_rails _ _ _).trains, ← h.train]
      exact get_set_same _ _ _
    · rw [releasedHeld, (appendCue_rails _ _ _).secs]
      exact h.placed.release hs rfl rfl
  exact released.reevaluate hq _

/-- A train apart agrees if it may be as it is. -/
theorem Apart.agree {t : TrainId} {x : Train} {s : State} (h : Apart t x s) (hf : Fit s.tables.trains[t] x) : Agree s :=
  h.others.agree ⟨by rw [h.train]; exact h.placed, by rw [h.train]; exact hf⟩

/-- The sections and the train as an entry is taken, before the release of the head that was. -/
def entryTaken (t : TrainId) (n kept : SectionId) (s : State) : State :=
  let s1 := appendCue s.tables.sections[n].entryCue .sectionCue (setSec n { s.secs[n] with state := .held t (some kept) } s)
  setTrain t (entered s1.tables.trains[t] n s1.trains[t]) s1

/-- A train holds the section that it entered. -/
theorem Apart.entryTaken {t : TrainId} {n kept : SectionId} {s : State} (h : Agree s)
    (hs : s.secs[n].state = .reserved t .set kept) :
    Apart t (entered s.tables.trains[t] n s.trains[t]) (entryTaken t n kept s) := by
  have hp := (h.1 t).1
  have hr : s.trains[t].res = some (n, .set) := (hp.reserves n _).2 ⟨kept, hs⟩
  let u := setSec n { s.secs[n] with state := .held t (some kept) } s
  let v := appendCue s.tables.sections[n].entryCue .sectionCue u
  have e : SameRails v u := appendCue_rails _ _ _
  have hx : entered v.tables.trains[t] n v.trains[t] = entered s.tables.trains[t] n s.trains[t] := by
    rw [e.tables, e.trains]
    rfl
  have hb : AgreeBut t u := (h.but t).putSec
    (fun w hw => aside_owned (t := t) (.inl (by rw [hs]; rfl)) (.inl rfl) hw Iff.rfl)
    (h.2.restate (h.2.inUse (by rw [hs]; exact SecState.noConfusion)) (List.Sublist.refl _))
  refine ⟨(hb.rails e).putTrain, (get_set_same _ _ _).trans hx, ?_⟩
  show Placed t _ v.secs
  rw [e.secs]
  refine hp.set (fun m hm => ?_) ?_ (fun m p hm => ?_) (fun p => ?_) (fun _ _ => Iff.rfl) (hp.waits n)
  · simp [entered, hm]
  · simp [entered]
  · exact iff_of_false nofun (by simp [-Fin.getElem_fin, hr, hm.symm])
  · exact iff_of_false nofun (fun ⟨_, e⟩ => nomatch e)

/-- The request that a RUNNING train sends once its entry is taken (R79). -/
def entryRequest (t : TrainId) (s : State) : State :=
  match s.trains[t].state with
  | .running => sendRequest .entry t s
  | .parked | .stopped | .waiting | .approach | .stopping | .halted _ => s

/-- The head that was stays held while its detector is on, and is released otherwise (R97). -/
theorem takeEntry_eq {t : TrainId} {n kept h : SectionId} {s : State} (hh : s.trains[t].hold.head? = some h) :
    takeEntry t n kept s =
      entryRequest t (if (entryTaken t n kept s).secs[h].occ then entryTaken t n kept s
        else releaseHeld t h (entryTaken t n kept s)) := by
  unfold takeEntry
  simp only [hh]
  rfl

/-- An entry on a SET reservation keeps trains and sections in agreement, while the train holds at most three (R97). -/
theorem Agree.takeEntry {t : TrainId} {n kept : SectionId} {s : State} (h : Agree s)
    (hs : s.secs[n].state = .reserved t .set kept) (hl : heldAfter s s.trains[t] < 4) : Agree (takeEntry t n kept s) := by
  obtain ⟨hp, hf⟩ := h.1 t
  have hr : s.trains[t].res = some (n, .set) := (hp.reserves n _).2 ⟨kept, hs⟩
  obtain ⟨hpk, hst, hq⟩ := hf.of_reserved (by rw [hr]; exact Option.some_ne_none _)
  have ho := hf.onRoute hpk
  have hn : n ∉ s.trains[t].hold := by
    rw [hp.holds n, hs]
    exact fun ⟨_, e⟩ => nomatch e
  have ha := Apart.entryTaken h hs
  obtain ⟨head, rest, hhold⟩ := List.exists_cons_of_ne_nil ho.holding
  rw [takeEntry_eq (h := head) (by rw [hhold]; rfl)]
  -- The rest of the proof takes a train that holds `hold` after the release, if there was one.
  have takes : ∀ (hold : List SectionId) (u : State), hold ≠ [] → hold.length ≤ 3 → hold.Nodup →
      u.tables = s.tables → Apart t { entered s.tables.trains[t] n s.trains[t] with hold := hold } u →
      Agree (entryRequest t u) := by
    intro hold u hne hlen hnd ht hu
    have onRoute : OnRoute u.tables.trains[t] u.trains[t] := by
      rw [ht, hu.train]
      exact ⟨ho.route, hlen, hnd, hne⟩
    have stays : s.trains[t].state ≠ .running → Agree u := fun hrun => hu.agree
      ⟨fun _ => by rw [ht]; exact ho.route, hlen, hnd, iff_of_false hne hpk, fun e => absurd hq e, fun _ => rfl,
        fun e => absurd e hrun, hf.target⟩
    unfold entryRequest
    rw [hu.train]
    split
    · exact hu.others.sendRequest (by rw [hu.train]; exact hu.placed) onRoute (by rw [hu.train]; rfl)
        (by rw [hu.train]; exact hq)
    all_goals next e => exact stays (e.trans_ne nofun)
  have tables : (entryTaken t n kept s).tables = s.tables := (appendCue_rails _ _ _).tables
  obtain ⟨hd, hnd⟩ := List.nodup_cons.1 (hhold ▸ hf.once)
  rw [hhold] at hn
  obtain ⟨hnh, hnr⟩ := not_or.1 (mt List.mem_cons.2 hn)
  have hocc : (entryTaken t n kept s).secs[head].occ = s.secs[head].occ := by
    have e : (entryTaken t n kept s).secs = s.secs.set n { s.secs[n] with state := .held t (some kept) } :=
      (appendCue_rails _ _ _).secs
    rw [e, get_set_ne _ _ (Ne.symm hnh)]
  have few := hf.few
  rw [hhold] at few
  split
  · next hc =>
    refine takes (n :: s.trains[t].hold) _ nofun ?_ ?_ tables ha
    · rw [hocc] at hc
      simp only [heldAfter, hhold, List.head?_cons, hc, if_true, List.length_cons] at hl ⊢
      omega
    · rw [hhold]
      exact List.nodup_cons.2 ⟨hn, List.nodup_cons.2 ⟨hd, hnd⟩⟩
  · have hfilter : (n :: s.trains[t].hold).filter (· != head) = n :: rest := by
      rw [hhold, List.filter_cons_of_pos (by simpa using hnh), List.filter_cons_of_neg (by simp), List.filter_eq_self.2]
      exact fun m hm => bne_iff_ne.2 fun e => hd (e ▸ hm)
    have hrel := ha.releaseHeld (n := head) hq (by
      show head ∈ n :: s.trains[t].hold
      rw [hhold]
      simp)
    refine takes _ _ ?_ ?_ ?_ (((closed_fixed _).releaseHeld (fixed_refl _)).2.1.trans tables) hrel
    all_goals rw [show (entered s.tables.trains[t] n s.trains[t]).hold = n :: s.trains[t].hold from rfl, hfilter]
    · exact nofun
    · simpa using few
    · exact List.nodup_cons.2 ⟨hnr, hnd⟩

theorem Agree.entry {t : TrainId} {n kept : SectionId} {s : State} (h : Agree s)
    (hs : s.secs[n].state = .reserved t .set kept) : Agree (entry t n kept s) := by
  unfold Machine.entry
  split
  · exact h.halt
  · exact h.takeEntry hs (by omega)

/-! ## Detector events (R78 to R80) -/

theorem Agree.setOcc {n : SectionId} {v : Bool} {s : State} (h : Agree s) : Agree (setOcc n v s) :=
  h.putSec (fun _ => Aside.of_state rfl Iff.rfl) (h.2.requeue rfl (List.Sublist.refl _))

/-- A section without owner takes another state without owner. -/
theorem Agree.restate {n : SectionId} {x : SecState} {s : State} (h : Agree s) (hs : ownerOf s.secs[n].state = none)
    (hx : ownerOf x = none) (hu : s.tables.sections[n].inUse = true) :
    Agree (setSec n { s.secs[n] with state := x } s) :=
  h.putSec (fun u => Aside.of_not_owner (by simp [-Fin.getElem_fin, hs]) (by simp [hx]) Iff.rfl)
    (h.2.restate hu (List.Sublist.refl _))

theorem Agree.arrival {n : SectionId} {s : State} (h : Agree s) : Agree (arrival n s) := by
  have hu : Agree (Machine.setOcc n true s) := h.setOcc
  unfold Machine.arrival
  dsimp only
  generalize Machine.setOcc n true s = u at hu
  split
  · next hi =>
    split
    · next e => exact hu.entry e
    · exact hu.halt
    · next e => exact hu.restate (x := .blocked) (by rw [e]; rfl) rfl hi
    all_goals exact hu
  · exact hu

theorem Agree.clearing {n : SectionId} {s : State} (h : Agree s) : Agree (clearing n s) := by
  have hu : Agree (Machine.setOcc n false s) := h.setOcc
  unfold Machine.clearing
  dsimp only
  generalize Machine.setOcc n false s = u at hu
  split
  · next hi =>
    split
    · next e =>
      split
      · exact hu
      · next hh => exact hu.releaseHeld e hh
    · next e => exact (hu.restate (x := .free) (by rw [e]; rfl) rfl hi).reevaluate
    all_goals exact hu
  · exact hu

theorem Agree.detectorEvent {v : SectionId → Bool} {s : State} (h : Agree s) : Agree (detectorEvent v s) :=
  foldl_keeps _ _ (fun _ _ _ hu => hu.arrival) _ (foldl_keeps _ _ (fun _ _ _ hu => hu.clearing) _ h)

/-! ## Cab faults and rest (R100, R101) -/

/-- Every train changed in values that the agreement does not speak of. -/
theorem Agree.eachTrain {f : TrainId → Train} {s : State} (h : Agree s)
    (hd : ∀ t, Placed t (f t) s.secs ∧ Fit s.tables.trains[t] (f t)) : Agree { s with trains := tab f } :=
  ⟨fun t => by
    unfold Settled
    rw [tab_get]
    exact hd t, h.2⟩

theorem Agree.cabFaultEvent {v : TrainId → Bool} {s : State} (h : Agree s) : Agree (cabFaultEvent v s) := by
  have hv : Agree { s with trains := tab (fun t => { s.trains[t] with overload := v t }) } :=
    h.eachTrain fun t => ⟨(h.1 t).1.drive rfl rfl rfl, (h.1 t).2.congr rfl rfl rfl rfl rfl rfl⟩
  exact foldl_keeps _ _ (fun _ _ _ hu => hu.halt) _ (hv.rails (arrange_rails _ _))

theorem Agree.restTrain {t : TrainId} {s : State} (h : Agree s) : Agree (restTrain t s) := by
  unfold Machine.restTrain
  split
  · exact h.trainStop
  · exact h

theorem Agree.restTrains {s : State} (h : Agree s) : Agree (restTrains s) :=
  foldl_keeps _ _ (fun _ _ _ hu => hu.restTrain) _ (h.rails (arrange_rails _ s))

/-! ## Axes -/

theorem Agree.putAxis {a : AxisId} {y : Axis × Bool} {s : State} (h : Agree s) : Agree (putAxis a y s) := by
  have hu : Agree (setAxis a y.1 s) := h
  unfold Machine.putAxis
  dsimp only
  split
  · exact hu.axisStandTold
  · exact hu

theorem Agree.haltOwners {a : AxisId} {s : State} (h : Agree s) : Agree (haltOwners a s) :=
  foldl_keeps _ _ (fun _ _ _ hu => hu.halt) _ (h.rails (arrange_rails _ s))

theorem Agree.faultAxis {r : AxisFault} {a : AxisId} {s : State} (h : Agree s) : Agree (faultAxis r a s) := by
  have hu : Agree (latch .axisFault (.axis a r) (setAxis a (faultedAxis r s.axes[a]) s)) := h
  have hd := hu.rails (draw_rails _)
  unfold Machine.faultAxis
  dsimp only
  split
  · split
    · exact hd.axisFaultTold.haltOwners
    · exact hd.haltOwners.axisFaultTold
  · exact hu.haltOwners

theorem Agree.faultAxes {r : AxisFault} {as : List AxisId} {s : State} (h : Agree s) : Agree (faultAxes r as s) :=
  foldl_keeps _ _ (fun _ _ _ hu => hu.faultAxis) _ (h.rails (arrange_rails _ s))

theorem Agree.axisOrder {a : AxisId} {o : AxisOrder} {s : State} (h : Agree s) : Agree (axisOrder a o s).2 := by
  unfold Machine.axisOrder
  split
  · exact h
  · exact h.putAxis

theorem Agree.stepAxis {a : AxisId} {s : State} (h : Agree s) : Agree (stepAxis a s) := by
  unfold Machine.stepAxis
  split
  · exact h.putAxis
  · exact h

theorem Agree.stepAxes {s : State} (h : Agree s) : Agree (stepAxes s) :=
  foldl_keeps _ _ (fun _ _ _ hu => hu.stepAxis) _ h

theorem Agree.periodEvent {e : AxisId × PeriodEvent} {s : State} (h : Agree s) : Agree (periodEvent e s) := by
  unfold Machine.periodEvent
  split
  · exact h
  · exact h.axisStandTold
  · exact h.faultAxis

theorem Agree.axisPeriod {s : State} (h : Agree s) : Agree (axisPeriod s) :=
  have hu : Agree { s with axisDue := false, axes := tab (fun a => (frameOf s a).1) } := h
  foldl_keeps _ _ (fun _ _ _ hv => hv.periodEvent) _ (hu.rails (arrange_rails _ _))

theorem Agree.homeLimitPasses {a : AxisId} {s : State} (h : Agree s) : Agree (homeLimitPasses a s) := by
  unfold Machine.homeLimitPasses
  split
  · exact h.faultAxis
  · exact h

theorem Agree.findHome {a : AxisId} {s : State} (h : Agree s) : Agree (findHome a s) := h.putAxis.reevaluate

theorem Agree.homeEvent {v : AxisId → Bool} {s : State} (h : Agree s) : Agree (homeEvent v s) :=
  foldl_keeps _ _ (fun _ _ _ hu => hu.findHome) _ (Agree.rails (s := s) h ((arrange_rails _ _).trans ⟨rfl, rfl, rfl⟩))

theorem Agree.axisInputEvent {v w : AxisId → Bool} {s : State} (h : Agree s) : Agree (axisInputEvent v w s) :=
  Agree.homeEvent (Agree.faultAxes (s := { s with axes := _ }) h)

theorem Agree.stopAxis {a : AxisId} {s : State} (h : Agree s) : Agree (stopAxis a s) := h.putAxis

theorem Agree.chainFaultAxes {s : State} (h : Agree s) : Agree (chainFaultAxes s) := h.faultAxes

theorem Agree.linkLostAxes {s : State} (h : Agree s) : Agree (linkLostAxes s) := by
  refine foldl_keeps _ _ (fun u a _ hu => ?_) _ h
  split
  · exact hu.stopAxis
  · exact hu

theorem Agree.allStopAxis {a : AxisId} {s : State} (h : Agree s) : Agree (allStopAxis a s) := by
  unfold Machine.allStopAxis
  split
  · split
    iterate 3 exact h.stopAxis
    · exact h.putAxis
    all_goals exact h
  · exact h

theorem Agree.allStopAxes {s : State} (h : Agree s) : Agree (allStopAxes s) :=
  foldl_keeps _ _ (fun _ _ _ hu => hu.allStopAxis) _ h

theorem Agree.restAxis {k : Bool} {a : AxisId} {s : State} (h : Agree s) : Agree (restAxis k a s) := by
  unfold Machine.restAxis
  dsimp only
  split
  · split
    · split
      · exact h.putAxis
      · exact h.stopAxis
    · split
      · exact h.putAxis
      · exact h
    all_goals exact h
  · exact h

theorem Agree.restAxes {k : Bool} {s : State} (h : Agree s) : Agree (restAxes k s) :=
  foldl_keeps _ _ (fun _ _ _ hu => hu.restAxis) _ h

end Sys2Proof.Machine
end


section
/-! A committed write keeps trains and sections in agreement (R61, R64, R83, R84, R88). -/

namespace Sys2Proof.Machine

/-! ## What a stored vector holds -/

/-- A write stores its records, each of which passed its decoder and its check. -/
theorem store_written {α : Type} {n : Nat} {old : Vector α n} {first : Nat} {ds : List (Option α)}
    {bad : Nat → α → Bool} {put : Vector α n → State} {u : State} (h : store old first ds bad put = .ok u) :
    u = put (written old first (ds.filterMap id)) ∧ firstBad bad 0 ds = none := by
  unfold store at h
  split at h
  · cases h
  · next e => exact ⟨(Except.ok.inj h).symm, e⟩

/-- Every record of a write passed its check. -/
theorem firstBad_none_check {α : Type} {bad : Nat → α → Bool} {a : α} :
    ∀ {k : Nat} {ds : List (Option α)}, firstBad bad k ds = none → some a ∈ ds → ∃ j, bad j a = false
  | _, [], _, ha => nomatch ha
  | k, none :: rest, h, _ => by simp [firstBad] at h
  | k, some b :: rest, h, ha => by
    unfold firstBad at h
    split at h
    · cases h
    · next hb =>
      rcases List.mem_cons.1 ha with e | ha
      · exact ⟨k, by rw [Option.some.inj e]; simpa using hb⟩
      · exact firstBad_none_check h ha

/-- An item outside a write stays. -/
theorem written_outside {α : Type} {n : Nat} {v : Vector α n} {first count : Nat} {recs : List α} {i : Fin n}
    (hl : recs.length ≤ count) (hi : inWrite first count i.val = false) : (written v first recs)[i] = v[i] := by
  have hi : ¬ (first ≤ i.val ∧ i.val < first + count) := of_decide_eq_false hi
  unfold written
  rw [tab_get]
  split
  · rw [List.getD_eq_getElem?_getD, List.getElem?_eq_none (by omega)]
    rfl
  · rfl

/-- A train record that is stored in use has a route (R83, R84). -/
theorem routeOk_of_stored {secs : Vector SectionRec 16} {bs : List Byte} {r : TrainRec} (hd : decTrain bs = some r)
    (hb : routeBad secs r = false) (hu : r.inUse = true) : RouteOk r := by
  have hlen : r.length ≠ 0 := by
    simp only [routeBad, hu, Bool.true_and, Bool.or_eq_false_iff, beq_eq_false_iff_ne] at hb
    exact hb.1.1
  unfold decTrain at hd
  simp only [Option.bind_eq_bind, Option.bind_eq_some_iff, Option.pure_def] at hd
  obtain ⟨_, _, hd⟩ := hd
  split at hd
  · next hc =>
    obtain ⟨hl, hall⟩ := hc
    obtain rfl := Option.some.inj hd
    refine ⟨Nat.one_le_iff_ne_zero.2 hlen, hl, fun i hi => ?_⟩
    refine of_decide_eq_true (List.all_eq_true.1 hall _ ?_)
    rw [List.mem_take_iff_getElem]
    exact ⟨i.val, by simpa using hi, by simp⟩
  · cases hd

/-! ## The writes that concern trains and sections -/

/-- With every train PARKED, a train says nothing of the sections. -/
theorem Fit.parked {r : TrainRec} {x : Train} (h : Fit r x) (hs : x.state = .parked) :
    x.hold = [] ∧ x.res = none ∧ x.queued = none :=
  ⟨h.holdsNone.2 hs, h.unreserved (.inl hs), h.unqueued (hs.trans_ne nofun) (hs.trans_ne nofun)⟩

/-- A write to table 8 with every train PARKED leaves each section nobody's (R61). -/
theorem Agree.sectionsCommitted {s : State} {v : Vector SectionRec 16} (h : Agree s)
    (hp : ∀ t : TrainId, s.trains[t].state = .parked) :
    Agree (sectionsCommitted { s with tables := { s.tables with sections := v } }) := by
  have state : ∀ n : SectionId,
      ownerOf (if v[n].inUse && s.secs[n].occ then SecState.blocked else .free) = none := by
    intro n
    split <;> rfl
  refine ⟨fun t => ⟨?_, (h.1 t).2⟩, fun n => ?_⟩
  · obtain ⟨hh, hr, hq⟩ := (h.1 t).2.parked (hp t)
    refine ⟨fun n => ?_, fun n ph => ?_, fun n => ?_⟩
    all_goals simp only [Machine.sectionsCommitted, tab_get]
    · refine iff_of_false (by rw [hh]; exact List.not_mem_nil) (fun ⟨k, e⟩ => ?_)
      have := state n
      rw [e] at this
      cases this
    · refine iff_of_false (by rw [hr]; exact nofun) (fun ⟨k, e⟩ => ?_)
      have := state n
      rw [e] at this
      cases this
    · exact (h.1 t).1.waits n
  · simp only [Machine.sectionsCommitted, tab_get]
    refine ⟨fun e => ?_, (h.2 n).queueFew, (h.2 n).queueOnce⟩
    simp [-Fin.getElem_fin, e]

/-- A write to table 9 of trains that stand PARKED keeps the agreement (R84, R88). -/
theorem Agree.trainsCommitted {s : State} {first count : Nat} {v : Vector TrainRec 4} (h : Agree s)
    (hout : ∀ t : TrainId, inWrite first count t.val = false → v[t] = s.tables.trains[t])
    (hin : ∀ t : TrainId, v[t] = s.tables.trains[t] ∨ (v[t].inUse = true → RouteOk v[t]))
    (hp : ∀ t : TrainId, inWrite first count t.val = true → s.trains[t].state = .parked) :
    Agree (trainsCommitted first count { s with tables := { s.tables with trains := v } }) := by
  refine ⟨fun t => ?_, h.2⟩
  obtain ⟨hpl, hf⟩ := h.1 t
  unfold Settled
  simp only [Machine.trainsCommitted, tab_get]
  cases hw : inWrite first count t.val with
  | false =>
    rw [hout t hw]
    exact ⟨hpl, hf⟩
  | true =>
    have hpk := hp t hw
    refine ⟨hpl.drive rfl rfl rfl, ⟨fun e => ?_, hf.few, hf.once, hf.holdsNone, hf.waitsFree, hf.unreserved,
      fun e => (nomatch hpk.symm.trans e), hf.target⟩⟩
    have hu : v[t].inUse = true := e.resolve_right (fun e => e hpk)
    rcases hin t with e | hr
    · rw [e] at hu ⊢
      exact hf.route (.inl hu)
    · exact hr hu

theorem Agree.pointsCommitted {s : State} {old : Vector PointRec 8} (h : Agree s) : Agree (pointsCommitted old s) :=
  Agree.reevaluate (s := { s with pts := _ }) h

/-- Tables that keep the records of trains and sections. -/
theorem Agree.putTables {s : State} {t : Tables} (h : Agree s) (ht : t.trains = s.tables.trains)
    (hs : t.sections = s.tables.sections) : Agree { s with tables := t } := by
  refine ⟨fun u => ?_, fun n => ?_⟩
  · unfold Settled
    rw [ht]
    exact h.1 u
  · rw [hs]
    exact h.2 n

/-! ## The commit of a write (R156) -/

/-- What the owners' locks say of the records written (R61, R84). -/
structure Unlocked (s : State) (table first count : Nat) : Prop where
  sections : table = 8 → ∀ t : TrainId, s.trains[t].state = .parked
  trains : table = 9 → ∀ t : TrainId, inWrite first count t.val = true → s.trains[t].state = .parked

theorem unlocked_of_find {s : State} {table first count : Nat} (hc : count ≠ 0)
    (h : ((List.range count).map (first + ·)).find? (lockedAt s table) = none) : Unlocked s table first count := by
  have free : ∀ k, k < count → lockedAt s table (first + k) = false := fun k hk => by
    simpa using List.find?_eq_none.1 h (first + k) (List.mem_map_of_mem (List.mem_range.2 hk))
  constructor
  · rintro rfl t
    have hl := free 0 (by omega)
    simp only [lockedAt, Bool.not_eq_false', List.all_eq_true, beq_iff_eq] at hl
    exact hl t (List.mem_finRange t)
  · rintro rfl t ht
    obtain ⟨h1, h2⟩ := of_decide_eq_true ht
    have hl := free (t.val - first) (by omega)
    rw [Nat.add_sub_cancel' h1] at hl
    simpa [lockedAt, sourceOf, item] using hl

theorem Agree.storeRecords {s u : State} {table first : Nat} {recs : List (List Byte)} (h : Agree s)
    (hl : Unlocked s table first recs.length) (hs : storeRecords table first recs s = .ok u) : Agree u := by
  unfold Machine.storeRecords at hs
  dsimp only at hs
  split at hs
  · split at hs
    · obtain rfl := Except.ok.inj hs
      exact h.putTables rfl rfl
    · cases hs
  iterate 6
    · obtain ⟨rfl, -⟩ := store_written hs
      exact h.putTables rfl rfl
  · obtain ⟨rfl, -⟩ := store_written hs
    exact h.putTables rfl rfl
  · split at hs
    · cases hs
    · next hu =>
      split at hs
      · cases hs
      · obtain rfl := Except.ok.inj hs
        obtain ⟨rfl, -⟩ := store_written hu
        exact h.sectionsCommitted (hl.sections rfl)
  · obtain ⟨rfl, hb⟩ := store_written hs
    have hlen : ((recs.map decTrain).filterMap id).length ≤ recs.length :=
      (List.length_filterMap_le _ _).trans (by simp)
    refine h.trainsCommitted (fun t ht => written_outside hlen ht) (fun t => ?_) (hl.trains rfl)
    rcases written_mem (v := s.tables.trains) (first := first) (recs := (recs.map decTrain).filterMap id) (i := t)
      with e | e
    · exact .inl e
    · obtain ⟨d, hd, rfl⟩ := List.mem_filterMap.1 e
      obtain ⟨bs, -, hbs⟩ := List.mem_map.1 hd
      obtain ⟨_, hr⟩ := firstBad_none_check hb hd
      exact .inr (routeOk_of_stored hbs hr)
  · obtain ⟨e, -⟩ := store_written hs
    rw [e]
    exact Agree.pointsCommitted (s := { s with tables := { s.tables with points := _ } }) h
  iterate 4
    · obtain ⟨rfl, -⟩ := store_written hs
      exact h.putTables rfl rfl
  · obtain rfl := Except.ok.inj hs
    exact h.putTables rfl rfl

theorem length_pieces (size : Nat) : ∀ (count : Nat) (bs : List Byte), (pieces size count bs).length = count
  | 0, _ => rfl
  | count + 1, bs => congrArg (· + 1) (length_pieces size count (bs.drop size))

theorem Agree.commitWrite {s : State} {table first count : Nat} {records : List Byte} (h : Agree s) :
    Agree (commitWrite table first count records s).2.2 := by
  unfold Machine.commitWrite
  split
  · exact h
  · split
    · exact h
    · next hc =>
      split
      · exact h
      · next hl =>
        split
        · exact h
        · next hu =>
          refine h.storeRecords ?_ hu
          rw [length_pieces]
          exact unlocked_of_find (fun e => hc (.inl e)) hl

end Sys2Proof.Machine
end


section
/-! Actions, lists, the Chain Unit, the Transfer Unit, the Link Port and the scene step keep trains and sections in agreement,
and with them every command (Safety.lean). -/

namespace Sys2Proof.Machine

namespace Agree

variable {s : State}

/-! ## Cues, wakes, the clock and the list players -/

theorem append {c : Nat} {src : Source} (h : Agree s) : Agree (appendCue c src s) := h.rails (appendCue_rails c src s)

theorem draw (h : Agree s) : Agree (draw s).2 := h.rails (draw_rails s)

theorem arrange {α : Type} {xs : List α} (h : Agree s) : Agree (arrange xs s).2 := h.rails (arrange_rails xs s)

theorem handOn {rs : List Req} (h : Agree s) : Agree (handOn rs s) :=
  have hu : Agree (Machine.arrange rs s).2 := h.arrange
  hu

theorem wake {src : WakeSource} (h : Agree s) : Agree (wake src s) := by
  unfold Machine.wake
  split
  · exact h
  all_goals exact Agree.handOn (s := Machine.latch _ _ _) h

theorem fireAlarm {i : AlarmId} (h : Agree s) : Agree (fireAlarm i s) := by
  unfold Machine.fireAlarm
  dsimp only
  split
  · exact h.wake.append
  · exact h.append

theorem applyPending (h : Agree s) : Agree (applyPendingSet s) := by
  unfold applyPendingSet
  split
  all_goals exact h

theorem stepClock (h : Agree s) : Agree (stepClock s) := by
  unfold Machine.stepClock
  split
  · exact h.applyPending
  · split
    · exact foldl_keeps _ _ (fun _ _ _ hu => hu.fireAlarm) (setClock _ s) h
    · exact h

theorem listStart {p : PlayerId} (h : Agree s) : Agree (listStart p s).2 := by
  unfold Machine.listStart
  dsimp only
  split
  all_goals exact h

theorem fireEnd {p : PlayerId} (h : Agree s) : Agree (fireEnd p s).2 := by
  have append_end : ∀ {u : State} {c : Nat} {k : NoticeKind} {d : Detail}, Agree u →
      Agree (latch k d (appendCue c .list u)) := fun hu => hu.append
  unfold Machine.fireEnd
  dsimp only
  split
  · exact Agree.append (c := _) (src := .list) h
  all_goals exact append_end (u := setPlayer _ _ s) h

theorem fireEntry {p : PlayerId} (h : Agree s) : Agree (fireEntry p s).2.2 := by
  have hc : ∀ c, Agree (appendCue c .list s) := fun c => h.append
  unfold Machine.fireEntry
  dsimp only
  split
  · exact h.fireEnd
  · split
    · exact hc _
    · exact (hc _).fireEnd

theorem fireEntries {n m : Nat} {p : PlayerId} (h : Agree s) : Agree (fireEntries n m p s) := by
  induction n generalizing m s with
  | zero => exact h
  | succ n ih =>
    have hf : Agree (Machine.fireEntry p s).2.2 := h.fireEntry
    unfold Machine.fireEntries
    dsimp only
    split
    · split
      · exact hf
      · exact ih hf
    · exact hf

theorem countdownEnds {p : PlayerId} (h : Agree s) : Agree (countdownEnds p s) := by
  unfold Machine.countdownEnds
  dsimp only
  split
  · split
    · exact Agree.fireEntries (s := setPlayer p _ s) h
    · exact h
  all_goals exact h

theorem stepPlayer {p : PlayerId} (h : Agree s) : Agree (stepPlayer p s) := by
  unfold Machine.stepPlayer
  dsimp only
  split
  · split
    · exact h.countdownEnds
    · exact h
  all_goals exact h

theorem stepLists (h : Agree s) : Agree (stepLists s) := foldl_keeps _ _ (fun _ _ _ hu => hu.stepPlayer) _ h

/-! ## Node Control and its requests -/

theorem nodeCheck (h : Agree s) : Agree (nodeCheck s) := by
  unfold Machine.nodeCheck
  split
  · split
    · exact h
    · split <;> exact h
  · exact h

theorem dueCheck (h : Agree s) : Agree (dueCheck s) := by
  unfold Machine.dueCheck
  split
  · exact Agree.nodeCheck (s := { s with checkDue := false }) h
  · exact h

theorem afterEvent {u : State} (h : Agree s) : Agree (afterEvent u s) := by
  unfold Machine.afterEvent
  split
  · exact h.nodeCheck
  · exact h

theorem runReq {r : Req} (h : Agree s) : Agree (runReq r s) := by
  cases r with
  | restClock b => cases b <;> exact h
  | restLists => exact h
  | restTrains => exact h.restTrains
  | restAxes k => exact h.restAxes
  | wakeClock => exact h
  | wakeLists => exact h
  | wakeAxes => exact h
  | stopTrains => exact h.haltAll
  | stopAxes => exact h.allStopAxes
  | faultTrains => exact h.haltAll
  | faultAxes => exact h.chainFaultAxes
  | linkTrains => exact h.haltAll
  | linkAxes => exact h.linkLostAxes

theorem reqEvent {r : Req} (h : Agree s) : Agree (reqEvent r s) := h.runReq.afterEvent.dueCheck

theorem takeReqs {left rs : List Req} (h : Agree s) : Agree (takeReqs left rs s) := by
  induction rs generalizing s with
  | nil => exact h
  | cons r rs ih => exact ih (Agree.reqEvent (s := { s with owed := rs ++ left }) h)

theorem settle (h : Agree s) : Agree (settle s) := by
  unfold Machine.settle
  split
  · exact h
  · exact h.draw.takeReqs

theorem finish (h : Agree s) : Agree (finish s) := h.takeReqs

theorem dormantRequest (h : Agree s) : Agree (dormantRequest s).2 := by
  unfold Machine.dormantRequest
  split
  · exact h
  · split
    · exact Agree.handOn (s := { s with node := .quiescing, checkDue := false }) h
    all_goals exact h

theorem allStop (h : Agree s) : Agree (allStop s) := h.handOn

/-! ## Actions -/

theorem whenInUse {b : Bool} {k : Option Reason × State} (h : Agree s) (hk : b = true → Agree k.2) :
    Agree (whenInUse b s k).2 := by
  unfold Machine.whenInUse
  split
  · next hb => exact hk hb
  · exact h

theorem whenAwake {k : Option Reason × State} (h : Agree s) (hk : Agree k.2) : Agree (whenAwake s k).2 := by
  unfold Machine.whenAwake
  split
  · exact h
  · exact hk

theorem pointThrow {p : PointId} {q : PointPos} (h : Agree s) : Agree (pointThrow p q s).2 := by
  unfold Machine.pointThrow
  split
  · exact h
  · exact h.rails (throwRequest_rails _ s)

theorem runAction {code : Nat} {act : Action} (h : Agree s) : Agree (runAction code act s).2 := by
  cases act with
  | lampRelease c =>
    cases c with
    | none => exact h
    | some c => exact h.whenInUse fun _ => h
  | lampSet c l u => exact h.whenInUse fun _ => h
  | listStart p => exact h.whenAwake h.listStart
  | trainPlace t i =>
    refine h.whenInUse fun hu => h.trainPlace ?_
    simp only [Bool.and_eq_true] at hu
    exact hu.1
  | trainRun t => exact h.whenInUse fun _ => h.whenAwake h.trainRun
  | trainStop t => exact h.whenInUse fun _ => h.trainStop
  | trainClear t => exact h.whenInUse fun _ => h.trainClear
  | trainCruise t v => exact h.whenInUse fun _ => h.trainCruise
  | pointThrow p q => exact h.whenInUse fun _ => h.pointThrow
  | axisHome a => exact h.whenInUse fun _ => h.whenAwake h.axisOrder
  | axisSeek a p => exact h.whenInUse fun _ => h.whenAwake h.axisOrder
  | axisRun a c =>
    refine h.whenInUse fun _ => ?_
    split
    · exact h.axisOrder
    · exact h.whenAwake h.axisOrder
  | axisPark a => exact h.whenInUse fun _ => h.whenAwake h.axisOrder
  | axisStop a => exact h.whenInUse fun _ => h.axisOrder
  | axisFollow a => exact h.whenInUse fun _ => h.whenAwake h.axisOrder
  | nodeDormant => exact h.dormantRequest
  | nodeWake => exact h.wake
  | allStop => exact h.allStop
  | cue c => exact h.append
  | none => exact h
  | groupSet g l u => exact h
  | flagSet f => exact h
  | flagClear f => exact h
  | flagPulse f n => exact h
  | listStop p => exact h
  | clockHold => exact h
  | clockResume => exact h
  | clockRate r => exact h
  | clockSet hr mn => exact h

theorem runOne {code pos : Nat} {act : Action} (h : Agree s) : Agree (runOne code pos act s).2 := by
  have hr : Agree (Machine.runAction code act (Machine.settle s)).2 := h.settle.runAction
  unfold Machine.runOne
  dsimp only
  split
  · exact hr.afterEvent
  · exact Agree.afterEvent (s := Machine.latch _ _ _) hr

theorem runList {code pos : Nat} {acts : List Action} (h : Agree s) : Agree (runList code pos acts s).2 := by
  induction acts generalizing pos s with
  | nil => exact h
  | cons a acts ih =>
    rw [runList_cons_snd]
    exact ih h.runOne

theorem takeCue (h : Agree s) : Agree (takeCue s) := by
  unfold Machine.takeCue
  split
  · exact h
  · next c rest _ =>
    split
    · have hu : Agree { s with cue := { s.cue with queue := rest, takes := s.cue.takes + 1 } } := h
      unfold handleCue
      split
      · exact hu.runList
      · exact hu.runList
      · exact hu.wake.runList
      · exact hu.wake.runList
      · exact hu
    · exact h

/-! ## The Chain Unit -/

theorem stepChain (h : Agree s) : Agree (stepChain s) := by
  unfold Machine.stepChain startCycle
  dsimp only
  split
  · split
    · split <;> exact h
    · exact h
  · exact h

theorem fireWatch {w : WatchId} (h : Agree s) : Agree (fireWatch w s) := by
  unfold Machine.fireWatch
  dsimp only
  split
  · exact h.wake.append
  · exact h.append

theorem evalWatch {v : BitVec 64} {w : WatchId} (h : Agree s) : Agree (evalWatch v w s) := by
  unfold Machine.evalWatch
  dsimp only
  split
  · split
    · exact Agree.fireWatch (s := setWatch w _ s) h
    · exact h
  · exact h

theorem handOff {x : HandOff} (h : Agree s) : Agree (handOff x s) := by
  cases x with
  | detectors => exact h.detectorEvent
  | cabs => exact h.cabFaultEvent
  | axes => exact h.axisInputEvent
  | watches => exact foldl_keeps _ _ (fun _ _ _ hu => hu.evalWatch) _ h
  | check => exact h.nodeCheck

theorem handOffs {xs : List HandOff} (h : Agree s) : Agree (handOffs xs s) :=
  foldl_keeps _ _ (fun _ _ _ hu => hu.settle.handOff.afterEvent) _ h

theorem chainTurns {c : ChainState} (h : Agree s) : Agree (chainTurns c s) := by
  unfold Machine.chainTurns
  split
  · exact h
  · dsimp only
    split
    · exact Agree.handOn (s := Machine.latch _ _ _) h
    · exact h

theorem completeCycle {ret : Byte} {inputs : BitVec 64} (h : Agree s) : Agree (completeCycle ret inputs s) := by
  unfold Machine.completeCycle
  split
  · exact h
  · exact h
  · dsimp only
    have turned : ∀ (c : ChainState) (v : Chain), Agree (Machine.chainTurns c { s with chain := v }) := fun c v =>
      Agree.chainTurns (s := { s with chain := v }) h
    split
    · exact Agree.handOffs (Agree.arrange (s := { Machine.chainTurns _ _ with chain := _ }) (turned _ _))
    · exact (turned _ _).settle.nodeCheck

/-! ## The Transfer Unit -/

theorem outcome {via : Opened} {k : Byte} {r : Result} {d : List Byte} (h : Agree s) : Agree (outcome via k r d s) := by
  unfold Machine.outcome joinReply
  split
  · split <;> exact h
  · split <;> exact h

theorem closeUnit (h : Agree s) : Agree (closeUnit s) := h

theorem discardOpen {r : Result} (h : Agree s) : Agree (discardOpen r s) := by
  unfold Machine.discardOpen
  split
  · exact h
  · exact h.closeUnit.outcome

/-- Free sections without waiters and PARKED trains, each with its route (R174). -/
theorem softReset (h : Agree s) : Agree (softResetState s) := by
  refine ⟨fun t => ?_, fun n => ?_⟩
  · have train : (softResetState s).trains[t] = Train.reset s.tables.trains[t].cruise := tab_get _ t
    have sec : ∀ n : SectionId, (softResetState s).secs[n] = ⟨.free, false, []⟩ := fun n => by
      simp [softResetState, freshMatches]
    have route : s.tables.trains[t].inUse = true → RouteOk s.tables.trains[t] := fun e => (h.1 t).2.route (.inl e)
    unfold Settled
    rw [train]
    refine ⟨⟨fun n => ?_, fun n ph => ?_, fun n => ?_⟩, ⟨fun e => route (e.resolve_right fun e => e rfl), Nat.zero_le _,
      List.nodup_nil, iff_of_true rfl rfl, fun e => absurd rfl e, fun _ => rfl, fun e => (nomatch e), fun _ _ => rfl⟩⟩
    all_goals rw [sec n]
    · exact iff_of_false nofun nofun
    · exact iff_of_false nofun nofun
    · exact iff_of_false nofun nofun
  · have sec : (softResetState s).secs[n] = ⟨.free, false, []⟩ := by simp [softResetState, freshMatches]
    rw [sec]
    exact ⟨fun _ => rfl, Nat.zero_le _, List.nodup_nil⟩

theorem conclude {via : Opened} {k : Byte} {c : Commit} (h : Agree c.2.2) : Agree (conclude via k c) := h.outcome

theorem unlessBroadcast {via : Opened} {c : Commit} (h : Agree s) (hc : Agree c.2.2) :
    Agree (unlessBroadcast via s c).2.2 := by
  cases via with
  | own => exact hc
  | broadcast => exact h

theorem commitExecute {records : List Byte} (h : Agree s) : Agree (commitExecute records s).2.2 := by
  unfold Machine.commitExecute
  dsimp only
  split
  · exact h
  · exact h.runList

theorem writeTransfer {via : Opened} {t f c : Nat} {rs : List Byte} (h : Agree s) :
    Agree (writeTransfer via t f c rs s) := by
  unfold Machine.writeTransfer
  split
  · exact h.commitWrite.conclude
  · exact Agree.conclude (c := plain _ s) h

theorem readTransfer {via : Opened} {t f c : Nat} (h : Agree s) : Agree (readTransfer via t f c s) := by
  refine Agree.conclude (h.unlessBroadcast ?_)
  unfold commitRead
  split
  · exact h
  · split <;> exact h

theorem viewTransfer {via : Opened} {v i : Byte} (h : Agree s) : Agree (viewTransfer via v i s) := by
  refine Agree.conclude (h.unlessBroadcast ?_)
  unfold commitView
  split <;> exact h

theorem clockTransfer {via : Opened} {ms day rate : Nat} {rh : Byte} (h : Agree s) :
    Agree (clockTransfer via ms day rate rh s) := Agree.conclude (c := plain .ok (fillPendingSet _ s)) h

theorem codeTransfer {via : Opened} {c : Nat} (h : Agree s) : Agree (codeTransfer via c s) := by
  refine Agree.conclude ?_
  unfold commitCue
  split
  · exact h
  · exact h.append

theorem executeTransfer {via : Opened} {rs : List Byte} (h : Agree s) : Agree (executeTransfer via rs s) := by
  refine Agree.conclude ?_
  split
  · exact h.commitExecute
  · exact h

theorem noticesTransfer {via : Opened} {m : Byte} {e c : BitVec 16} (h : Agree s) :
    Agree (noticesTransfer via m e c s) := Agree.conclude (c := plain .ok (commitNotices m e c s)) h

theorem restTransfer {via : Opened} (h : Agree s) : Agree (restTransfer via s) := by
  refine Agree.conclude ?_
  unfold commitDormant
  dsimp only
  split <;> exact h.dormantRequest

theorem awakeTransfer {via : Opened} (h : Agree s) : Agree (awakeTransfer via s) :=
  Agree.conclude (c := plain .ok _) h.wake

theorem haltTransfer {via : Opened} (h : Agree s) : Agree (haltTransfer via s) :=
  Agree.conclude (c := plain .ok _) h.allStop

theorem resetTransfer {via : Opened} (h : Agree s) : Agree (resetTransfer via s) :=
  Agree.conclude (c := plain .ok _) h.softReset

theorem commitBody {via : Opened} {body : List Byte} (h : Agree s) : Agree (commitBody via body s) := by
  unfold Machine.commitBody
  split
  · split
    · exact Agree.conclude (c := plain _ s) h
    · exact h.writeTransfer
  · exact h.readTransfer
  · exact h.viewTransfer
  · exact h.clockTransfer
  · exact h.codeTransfer
  · exact h.executeTransfer
  · exact h.noticesTransfer
  · exact h.restTransfer
  · exact h.awakeTransfer
  · exact h.haltTransfer
  · exact h.resetTransfer

theorem judge {via : Opened} {bytes : List Byte} (h : Agree s) : Agree (judge via bytes s) := by
  unfold Machine.judge
  dsimp only
  split
  · exact h.outcome
  · split
    · exact h.outcome
    · split
      · exact h.outcome
      · split
        · exact h.outcome
        · exact h.commitBody

/-! ## Symbols, frames and answers -/

theorem takeOpen {a : Nat} (h : Agree s) : Agree (takeOpen a s) := by
  have hd : Agree (Machine.discardOpen .interrupted s) := h.discardOpen
  unfold Machine.takeOpen
  dsimp only
  split
  · exact hd
  · split <;> exact hd

theorem takeByte {v : Byte} (h : Agree s) : Agree (takeByte v s) := by
  unfold Machine.takeByte
  split
  · exact h
  · split
    · exact h
    · exact h.discardOpen

theorem takeClose (h : Agree s) : Agree (takeClose s) := by
  unfold Machine.takeClose
  split
  · exact h
  · exact h.closeUnit.judge

theorem takeGrant {a : Nat} (h : Agree s) : Agree (takeGrant a s) := by
  have answers : Agree (Machine.giveAnswer s).2.2 := by
    unfold Machine.giveAnswer
    split
    · exact h
    · split <;> exact h
  unfold Machine.takeGrant
  split
  · exact answers
  · exact h

theorem takeSymbol {t v : Byte} (h : Agree s) : Agree (takeSymbol t v s) := by
  unfold Machine.takeSymbol
  split
  · exact h.takeOpen
  · exact h.takeByte
  · exact h.takeClose
  · exact h.takeGrant
  · exact h
  · exact h

theorem answerDone (h : Agree s) : Agree (answerDone s) := by
  unfold Machine.answerDone
  split
  · next a _ => cases a <;> exact h
  all_goals exact h

theorem abandonAnswer (h : Agree s) : Agree (abandonAnswer s) := by
  have reported : ∀ (a : AnswerKind) (u : State), Agree u → Agree (reportAbandoned a u) := by
    intro a u hu
    cases a <;> exact hu
  unfold Machine.abandonAnswer
  split
  · exact reported _ (setLink _ s) h
  · exact h.answerDone
  · exact h

theorem placeOwn (h : Agree s) : Agree (placeOwn s) := by
  unfold Machine.placeOwn
  split
  · split <;> exact h
  all_goals exact h

theorem forward {bs : List Byte} (h : Agree s) : Agree (forward bs s) := by
  unfold Machine.forward
  split <;> exact h

theorem markOwn (h : Agree s) : Agree (markOwn s) := by
  unfold Machine.markOwn
  split <;> exact h

theorem passReturn {bs : List Byte} (h : Agree s) : Agree (passReturn bs s) := by
  unfold Machine.passReturn
  split <;> exact h

theorem countDamaged {b : Bool} (h : Agree s) : Agree (countDamaged b s) := h

/-! ## The scene step and the Link Port -/

theorem runPart {p : Part} (h : Agree s) : Agree (runPart p s) := by
  cases p with
  | clock => exact h.stepClock
  | lists => exact h.stepLists
  | flags => exact h
  | lamps => exact h
  | points => exact h.stepPoints
  | trains => exact h.stepTrains
  | axes => exact h.stepAxes
  | chain => exact h.stepChain
  | node => exact h.nodeCheck
  | period => exact h.axisPeriod
  | cue => exact h.append
  | symbol => exact h.takeSymbol
  | lock => exact h
  | req => exact h.runReq
  | drop => exact h.discardOpen
  | abandon => exact h.abandonAnswer

theorem partEvent {p : Part} (h : Agree s) : Agree (partEvent p s) := by
  have hp : Agree (Machine.runPart p (Machine.settle s)) := h.settle.runPart
  unfold Machine.partEvent
  dsimp only
  split
  · exact hp
  · exact hp.afterEvent

theorem anyOrder {ps : List Part} (h : Agree s) : Agree (anyOrder ps s) :=
  foldl_keeps _ _ (fun _ _ _ hu => hu.partEvent) _ h.arrange

theorem sceneStep {ps : List Part} (h : Agree s) : Agree (sceneStep ps s) := Agree.anyOrder (s := stepMade s) h

theorem flushPeriod (h : Agree s) : Agree (flushPeriod s) := by
  unfold Machine.flushPeriod
  split
  · exact h.partEvent
  · exact h

theorem axisFramePeriod (h : Agree s) : Agree (axisFramePeriod s) := by
  have hd : Agree (Machine.draw s).2 := h.draw
  unfold Machine.axisFramePeriod
  dsimp only
  split
  · exact hd.partEvent
  · exact hd

theorem beginPeriod (h : Agree s) : Agree (beginPeriod s) := by
  have h1 : Agree (Machine.answerDone (turnPulses (Machine.flushPeriod s))) :=
    Agree.answerDone (s := turnPulses (Machine.flushPeriod s)) h.flushPeriod
  exact (Agree.placeOwn (s := setLink _ (freshTakes _)) h1).axisFramePeriod

theorem frameParts {bs : List Byte} (h : Agree s) : Agree (frameParts bs s) := by
  have hl : Agree (takeLines bs s) := h
  have hm : Agree (setLink (afterMark (takeLines bs s).link) (takeLines bs s)) := h
  unfold Machine.frameParts
  dsimp only
  split
  · split
    · exact hm.sceneStep
    · exact hm.anyOrder
  · exact hl.anyOrder

theorem validFrame {bs : List Byte} (h : Agree s) : Agree (validFrame bs s) := by
  unfold Machine.validFrame
  dsimp only
  split
  · exact h.frameParts.markOwn.forward
  · exact h.frameParts.forward

theorem arrive6 {bs : List Byte} (h : Agree s) : Agree (arrive6 bs s) := by
  unfold Machine.arrive6
  split
  · exact h.countDamaged.discardOpen.forward
  · exact h.discardOpen.forward
  · exact h.discardOpen.forward
  · exact h.validFrame

theorem arrive3 {bs : List Byte} (h : Agree s) : Agree (arrive3 bs s) := by
  unfold Machine.arrive3
  dsimp only
  split
  · split
    · refine Agree.placeOwn ?_
      split <;> exact h
    · exact h.passReturn
  · split
    · exact h.countDamaged.placeOwn
    · exact h.countDamaged.passReturn

theorem fallback (h : Agree s) : Agree (fallback s) := by
  unfold Machine.fallback
  split
  · exact h
  all_goals
    split
    · exact h.sceneStep.markOwn
    · exact h

theorem loseLink (h : Agree s) : Agree (loseLink s) := by
  unfold Machine.loseLink
  split
  · exact Agree.sceneStep (s := Machine.latch _ _ (setLink _ s)) h
  · exact h

/-! ## Resets -/

theorem ofReset : Agree State.reset := trackConsistent_iff.1 ⟨reset_trainConsistent, reset_sectionConsistent⟩

end Agree

/-! ## Every command -/

/-- Every command answers a next state, in which trains and sections agree. -/
theorem exec_keeps_agree (c : Instr) {s : State} (h : Agree s) : ∃ t, exec c s = .next t ∧ Agree t := by
  have hc : Agree (closeUnit s) := h
  cases c with
  | powerOnReset => exact ⟨_, rfl, Agree.ofReset⟩
  | pinReset => exact ⟨_, rfl, Agree.ofReset⟩
  | framePeriod => exact ⟨_, rfl, h.beginPeriod.finish⟩
  | downstreamFrame bytes => exact ⟨_, rfl, h.arrive6.finish⟩
  | returnFrame bytes => exact ⟨_, rfl, h.arrive3⟩
  | answerSent => exact ⟨_, rfl, h.answerDone⟩
  | fallbackStep => exact ⟨_, rfl, h.fallback.finish⟩
  | linkLost => exact ⟨_, rfl, h.loseLink.finish⟩
  | cueTake => exact ⟨_, rfl, h.takeCue.finish⟩
  | writeTable via table first count records => exact ⟨_, rfl, hc.writeTransfer⟩
  | readTable via table first count => exact ⟨_, rfl, hc.readTransfer⟩
  | readState via view index => exact ⟨_, rfl, hc.viewTransfer⟩
  | setClock via ms day rate runHold => exact ⟨_, rfl, hc.clockTransfer⟩
  | cueTransfer via code => exact ⟨_, rfl, hc.codeTransfer⟩
  | execute via records => exact ⟨_, rfl, hc.executeTransfer.finish⟩
  | notices via master enables clear => exact ⟨_, rfl, hc.noticesTransfer⟩
  | dormantTransfer via => exact ⟨_, rfl, hc.restTransfer.finish⟩
  | wakeTransfer via => exact ⟨_, rfl, hc.awakeTransfer.finish⟩
  | allStopTransfer via => exact ⟨_, rfl, hc.haltTransfer.finish⟩
  | softReset via => exact ⟨_, rfl, h.resetTransfer⟩
  | dormantComplete => exact ⟨_, rfl, h.nodeCheck⟩
  | pendingSetApply => exact ⟨_, rfl, h.applyPending⟩
  | listEntryFire player => exact ⟨_, rfl, h.countdownEnds⟩
  | cueFadeEnd channel => exact ⟨_, rfl, h⟩
  | masterFadeEnd group => exact ⟨_, rfl, h⟩
  | flagPulseEnd flag => exact ⟨_, rfl, h⟩
  | coilEnd point => exact ⟨_, rfl, h.rails (coilEnds_rails point s)⟩
  | throwComplete point => exact ⟨_, rfl, h.throwEnds⟩
  | chainCycleComplete ret inputs => exact ⟨_, rfl, h.completeCycle.finish⟩
  | watchHoldoffEnd watch => exact ⟨_, rfl, h⟩
  | brakeDelayEnd train => exact ⟨_, rfl, h.brakeDelayEnds⟩
  | arrivalTimeout train => exact ⟨_, rfl, h.arrivalTimesOut⟩
  | holdTimerEnd axis => exact ⟨_, rfl, h⟩
  | homeLimit axis => exact ⟨_, rfl, h.homeLimitPasses.afterEvent⟩

/-- Settles O10: the block idles on an empty queue, and otherwise the front command keeps the agreement (`exec_keeps_agree`),
for which every operation on trains and sections has its own lemma: what it sets of a train and of a section in one step. -/
theorem stepKeepsTrackConsistent : Obligations.StepKeepsTrackConsistent := by
  intro s hs
  have h : Agree s := trackConsistent_iff.1 hs
  cases hq : s.pending with
  | nil => exact ⟨s, by simp [step, hq], hs⟩
  | cons c rest =>
    obtain ⟨t, ht, hi⟩ := exec_keeps_agree c (s := { s with pending := rest }) h
    exact ⟨t, by simpa [step, hq] using ht, trackConsistent_iff.2 hi⟩

end Sys2Proof.Machine
end


section
/-! Throw requests, the two ends of a throw and POINT THROW by EXECUTE (R8, R63, R66 to R69). -/

namespace Sys2Proof.Machine

/-! ## Throw requests (R66, R68) -/

section
variable {p : PointId} {q : PointPos} {s : State}

theorem throwRequest_there (hm : s.pts[p].motion = none) (hp : s.pts[p].position = some q) : throwRequest (p, q) s = s := by
  simp only [throwRequest, hm, hp, if_true]

theorem throwRequest_idle (hm : s.pts[p].motion = none) (hp : s.pts[p].position ≠ some q) :
    throwRequest (p, q) s = setPt p { s.pts[p] with motion := some (newThrow s.tables.points[p] q) } s := by
  simp only [throwRequest, hm, hp, if_false]

theorem throwRequest_moving {m : Throw} (hm : s.pts[p].motion = some m) :
    throwRequest (p, q) s = setPt p { s.pts[p] with slot := some q } s := by
  simp only [throwRequest, hm]

/-- A second request to a MOVING point replaces the first (R68). -/
theorem throwRequest_throwRequest {m : Throw} (hm : s.pts[p].motion = some m) (q' : PointPos) :
    throwRequest (p, q) (throwRequest (p, q') s) = throwRequest (p, q) s := by
  have same : (setPt p { s.pts[p] with slot := some q' } s).pts[p] = { s.pts[p] with slot := some q' } :=
    get_set_same _ _ _
  rw [throwRequest_moving hm, throwRequest_moving hm, throwRequest_moving (by rw [same]; exact hm), same]
  simp [setPt]

/-- Settles O41: one equation of a throw request for each motion and position of the point. -/
theorem throwRequests : Obligations.ThrowRequests := by
  intro p q s
  refine ⟨throwRequest_there, throwRequest_idle, fun m hm => ⟨throwRequest_moving hm, throwRequest_throwRequest hm, ?_⟩⟩
  intro r
  simp only [throwDone, newThrow]

/-! ## The ends of a throw (R67) -/

/-- A telling of SET changes one train. -/
theorem tellSet_rest (t : TrainId) (s : State) :
    (tellSet t s).pts = s.pts ∧ (tellSet t s).axes = s.axes ∧ (tellSet t s).tables = s.tables := by
  unfold tellSet
  dsimp only
  repeat' split
  all_goals exact ⟨rfl, rfl, rfl⟩

/-- A check changes one section and one train. -/
theorem checkSetting_rest (n : SectionId) (s : State) :
    (checkSetting n s).pts = s.pts ∧ (checkSetting n s).axes = s.axes ∧ (checkSetting n s).tables = s.tables := by
  unfold checkSetting
  split
  · split
    · exact tellSet_rest _ _
    · exact ⟨rfl, rfl, rfl⟩
  all_goals exact ⟨rfl, rfl, rfl⟩

/-- The checks at a completed throw change sections and trains. -/
theorem pointIdle_rest (p : PointId) (s : State) :
    (pointIdle p s).pts = s.pts ∧ (pointIdle p s).axes = s.axes ∧ (pointIdle p s).tables = s.tables := by
  refine foldl_keeps (P := fun v => v.pts = s.pts ∧ v.axes = s.axes ∧ v.tables = s.tables) _ _ (fun u n _ hu => ?_) s
    ⟨rfl, rfl, rfl⟩
  obtain ⟨hp, ha, ht⟩ := hu
  obtain ⟨cp, ca, ct⟩ := checkSetting_rest n u
  split
  · split
    · exact ⟨cp.trans hp, ca.trans ha, ct.trans ht⟩
    · exact ⟨hp, ha, ht⟩
  · exact ⟨hp, ha, ht⟩

/-- With no SETTING reservation a completed throw is of no section. -/
theorem pointIdle_of_no_setting (p : PointId) {s : State}
    (h : ∀ (n : SectionId) k o, s.secs[n].state ≠ .reserved k .setting o) :
    pointIdle p s = s := by
  refine foldl_keeps (P := fun v => v = s) _ _ (fun u n _ hu => ?_) s rfl
  rw [hu]
  split
  · next k o e => exact absurd e (h n k o)
  · rfl

theorem throwEnds_last {m : Throw} (hm : s.pts[p].motion = some m) (hc : m.throwCount ≤ 1) :
    throwEnds p s =
      if (throwDone s.tables.points[p] m s.pts[p]).motion.isNone
      then pointIdle p (setPt p (throwDone s.tables.points[p] m s.pts[p]) s)
      else setPt p (throwDone s.tables.points[p] m s.pts[p]) s := by
  simp only [throwEnds, hm, hc, if_true]

/-- A slot with another position starts a throw (R67). -/
theorem throwDone_again {r : PointRec} {m : Throw} {x : Point} (hx : x.slot = some q) (hq : q ≠ m.target) :
    throwDone r m x = ⟨some m.target, some (newThrow r q), none⟩ := by
  simp only [throwDone, hx, hq, if_false]

/-- An empty slot, or one with the position reached, leaves the point IDLE (R67). -/
theorem throwDone_idle {r : PointRec} {m : Throw} {x : Point} (hx : x.slot = none ∨ x.slot = some m.target) :
    throwDone r m x = ⟨some m.target, none, none⟩ := by
  rcases hx with hx | hx <;> simp [throwDone, hx]

/-- THROW_COMPLETE of a point that becomes IDLE. -/
theorem throwEnds_idle {m : Throw} (hm : s.pts[p].motion = some m) (hc : m.throwCount ≤ 1)
    (hx : s.pts[p].slot = none ∨ s.pts[p].slot = some m.target) :
    throwEnds p s = pointIdle p (setPt p ⟨some m.target, none, none⟩ s) := by
  rw [throwEnds_last hm hc, throwDone_idle hx]
  rfl

end

/-- Settles O53: the coil count alone, a throw anew from the slot, and the checks of an IDLE point, which find nothing to do
without a SETTING reservation. -/
theorem coilAndThrowEnd : Obligations.CoilAndThrowEnd := by
  intro p m s hm
  refine ⟨fun hc => ?_, fun hc q hs hq => ?_, fun hc hs => ?_⟩
  · show Host.Outcome.next (coilEnds p s) = _
    simp only [coilEnds, hm, hc, if_true]
    rfl
  · show Host.Outcome.next (throwEnds p s) = _
    rw [throwEnds_last hm hc, throwDone_again hs hq]
    rfl
  · obtain ⟨hpts, haxes, htables⟩ := pointIdle_rest p (setPt p ⟨some m.target, none, none⟩ s)
    refine ⟨_, congrArg Host.Outcome.next (throwEnds_idle hm hc hs), hpts, haxes, htables, fun hn => ?_⟩
    exact pointIdle_of_no_setting p hn

/-! ## POINT THROW by EXECUTE (R69) -/

/-- The owners of a kind of section: the train of an in-use section of the kind that is RESERVED or HELD (R63). -/
theorem mem_ownersWhere {s : State} {f : SectionRec → Bool} {t : TrainId} :
    t ∈ ownersWhere s f ↔
      ∃ n : SectionId, s.tables.sections[n].inUse = true ∧ f s.tables.sections[n] = true ∧
        ownerOf s.secs[n].state = some t := by
  unfold ownersWhere every
  rw [List.mem_filterMap]
  refine exists_congr fun n => ⟨fun ⟨_, h⟩ => ?_, fun ⟨hu, hf, ht⟩ => ⟨List.mem_finRange n, ?_⟩⟩
  · split at h
    · next hc =>
      obtain ⟨hu, hf⟩ := Bool.and_eq_true_iff.1 hc
      exact ⟨hu, hf, h⟩
    · cases h
  · rw [if_pos (by rw [hu, hf]; rfl), ht]

/-- A point is locked by an in-use section that is RESERVED or HELD and names it (R63). -/
theorem pointLocked_iff {s : State} {p : PointId} :
    pointLocked s p = true ↔
      ∃ n : SectionId, s.tables.sections[n].inUse = true ∧ ownerOf s.secs[n].state ≠ none ∧
        (s.tables.sections[n].exitPoint = some p ∨ s.tables.sections[n].entryPoint = some p) := by
  have named : ∀ n : SectionId,
      (s.tables.sections[n].exitPoint == some p || s.tables.sections[n].entryPoint == some p) = true ↔
        (s.tables.sections[n].exitPoint = some p ∨ s.tables.sections[n].entryPoint = some p) := fun n => by
    rw [Bool.or_eq_true, beq_iff_eq, beq_iff_eq]
  have nonempty : pointLocked s p = true ↔ ∃ t, t ∈ pointLockers s p := by
    rw [pointLocked, Bool.not_eq_true', List.isEmpty_eq_false_iff_exists_mem]
  rw [nonempty]
  constructor
  · rintro ⟨t, ht⟩
    obtain ⟨n, hu, hf, ho⟩ := mem_ownersWhere.1 ht
    exact ⟨n, hu, by rw [ho]; exact Option.some_ne_none t, (named n).1 hf⟩
  · rintro ⟨n, hu, ho, hf⟩
    obtain ⟨t, ht⟩ := Option.ne_none_iff_exists'.1 ho
    exact ⟨t, mem_ownersWhere.2 ⟨n, hu, (named n).2 hf, ht⟩⟩

/-- The reply data of an EXECUTE of one action (R161). -/
def oneResult : Option Reason → List Byte
  | none => [0, 0xFF]
  | some reason => [1, byte reason.code]

/-- The commit of one record (R161). -/
theorem commitExecute_one {k a q r : Byte} {act : Action} {s u : State} {o : Option Reason}
    (hd : decodeAction (actionRec [k, a, q, r]) = some act) (h : runOne 0 0 act s = (o, u)) :
    commitExecute [k, a, q, r] s = (.ok, oneResult o, u) := by
  have hacts : (pieces 4 ([k, a, q, r].length / 4) [k, a, q, r]).map (fun bs => decodeAction (actionRec bs)) =
      [some act] := by simp [pieces, hd]
  have hbad : firstBad noBad 0 [some act] = none := rfl
  have hlist : [some act].filterMap id = [act] := rfl
  have hrun : runList 0 0 [act] s = ((match o with
      | none => ⟨0, none⟩
      | some reason => ⟨1, some reason⟩), u) := by
    simp only [runList, h]
    cases o <;> rfl
  simp only [commitExecute, hacts, hbad, hlist, hrun]
  cases o <;> rfl

/-- EXECUTE of one record, with nothing owed after its action: the action runs on the closed unit, and the outcome is OK with
the count of refusals (R161). -/
theorem exec_execute_one {via : Opened} {k q r : Byte} {i : Nat} {act : Action} {s u : State} {o : Option Reason}
    (hi : i < 256) (hd : decodeAction ⟨k.toNat, i, q.toNat, r.toNat⟩ = some act)
    (h : runOne 0 0 act (closeUnit s) = (o, u)) (hu : u.owed = []) :
    exec (.execute via [k, byte i, q, r]) s = .next (outcome via 6 .ok (oneResult o) u) := by
  have hrec : decodeAction (actionRec [k, byte i, q, r]) = some act := by
    rw [← hd, actionRec]
    simp [toNat_byte hi]
  have hdone : executeTransfer via [k, byte i, q, r] (closeUnit s) = outcome via 6 .ok (oneResult o) u := by
    simp [executeTransfer, commitExecute_one hrec h, conclude]
  show execExecute via [k, byte i, q, r] s = _
  rw [execExecute, hdone, finish_of_nothing_owed (by rw [outcome_owed, hu])]

theorem throwRequest_rest (q : PointNeed) (s : State) :
    (throwRequest q s).owed = s.owed ∧ (throwRequest q s).axes = s.axes ∧ (throwRequest q s).chain = s.chain := by
  unfold throwRequest
  dsimp only
  repeat' split
  all_goals exact ⟨rfl, rfl, rfl⟩

/-- POINT THROW on an in-use point (R18). -/
theorem runAction_pointThrow {p : PointId} {s : State} (h : s.tables.points[p].inUse = true) (code : Nat) (q : PointPos) :
    runAction code (.pointThrow p q) s = pointThrow p q s := by
  simp only [runAction, whenInUse, h, if_true]

/-- Settles O42: the lock of the point is the one of R63, and the action is one action of a list with nothing owed. -/
theorem executePointThrow : Obligations.ExecutePointThrow := by
  intro via p q r s ho hu
  have decode : ∀ c : Byte, (c = match q with
      | .normal => 0
      | .reverse => 1) → decodeAction ⟨(14 : Byte).toNat, p.val, c.toNat, r.toNat⟩ = some (.pointThrow p q) := by
    rintro c rfl
    cases q <;> simp [decodeAction]
  have run : runAction 0 (.pointThrow p q) (closeUnit s) = pointThrow p q (closeUnit s) :=
    runAction_pointThrow (s := closeUnit s) hu 0 q
  constructor
  · intro hl
    have locked : pointLocked (closeUnit s) p = true := pointLocked_iff.2 hl
    have refused : pointThrow p q (closeUnit s) = (some .interlock, closeUnit s) := by
      simp only [pointThrow, locked, if_true]
    have hrun := runOne_refused (position := 0) (s := closeUnit s) ho (run.trans refused)
    exact exec_execute_one (by omega) (decode _ rfl) hrun ho
  · intro free
    have unlocked : pointLocked (closeUnit s) p = false := Bool.eq_false_iff.2 fun e => by
      obtain ⟨n, hn, hw, hp⟩ := pointLocked_iff.1 e
      exact hp.elim (free n hn hw).1 (free n hn hw).2
    have accepted : pointThrow p q (closeUnit s) = (none, throwRequest (p, q) (closeUnit s)) := by
      simp only [pointThrow, unlocked, Bool.false_eq_true, if_false]
    obtain ⟨howed, haxes, hchain⟩ := throwRequest_rest (p, q) (closeUnit s)
    have hrun := runOne_accepted (position := 0) (s := closeUnit s) ho (run.trans accepted)
      (throwRequest_rails (p, q) (closeUnit s)).trains haxes (by rw [hchain])
    exact exec_execute_one (by omega) (decode _ rfl) hrun (howed.trans ho)

end Sys2Proof.Machine
end


section
/-! Requests and their answers, one equation for each: what a grant orders, and what the train takes (R60, R63, R70 to R73,
R92, R95, R97, R99, R119). -/

namespace Sys2Proof.Machine

/-! ## Needs that nothing asks (R60, R71) -/

section
variable {s : State} {t : TrainId} {f n : SectionId} {p : PointId}

/-- A step without exit and entry point needs no point (R60). -/
theorem pointNeeds_none {secs : Vector SectionRec 16} (hf : secs[f].exitPoint = none) (hn : secs[n].entryPoint = none) :
    pointNeeds secs f n = [] := by
  simp only [pointNeeds, exitNeed, entryNeed, branchTo, hf, hn, if_true, Option.toList_none]

/-- A step over the NORMAL branch of an exit point needs that point NORMAL (R60). -/
theorem pointNeeds_exit {secs : Vector SectionRec 16} (hf : secs[f].exitPoint = some p)
    (hb : secs[f].nextNormal = n.val) (hn : secs[n].entryPoint = none) : pointNeeds secs f n = [(p, .normal)] := by
  simp only [pointNeeds, exitNeed, entryNeed, branchTo, hf, hb, hn, if_true, reduceCtorEq, if_false, Option.toList_some,
    Option.toList_none, List.append_nil]

theorem guardStands_unguarded (hg : s.tables.sections[n].guardAxis = none) : guardStands s n = true := by
  simp only [guardStands, hg]

theorem guardMet_unguarded (hg : s.tables.sections[n].guardAxis = none) : guardMet s t n = true := by
  simp only [guardMet, hg]

theorem orderGuard_unguarded (hg : s.tables.sections[n].guardAxis = none) : orderGuard n s = s := by
  simp only [orderGuard, hg]

/-! ## When a request can be met (R70) -/

/-- A FREE section in use whose step needs no point and no guard is granted (R70). -/
theorem canMeet_plain (hu : s.tables.sections[n].inUse = true) (hs : s.secs[n].state = .free)
    (hn : pointNeeds s.tables.sections f n = []) (hg : s.tables.sections[n].guardAxis = none) :
    canMeet s t f n = true := by
  simp only [canMeet, hu, hs, hn, guardMet_unguarded hg, List.all_nil, Bool.and_true, beq_self_eq_true]

theorem canMeet_of_not_free (hs : s.secs[n].state ≠ .free) : canMeet s t f n = false :=
  Bool.eq_false_iff.2 fun e => hs (canMeet_free e).1

/-- A train may have a point thrown that only it locks, while its sections require nothing of points (R70 condition 2). -/
theorem pointMet_own (hu : s.tables.points[p].inUse = true) (q : PointPos) (hh : s.secs[f].state = .held t none)
    (hown : ∀ m : SectionId, m ≠ f → ownerOf s.secs[m].state ≠ some t)
    (hlock : ∀ m : SectionId, m ≠ f → ownerOf s.secs[m].state ≠ none →
      s.tables.sections[m].exitPoint ≠ some p ∧ s.tables.sections[m].entryPoint ≠ some p) :
    pointMet s t (p, q) = true := by
  have lockers : (pointLockers s p).all (· == t) = true := by
    refine List.all_eq_true.2 fun u hu => beq_iff_eq.2 ?_
    obtain ⟨m, -, hp, ho⟩ := mem_ownersWhere.1 hu
    by_cases e : m = f
    · rw [e, hh] at ho
      exact (Option.some.inj ho).symm
    · obtain ⟨h1, h2⟩ := hlock m e (by rw [ho]; exact Option.some_ne_none u)
      rw [Bool.or_eq_true, beq_iff_eq, beq_iff_eq] at hp
      exact absurd hp (not_or.2 ⟨h1, h2⟩)
  have owned : (ownedBy s t).all (fun m => (requiredPoints s m).all (fun o => o.1 != p || o.2 == q)) = true := by
    refine List.all_eq_true.2 fun m hm => ?_
    have ho : ownerOf s.secs[m].state = some t := beq_iff_eq.1 (List.mem_filter.1 hm).2
    obtain rfl : m = f := Decidable.byContradiction fun e => hown m e ho
    simp only [requiredPoints, hh, List.all_nil]
  simp only [pointMet, hu, lockers, owned, Bool.and_true]

/-- A guard that no other section names, and whose axis takes orders, is met (R70 condition 3). -/
theorem guardMet_own {a : AxisId} (hs : s.secs[n].state = .free) (hg : s.tables.sections[n].guardAxis = some a)
    (hother : ∀ j : SectionId, j ≠ n → s.tables.sections[j].guardAxis ≠ some a) (hu : s.tables.axes[a].inUse = true)
    (hk : s.axes[a].known = true) (hh : s.axes[a].state ≠ .homing) (hf : axisFaulted s.axes[a] = false) :
    guardMet s t n = true := by
  have no_owner : ∀ (j : SectionId) (u : TrainId), ownerOf s.secs[j].state = some u →
      s.tables.sections[j].guardAxis ≠ some a := fun j u ho => hother j fun e => by
    rw [e, hs] at ho
    cases ho
  have lockers : (axisLockers s a).all (· == t) = true := by
    refine List.all_eq_true.2 fun u hu => ?_
    obtain ⟨j, -, hj, ho⟩ := mem_ownersWhere.1 hu
    exact absurd (beq_iff_eq.1 hj) (no_owner j u ho)
  have owned : (ownedBy s t).all (fun j => s.tables.sections[j].guardAxis != some a ||
      s.tables.sections[j].guardPos == s.tables.sections[n].guardPos) = true := by
    refine List.all_eq_true.2 fun j hj => ?_
    rw [bne_iff_ne.2 (no_owner j t (beq_iff_eq.1 (List.mem_filter.1 hj).2)), Bool.true_or]
  simp only [guardMet, hg, hu, hf, bne_iff_ne.2 hh, hk, lockers, owned, Bool.not_false, Bool.and_true]

/-! ## Grants (R71) -/

/-- A grant orders nothing where every point stands and no guard is named. -/
theorem orderedFor_standing (hp : ∀ q ∈ pointNeeds s.tables.sections f n, pointStands s q = true)
    (hg : s.tables.sections[n].guardAxis = none) :
    orderedFor t f n s = setSec n (reservedFor t .setting f s.secs[n]) s := by
  have points : (pointNeeds s.tables.sections f n).foldl (fun u q => if pointStands u q then u else throwRequest q u)
      (setSec n (reservedFor t .setting f s.secs[n]) s) = setSec n (reservedFor t .setting f s.secs[n]) s := by
    refine foldl_keeps (P := fun v => v = setSec n (reservedFor t .setting f s.secs[n]) s) _ _ (fun u q hq hu => ?_) _ rfl
    have stands : pointStands (setSec n (reservedFor t .setting f s.secs[n]) s) q = true := hp q hq
    rw [hu, if_pos stands]
  rw [orderedFor, points, orderGuard_unguarded (s := setSec n _ s) hg]

/-- A section granted where all stands ready is SET (R71). -/
theorem grant_standing (hp : ∀ q ∈ pointNeeds s.tables.sections f n, pointStands s q = true)
    (hg : s.tables.sections[n].guardAxis = none) :
    grant t f n s = (.set, setSec n (reservedFor t .set f s.secs[n]) s) := by
  have ready : needsReady (setSec n (reservedFor t .setting f s.secs[n]) s) f n = true := by
    show ((pointNeeds s.tables.sections f n).all (pointStands s) && guardStands s n) = true
    rw [List.all_eq_true.2 hp, guardStands_unguarded hg, Bool.and_self]
  rw [grant_eq, orderedFor_standing hp hg, if_pos ready]
  simp [setSec, reservedFor]

/-- A grant over an IDLE exit point out of position throws it and stays SETTING (R71, R66). -/
theorem grant_thrown (hn : pointNeeds s.tables.sections f n = [(p, .normal)])
    (hg : s.tables.sections[n].guardAxis = none) (hm : s.pts[p].motion = none)
    (hp : s.pts[p].position ≠ some .normal) :
    grant t f n s = (.setting, setPt p { s.pts[p] with motion := some (newThrow s.tables.points[p] .normal) }
      (setSec n (reservedFor t .setting f s.secs[n]) s)) := by
  let u := setSec n (reservedFor t .setting f s.secs[n]) s
  let v := setPt p { s.pts[p] with motion := some (newThrow s.tables.points[p] .normal) } u
  have away : ¬ pointStands u (p, .normal) = true := by
    show ¬ (s.pts[p].motion.isNone && s.pts[p].position == some .normal) = true
    rw [Bool.and_eq_true, beq_iff_eq]
    exact fun e => hp e.2
  have ordered : orderedFor t f n s = v := by
    rw [orderedFor, hn, List.foldl_cons, List.foldl_nil, if_neg away, throwRequest_idle (s := u) hm hp]
    exact orderGuard_unguarded (s := v) hg
  have notReady : ¬ needsReady v f n = true := by
    have moves : pointStands v (p, .normal) = false := by
      have e : v.pts[p] = { s.pts[p] with motion := some (newThrow s.tables.points[p] .normal) } := get_set_same _ _ _
      simp only [pointStands, e, Option.isNone_some, Bool.false_and]
    show ¬ ((pointNeeds s.tables.sections f n).all (pointStands v) && guardStands v n) = true
    rw [hn, List.all_cons, moves, Bool.false_and, Bool.false_and]
    exact Bool.false_ne_true
  rw [grant_eq, ordered, if_neg notReady]

/-- A seek order leaves the position (R113). -/
theorem seekOrder_pos (r : AxisRec) (g : Nat) (x : Axis) : (seekOrder r g x).1.pos = x.pos := by
  unfold seekOrder turnAbout passRest toHolding
  dsimp only
  repeat' split
  all_goals rfl

/-- A grant behind a guard that stands elsewhere orders the guard to seek and stays SETTING (R71, R119). -/
theorem grant_seeking {a : AxisId} (hn : pointNeeds s.tables.sections f n = [])
    (hg : s.tables.sections[n].guardAxis = some a) (hk : s.axes[a].known = true) (hh : s.axes[a].state ≠ .homing)
    (hf : axisFaulted s.axes[a] = false)
    (hp : s.axes[a].pos ≠ takeTarget s.tables.axes[a] s.tables.sections[n].guardPos) :
    grant t f n s = (.setting, setAxis a
      { (seekOrder s.tables.axes[a] s.tables.sections[n].guardPos s.axes[a]).1 with follow := false }
      (setSec n (reservedFor t .setting f s.secs[n]) s)) := by
  let u := setSec n (reservedFor t .setting f s.secs[n]) s
  let y : Axis := { (seekOrder s.tables.axes[a] s.tables.sections[n].guardPos s.axes[a]).1 with follow := false }
  have stands : ∀ w : State, w.tables = s.tables → w.axes[a].pos = s.axes[a].pos → ¬ guardStands w n = true := by
    intro w ht hw
    rw [guardStands, ht]
    simp only [hg]
    rw [axisStands, ht, hw, Bool.and_eq_true, beq_iff_eq]
    exact fun e => hp e.2
  have ordered : orderedFor t f n s = setAxis a y u := by
    have seeks : ¬ (axisFaulted s.axes[a] || s.axes[a].state == .homing || !s.axes[a].known) = true := by
      simp only [hf, hk, beq_eq_false_iff_ne.2 hh, Bool.or_self, Bool.not_true]
      exact Bool.false_ne_true
    rw [orderedFor, hn, List.foldl_nil]
    show orderGuard n u = _
    rw [orderGuard]
    simp only [show u.tables.sections[n].guardAxis = some a from hg]
    rw [if_neg (stands u rfl rfl), guardSeek]
    exact if_neg seeks
  have notReady : ¬ needsReady (setAxis a y u) f n = true := by
    have e : (setAxis a y u).axes[a] = y := get_set_same _ _ _
    rw [needsReady, Bool.and_eq_true]
    exact fun h => stands (setAxis a y u) rfl (by rw [e]; exact seekOrder_pos _ _ _) h.2
  rw [grant_eq, ordered, if_neg notReady]

/-! ## What a request does to its train and its section (R92, R95) -/

/-- The next section of a route that is long enough (R92). -/
theorem nextSection_of_route {i : Fin 32} (hi : i.val = (s.trains[t].headIndex + 1) % s.tables.trains[t].length)
    (hr : s.tables.trains[t].route[i] = n.val) : nextSection s t = some n := by
  have e : routeAt s.tables.trains[t] i.val = some n := by
    rw [routeAt, dif_pos i.isLt]
    exact (congrArg (item 16) hr).trans (item_val n)
  rw [nextSection, ← hi, e]

variable {how : Approach}

theorem sendRequest_eq (hh : s.trains[t].hold.head? = some f) (hn : nextSection s t = some n) :
    sendRequest how t s = takeAnswer how t n (request t f n s).1 (request t f n s).2 := by
  simp only [sendRequest, hh, hn]

theorem request_met (hm : canMeet s t f n = true) :
    request t f n s = (.granted (grant t f n s).1, (grant t f n s).2) := by
  simp only [request, hm, if_true]

/-- A train whose request is granted SET (R95). -/
def grantedSet (n : SectionId) (x : Train) : Train :=
  goRunning { x with res := some (n, .set), arrival := some 0, queued := none, retry := false }

/-- A train whose request is granted SETTING, before it is held back (R95). -/
def grantedSetting (n : SectionId) (x : Train) : Train :=
  { x with res := some (n, .setting), arrival := none, queued := none, retry := false }

/-- A train whose request is queued, before it is held back (R95). -/
def waitsFor (n : SectionId) (x : Train) : Train :=
  { x with res := none, arrival := none, queued := some n, retry := false }

/-- A train whose request finds the queue full, before it is held back (R95). -/
def retries (x : Train) : Train := { x with res := none, arrival := none, queued := none, retry := true }

/-- GRANTED SET (R71, R95). -/
theorem sendRequest_set (hh : s.trains[t].hold.head? = some f) (hn : nextSection s t = some n)
    (hm : canMeet s t f n = true) (hp : ∀ q ∈ pointNeeds s.tables.sections f n, pointStands s q = true)
    (hg : s.tables.sections[n].guardAxis = none) :
    sendRequest how t s =
      setTrain t (grantedSet n s.trains[t]) (setSec n (reservedFor t .set f s.secs[n]) s) := by
  rw [sendRequest_eq hh hn, request_met hm, grant_standing hp hg]
  rfl

/-- GRANTED SETTING with a point thrown (R71, R95). -/
theorem sendRequest_thrown (hh : s.trains[t].hold.head? = some f) (hn : nextSection s t = some n)
    (hm : canMeet s t f n = true) (hneed : pointNeeds s.tables.sections f n = [(p, .normal)])
    (hg : s.tables.sections[n].guardAxis = none) (hmo : s.pts[p].motion = none)
    (hpo : s.pts[p].position ≠ some .normal) :
    sendRequest how t s = setTrain t (holdBack s how (grantedSetting n s.trains[t]))
      (setPt p { s.pts[p] with motion := some (newThrow s.tables.points[p] .normal) }
        (setSec n (reservedFor t .setting f s.secs[n]) s)) := by
  rw [sendRequest_eq hh hn, request_met hm, grant_thrown hneed hg hmo hpo]
  rfl

/-- GRANTED SETTING with the guard seeking (R71, R95). -/
theorem sendRequest_seeking {a : AxisId} (hh : s.trains[t].hold.head? = some f) (hn : nextSection s t = some n)
    (hm : canMeet s t f n = true) (hneed : pointNeeds s.tables.sections f n = [])
    (hg : s.tables.sections[n].guardAxis = some a) (hk : s.axes[a].known = true) (hho : s.axes[a].state ≠ .homing)
    (hf : axisFaulted s.axes[a] = false)
    (hp : s.axes[a].pos ≠ takeTarget s.tables.axes[a] s.tables.sections[n].guardPos) :
    sendRequest how t s = setTrain t (holdBack s how (grantedSetting n s.trains[t]))
      (setAxis a { (seekOrder s.tables.axes[a] s.tables.sections[n].guardPos s.axes[a]).1 with follow := false }
        (setSec n (reservedFor t .setting f s.secs[n]) s)) := by
  rw [sendRequest_eq hh hn, request_met hm, grant_seeking hneed hg hk hho hf hp]
  rfl

/-- QUEUED (R72, R95). -/
theorem sendRequest_queued (hh : s.trains[t].hold.head? = some f) (hn : nextSection s t = some n)
    (hs : s.secs[n].state ≠ .free) (hl : s.secs[n].queue.length < 3) :
    sendRequest how t s =
      setTrain t (holdBack s how (waitsFor n s.trains[t])) (setSec n (joined t s.secs[n]) s) := by
  have e : request t f n s = (.queued, setSec n (joined t s.secs[n]) s) := by
    simp only [request, canMeet_of_not_free hs, maxWaiters, hl, if_true, Bool.false_eq_true, if_false]
    rfl
  rw [sendRequest_eq hh hn, e]
  rfl

/-- FULL (R72, R95). -/
theorem sendRequest_full (hh : s.trains[t].hold.head? = some f) (hn : nextSection s t = some n)
    (hs : s.secs[n].state ≠ .free) (hl : 3 ≤ s.secs[n].queue.length) :
    sendRequest how t s = setTrain t (holdBack s how (retries s.trains[t])) s := by
  have e : request t f n s = (.full, s) := by
    simp only [request, canMeet_of_not_free hs, maxWaiters, Nat.not_lt.2 hl, Bool.false_eq_true, if_false]
  rw [sendRequest_eq hh hn, e]
  rfl

theorem setSec_self (n : SectionId) (s : State) : setSec n s.secs[n] s = s := by simp [setSec]

/-- A train held back at speed 0 is WAITING (R95). -/
theorem holdBack_standing {x : Train} (hx : x.speed = 0) :
    holdBack s how x = { x with state := .waiting, target := 0, brakeDelay := none } := by
  simp only [holdBack, hx, if_true]

end

/-! ## The checks of a completed throw (R73, R96) -/

/-- A fold whose function acts at one item alone, which the list holds. -/
theorem foldl_only {α : Type} {f : State → α → State} {n : α} {s : State} (h1 : ∀ m, m ≠ n → f s m = s)
    (h2 : f (f s n) n = f s n) (h3 : ∀ m, m ≠ n → f (f s n) m = f s n) :
    ∀ {xs : List α}, n ∈ xs → xs.foldl f s = f s n := by
  have after : ∀ xs : List α, xs.foldl f (f s n) = f s n := fun xs =>
    foldl_keeps (P := fun v => v = f s n) f xs (fun u m _ hu => by
      rw [hu]
      by_cases e : m = n
      · rw [e, h2]
      · exact h3 m e) _ rfl
  intro xs hn
  induction xs with
  | nil => exact absurd hn List.not_mem_nil
  | cons m xs ih =>
    by_cases e : m = n
    · rw [e]
      exact after xs
    · rw [List.foldl_cons, h1 m e]
      exact ih (List.mem_of_ne_of_mem (Ne.symm e) hn)

end Sys2Proof.Machine
end


section
/-! TRAIN RUN by EXECUTE, and the completed throw that makes a SETTING reservation SET (R66, R67, R70 to R73, R92, R95, R96). -/

namespace Sys2Proof.Machine

section
variable {t : TrainId} {s : State}

/-- TRAIN RUN of a STOPPED train sends its request (R92). -/
theorem trainRun_stopped (hc : s.chain.state ≠ .fault) (ho : s.trains[t].overload = false)
    (hs : s.trains[t].state = .stopped) : trainRun t s = (none, sendRequest .resume t s) := by
  simp only [trainRun, chainFaulted, beq_eq_false_iff_ne.2 hc, ho, hs, Bool.or_self, Bool.false_eq_true, if_false]

/-- TRAIN RUN of an in-use train in an ACTIVE node (R13, R16). -/
theorem runAction_trainRun {code : Nat} (ha : s.node = .active) (hu : s.tables.trains[t].inUse = true) :
    runAction code (.trainRun t) s = trainRun t s := by
  simp only [runAction, whenInUse, hu, if_true, whenAwake, resting, ha]
  rfl

/-- EXECUTE of one TRAIN RUN of a STOPPED train in an ACTIVE node with nothing owed: the request is sent on the closed unit, and
the outcome is OK without refusal (R92, R161). -/
theorem exec_trainRun_stopped {via : Opened} {q r : Byte} {u : State} (ho : s.owed = []) (ha : s.node = .active)
    (hc : s.chain.state ≠ .fault) (hu : s.tables.trains[t].inUse = true) (hs : s.trains[t].state = .stopped)
    (hv : s.trains[t].overload = false) (h : sendRequest .resume t (closeUnit s) = u) (hou : u.owed = [])
    (hau : u.node = .active) :
    exec (.execute via [10, byte t.val, q, r]) s = .next (outcome via 6 .ok [0, 0xFF] u) := by
  have hrun : runAction 0 (.trainRun t) (closeUnit s) = (none, u) := by
    rw [runAction_trainRun (s := closeUnit s) ha hu, trainRun_stopped (s := closeUnit s) hc hv hs, h]
  have hone : runOne 0 0 (.trainRun t) (closeUnit s) = (none, u) := by
    simp only [runOne, settle_of_nothing_owed (s := closeUnit s) ho, hrun, afterEvent_of_active hau]
  exact exec_execute_one (k := 10) (by omega) (decodeAction_trainRun t q.toNat r.toNat) hone hou

end

/-! ## A completed throw (R67, R73, R96) -/

section
variable {p : PointId} {n kept : SectionId} {k : TrainId} {s : State}

/-- A check of a SETTING reservation whose needs stand ready (R73). -/
theorem checkSetting_ready (hs : s.secs[n].state = .reserved k .setting kept) (hr : needsReady s kept n = true) :
    checkSetting n s = tellSet k (setSec n { s.secs[n] with state := .reserved k .set kept } s) := by
  simp [-Fin.getElem_fin, checkSetting, hs, hr]

theorem tellSet_waiting (hr : s.trains[k].res = some (n, .setting))
    (hs : s.trains[k].state = .waiting ∨ s.trains[k].state = .approach) :
    tellSet k s = setTrain k (goRunning { s.trains[k] with res := some (n, .set), arrival := some 0 }) s := by
  rcases hs with hs | hs <;> simp only [tellSet, hr, hs]

theorem tellSet_standing (hr : s.trains[k].res = some (n, .setting))
    (hs : s.trains[k].state = .stopping ∨ ∃ why, s.trains[k].state = .halted why) :
    tellSet k s = setTrain k { s.trains[k] with res := some (n, .set), arrival := some 0 } s := by
  rcases hs with hs | ⟨why, hs⟩ <;> simp only [tellSet, hr, hs]

/-- The check of one section at a completed throw of a point (R67). -/
def pointCheck (p : PointId) (s : State) (n : SectionId) : State :=
  match s.secs[n].state with
  | .reserved _ .setting kept =>
    if (pointNeeds s.tables.sections kept n).any (·.1 == p) then checkSetting n s else s
  | _ => s

theorem pointIdle_eq (p : PointId) (s : State) : pointIdle p s = (every 16).foldl (pointCheck p) s := rfl

theorem pointCheck_of_not_setting (h : ∀ j f, s.secs[n].state ≠ .reserved j .setting f) : pointCheck p s n = s := by
  unfold pointCheck
  split
  · next j f e => exact absurd e (h j f)
  · rfl

/-- The one SETTING reservation, if it needs the point, is checked when the point becomes IDLE. -/
theorem pointIdle_one (hs : s.secs[n].state = .reserved k .setting kept)
    (hother : ∀ o : SectionId, o ≠ n → ∀ j f, s.secs[o].state ≠ .reserved j .setting f)
    (hneed : pointNeeds s.tables.sections kept n = [(p, .normal)]) (hr : needsReady s kept n = true) :
    pointIdle p s = tellSet k (setSec n { s.secs[n] with state := .reserved k .set kept } s) := by
  have here : pointCheck p s n = tellSet k (setSec n { s.secs[n] with state := .reserved k .set kept } s) := by
    rw [← checkSetting_ready hs hr]
    simp [-Fin.getElem_fin, pointCheck, hs, hneed]
  have after : ∀ (m : SectionId) j f, (pointCheck p s n).secs[m].state ≠ .reserved j .setting f := by
    intro m j f
    simp only [here, tellSet_secs, setSec_secs]
    by_cases e : m = n
    · subst e
      rw [get_set_same]
      exact fun h => nomatch h
    · rw [get_set_ne _ _ e]
      exact hother m e j f
  rw [pointIdle_eq, ← here]
  exact foldl_only (f := pointCheck p) (fun m hm => pointCheck_of_not_setting (hother m hm))
    (pointCheck_of_not_setting (after n)) (fun m _ => pointCheck_of_not_setting (after m)) (List.mem_finRange n)

/-- THROW_COMPLETE of the exit point of the one SETTING reservation's step: the reservation is told SET (R67, R73). -/
theorem throwEnds_told {m : Throw} (hm : s.pts[p].motion = some m) (hc : m.throwCount ≤ 1) (ht : m.target = .normal)
    (hx : s.pts[p].slot = none) (hs : s.secs[n].state = .reserved k .setting kept)
    (hother : ∀ o : SectionId, o ≠ n → ∀ j f, s.secs[o].state ≠ .reserved j .setting f)
    (hneed : pointNeeds s.tables.sections kept n = [(p, .normal)]) (hg : s.tables.sections[n].guardAxis = none) :
    throwEnds p s = tellSet k (setSec n { s.secs[n] with state := .reserved k .set kept }
      (setPt p ⟨some .normal, none, none⟩ s)) := by
  let u := setPt p ⟨some .normal, none, none⟩ s
  have ready : needsReady u kept n = true := by
    have e : u.pts[p] = ⟨some .normal, none, none⟩ := get_set_same _ _ _
    have stands : pointStands u (p, .normal) = true := by
      simp only [pointStands, e]
      rfl
    show ((pointNeeds s.tables.sections kept n).all (pointStands u) && guardStands u n) = true
    rw [hneed, List.all_cons, stands, List.all_nil, guardStands_unguarded (s := u) hg]
    rfl
  rw [throwEnds_idle hm hc (.inl hx), ht]
  exact pointIdle_one (s := u) hs hother hneed ready

end

/-! ## The answers of RUN -/

/-- Settles O25: each answer is the one equation of `sendRequest` for it, on the closed unit, and THROW_COMPLETE checks the one
SETTING reservation, whose train is told. -/
theorem requestsAreAnswered : Obligations.RequestsAreAnswered := by
  constructor
  · intro via t h n i q r s ho ha hc hu hs hov hsp hh hi hr x done sent reserved runs waits
    have hn : nextSection (closeUnit s) t = some n := nextSection_of_route (s := closeUnit s) hi hr
    have hh' : (closeUnit s).trains[t].hold.head? = some h := hh
    have run : ∀ {u : State}, sendRequest .resume t (closeUnit s) = u → u.owed = [] → u.node = .active →
        exec (.execute via [10, byte t.val, q, r]) s = done u := fun e h1 h2 =>
      exec_trainRun_stopped ho ha hc hu hs hov e h1 h2
    refine ⟨fun hin hf hx he hg => ?_, fun p hin hf hx hb he hg hpu hmo hheld hown hlock => ?_, fun hf hl => ?_,
      fun hf hl => ?_⟩
    · have hneed : pointNeeds s.tables.sections h n = [] := pointNeeds_none hx he
      refine run ((sendRequest_set hh' hn (canMeet_plain (s := closeUnit s) hin hf hneed hg) (fun q hq => ?_) hg).trans rfl)
        ho ha
      rw [show (closeUnit s).tables = s.tables from rfl, hneed] at hq
      exact absurd hq List.not_mem_nil
    · have hneed : pointNeeds s.tables.sections h n = [(p, .normal)] := pointNeeds_exit hx hb he
      have met : canMeet (closeUnit s) t h n = true := by
        have hp : pointMet s t (p, .normal) = true := pointMet_own hpu .normal hheld hown hlock
        show (s.tables.sections[n].inUse && s.secs[n].state == .free &&
          (pointNeeds s.tables.sections h n).all (pointMet s t) && guardMet s t n) = true
        rw [hin, hf, hneed, List.all_cons, hp, List.all_nil, guardMet_unguarded hg]
        rfl
      refine ⟨fun hpo => ?_, fun hpo => ?_⟩
      · refine run ((sendRequest_set hh' hn met (fun q hq => ?_) hg).trans rfl) ho ha
        rw [show (closeUnit s).tables = s.tables from rfl, hneed, List.mem_singleton] at hq
        subst hq
        show (s.pts[p].motion.isNone && s.pts[p].position == some .normal) = true
        rw [hmo, hpo]
        rfl
      · refine run ((sendRequest_thrown hh' hn met hneed hg hmo hpo).trans ?_) ho ha
        rw [holdBack_standing (x := grantedSetting n (closeUnit s).trains[t]) hsp]
        rfl
    · refine run ((sendRequest_queued hh' hn hf hl).trans ?_) ho ha
      rw [holdBack_standing (x := waitsFor n (closeUnit s).trains[t]) hsp]
      rfl
    · refine run ((sendRequest_full hh' hn hf hl).trans ?_) ho ha
      rw [holdBack_standing (x := retries (closeUnit s).trains[t]) hsp]
      exact congrArg (setTrain t _) (setSec_self n (closeUnit s)).symm
  · intro p n kept k m s hm hc ht hx hs hother hp hb he hg hr told
    have hneed : pointNeeds s.tables.sections kept n = [(p, .normal)] := pointNeeds_exit hp hb he
    have ends : throwEnds p s = _ := throwEnds_told hm hc ht hx hs hother hneed hg
    exact ⟨fun hst => congrArg Host.Outcome.next (ends.trans (tellSet_waiting hr hst)),
      fun hst => congrArg Host.Outcome.next (ends.trans (tellSet_standing hr hst))⟩

end Sys2Proof.Machine
end


section
/-! Detector clearings: what a clearing does by the state of its section, and the grant that it brings to a waiting train (R71,
R77, R78, R80, R96). -/

namespace Sys2Proof.Machine

/-! ## Detector events with one change (R78) -/

/-- A test that one index alone passes picks it out. -/
theorem filter_every_one {k : Nat} {f : Fin k → Bool} {n : Fin k} (hn : f n = true) (hother : ∀ m, m ≠ n → f m = false) :
    (every k).filter f = [n] := by
  have only : (every k).filter f = (every k).filter (· == n) := List.filter_congr fun m _ => by
    by_cases e : m = n
    · rw [e, hn, beq_self_eq_true]
    · rw [hother m e, beq_eq_false_iff_ne.2 e]
  rw [only, List.filter_beq, every,
    List.count_eq_one_of_mem (List.nodup_finRange k) (List.mem_finRange n), List.replicate_one]

theorem filter_every_none {k : Nat} {f : Fin k → Bool} (h : ∀ m, f m = false) : (every k).filter f = [] :=
  List.filter_eq_nil_iff.2 fun m _ => by rw [h m]; exact Bool.false_ne_true

section
variable {n : SectionId} {s : State} {v : SectionId → Bool}

/-- Only one section goes clear: its clearing is the whole event. -/
theorem detectorEvent_clearing (hv : ∀ m, m ≠ n → v m = s.secs[m].occ) (hn : v n = false) (ho : s.secs[n].occ = true) :
    detectorEvent v s = clearing n s := by
  have down : (every 16).filter (fun m => s.secs[m].occ && !v m) = [n] :=
    filter_every_one (by rw [hn, ho]; rfl) fun m hm => by rw [hv m hm, Bool.and_not_self]
  have up : (every 16).filter (fun m => !s.secs[m].occ && v m) = [] := filter_every_none fun m => by
    by_cases e : m = n
    · rw [e, hn, Bool.and_false]
    · rw [hv m e, Bool.not_and_self]
  simp only [detectorEvent, down, up, List.foldl_cons, List.foldl_nil]

/-- Only one section goes occupied: its arrival is the whole event. -/
theorem detectorEvent_arrival (hv : ∀ m, m ≠ n → v m = s.secs[m].occ) (hn : v n = true) (ho : s.secs[n].occ = false) :
    detectorEvent v s = arrival n s := by
  have down : (every 16).filter (fun m => s.secs[m].occ && !v m) = [] := filter_every_none fun m => by
    by_cases e : m = n
    · rw [e, ho, Bool.false_and]
    · rw [hv m e, Bool.and_not_self]
  have up : (every 16).filter (fun m => !s.secs[m].occ && v m) = [n] :=
    filter_every_one (by rw [hn, ho]; rfl) fun m hm => by rw [hv m hm, Bool.not_and_self]
  simp only [detectorEvent, down, up, List.foldl_cons, List.foldl_nil]

end

/-! ## Updates that pass one another -/

theorem setSec_setSec (n : SectionId) (x y : Section) (s : State) : setSec n x (setSec n y s) = setSec n x s := by
  simp [setSec]

theorem setTrain_setTrain (t : TrainId) (x y : Train) (s : State) : setTrain t x (setTrain t y s) = setTrain t x s := by
  simp [setTrain]

theorem appendCue_setSec (c : Nat) (src : Source) (n : SectionId) (x : Section) (s : State) :
    appendCue c src (setSec n x s) = setSec n x (appendCue c src s) := by
  unfold appendCue
  rw [apply_ite (setSec n x), apply_ite (setSec n x)]
  rfl

theorem appendCue_setTrain (c : Nat) (src : Source) (t : TrainId) (x : Train) (s : State) :
    appendCue c src (setTrain t x s) = setTrain t x (appendCue c src s) := by
  unfold appendCue
  rw [apply_ite (setTrain t x), apply_ite (setTrain t x)]
  rfl

theorem appendCue_setAxis (c : Nat) (src : Source) (a : AxisId) (x : Axis) (s : State) :
    appendCue c src (setAxis a x s) = setAxis a x (appendCue c src s) := by
  unfold appendCue
  rw [apply_ite (setAxis a x), apply_ite (setAxis a x)]
  rfl

/-! ## Re-evaluation (R77) -/

/-- No queue, no grant. -/
theorem examineQueue_of_no_queue {n : SectionId} {s : State} (h : s.secs[n].queue = []) : examineQueue n s = s := by
  have none_waits : firstWaiter s n = none := by rw [firstWaiter, h, List.findSome?_nil]
  unfold examineQueue
  split
  · rw [none_waits]
  all_goals rfl

/-- Nothing is granted in a section that is not FREE. -/
theorem examineQueue_of_not_free {n : SectionId} {s : State} (h : s.secs[n].state ≠ .free) : examineQueue n s = s := by
  unfold examineQueue
  split
  · next e => exact absurd e h
  all_goals rfl

theorem reevaluate_of_no_queues {s : State} (h : ∀ m : SectionId, s.secs[m].queue = []) (o : Option SectionId) :
    reevaluate o s = s :=
  foldl_keeps (P := fun u => u = s) _ _ (fun u m _ hu => by rw [hu]; exact examineQueue_of_no_queue (h m)) s rfl

/-- The queue of one section alone is examined where the others are empty. -/
theorem reevaluate_of_one_queue {n : SectionId} {s : State} (h : ∀ m : SectionId, m ≠ n → s.secs[m].queue = [])
    (h1 : (examineQueue n s).secs[n].state ≠ .free)
    (h2 : ∀ m : SectionId, m ≠ n → (examineQueue n s).secs[m].queue = []) (o : Option SectionId) :
    reevaluate o s = examineQueue n s := by
  have all : n ∈ queueOrder o := by
    unfold queueOrder
    split
    · exact List.mem_finRange n
    · next k =>
      by_cases e : n = k
      · exact e ▸ List.mem_cons_self
      · exact List.mem_cons_of_mem _ (List.mem_filter.2 ⟨List.mem_finRange n, bne_iff_ne.2 e⟩)
  exact foldl_only (f := fun u m => examineQueue m u) (fun m hm => examineQueue_of_no_queue (h m hm))
    (examineQueue_of_not_free h1) (fun m hm => examineQueue_of_no_queue (h2 m hm)) all

/-- A section that takes an empty queue leaves all empty. -/
theorem setSec_queues {n : SectionId} {x : Section} {s : State} (h : ∀ m : SectionId, s.secs[m].queue = [])
    (hx : x.queue = []) (m : SectionId) : (setSec n x s).secs[m].queue = [] := by
  rw [setSec_secs]
  by_cases e : m = n
  · subst e
    rwa [get_set_same]
  · rw [get_set_ne _ _ e]
    exact h m

/-- A section held behind the head is released while no train waits (R80). -/
theorem releaseHeld_of_no_queues {t : TrainId} {n : SectionId} {s : State} (h : ∀ m : SectionId, s.secs[m].queue = []) :
    releaseHeld t n s = appendCue s.tables.sections[n].releaseCue .sectionCue
      (setTrain t { s.trains[t] with hold := s.trains[t].hold.filter (· != n) }
        (setSec n { s.secs[n] with state := .free } s)) := by
  rw [releaseHeld_eq]
  refine reevaluate_of_no_queues (fun m => ?_) _
  rw [releasedHeld, (appendCue_rails _ _ _).secs]
  exact setSec_queues (x := { s.secs[n] with state := .free }) h (h n) m

/-- The one waiter of a FREE section, whose step needs nothing, is granted it SET and goes RUNNING (R77, R96). -/
theorem examineQueue_grants {k : TrainId} {n head : SectionId} {s : State} (hs : s.secs[n].state = .free)
    (hq : s.secs[n].queue = [k]) (hh : s.trains[k].hold.head? = some head) (hm : canMeet s k head n = true)
    (hneed : pointNeeds s.tables.sections head n = []) (hg : s.tables.sections[n].guardAxis = none) :
    examineQueue n s = setTrain k (grantedSet n s.trains[k]) (setSec n (reservedFor k .set head s.secs[n]) s) := by
  have first : firstWaiter s n = some (k, head) := by
    simp [-Fin.getElem_fin, firstWaiter, hq, hh, hm]
  have granted : grant k head n s = (.set, setSec n (reservedFor k .set head s.secs[n]) s) :=
    grant_standing (fun q h => by rw [hneed] at h; exact absurd h List.not_mem_nil) hg
  unfold examineQueue
  split
  · rw [first]
    dsimp only
    rw [granted]
    rfl
  all_goals next e => exact nomatch hs.symm.trans e

/-! ## Clearings (R80) -/

section
variable {n : SectionId} {s : State}

theorem setOcc_get (n : SectionId) (v : Bool) (s : State) : (setOcc n v s).secs[n] = { s.secs[n] with occ := v } :=
  get_set_same _ _ _

theorem setOcc_queues {v : Bool} (h : ∀ m : SectionId, s.secs[m].queue = []) :
    ∀ m : SectionId, (setOcc n v s).secs[m].queue = [] := setSec_queues h (h n)

/-- A section takes an occupancy and then a state. -/
theorem setSec_setOcc (n : SectionId) (v : Bool) (st : SecState) (s : State) :
    setSec n { (setOcc n v s).secs[n] with state := st } (setOcc n v s) =
      setSec n { s.secs[n] with occ := v, state := st } s := by
  rw [setOcc_get]
  exact setSec_setSec _ _ _ _

theorem clearing_unused (hu : s.tables.sections[n].inUse = false) : clearing n s = setOcc n false s :=
  if_neg (by rw [show (setOcc n false s).tables = s.tables from rfl, hu]; exact Bool.false_ne_true)

/-- What the clearing of an in-use section does by the state of the section (R80). -/
def clearedBy (n : SectionId) (st : SecState) (u : State) : State :=
  match st with
  | .held t _ => if u.trains[t].hold.head? = some n then u else releaseHeld t n u
  | .blocked => reevaluate (some n) (setSec n { u.secs[n] with state := .free } u)
  | .reserved _ _ _ | .free => u

theorem clearing_inUse (hu : s.tables.sections[n].inUse = true) :
    clearing n s = clearedBy n s.secs[n].state (setOcc n false s) := by
  have e : clearing n s = clearedBy n (setOcc n false s).secs[n].state (setOcc n false s) := if_pos hu
  rw [e, setOcc_get]

end

/-- Settles O50: each clearing by the state of its section; a re-evaluation with empty queues grants nothing, and with one waiter
it is the grant to that train. -/
theorem clearingsReleaseAndGrant : Obligations.ClearingsReleaseAndGrant := by
  intro n s clear same noneWaits
  refine ⟨fun v => detectorEvent_clearing, clearing_unused, fun hu => ⟨fun h => ?_,
    fun k o hk => ⟨fun hh => ?_, fun hh hw => ?_⟩, fun hb hw => ?_, fun k head hb hq hother hh hx he hg => ?_⟩⟩
  · rw [clearing_inUse hu]
    rcases h with h | ⟨k, ph, o, h⟩ <;> rw [h] <;> rfl
  · rw [clearing_inUse hu, hk]
    exact if_pos hh
  · have behind : clearedBy n (.held k o) (setOcc n false s) = releaseHeld k n (setOcc n false s) := if_neg hh
    rw [clearing_inUse hu, hk, behind, releaseHeld_of_no_queues (setOcc_queues hw), setSec_setOcc]
    rfl
  · rw [clearing_inUse hu, hb, clearedBy, setSec_setOcc]
    exact reevaluate_of_no_queues (setSec_queues (x := { s.secs[n] with occ := false, state := .free }) hw (hw n)) _
  · let u := setSec n { s.secs[n] with occ := false, state := .free } s
    have sec : u.secs[n] = { s.secs[n] with occ := false, state := .free } := get_set_same _ _ _
    have hs : u.secs[n].state = .free := by rw [sec]
    have hq' : u.secs[n].queue = [k] := by rw [sec]; exact hq
    have hneed : pointNeeds u.tables.sections head n = [] := pointNeeds_none hx he
    have taken : reservedFor k .set head u.secs[n] = ⟨.reserved k .set head, false, []⟩ := by
      simp [-Fin.getElem_fin, sec, reservedFor, hq]
    have granted : examineQueue n u =
        setTrain k (grantedSet n s.trains[k]) (setSec n ⟨.reserved k .set head, false, []⟩ s) := by
      rw [examineQueue_grants hs hq' hh (canMeet_plain hu hs hneed hg) hneed hg, taken, setSec_setSec]
      rfl
    have others : ∀ (z : Section) (m : SectionId), m ≠ n → (s.secs.set n z)[m].queue = [] := fun z m hm => by
      rw [get_set_ne _ _ hm]
      exact hother m hm
    rw [clearing_inUse hu, hb, clearedBy, setSec_setOcc]
    refine (reevaluate_of_one_queue (others _) ?_ ?_ (some n)).trans granted
    · rw [granted, setTrain_secs, setSec_secs, get_set_same]
      exact SecState.noConfusion
    · rw [granted]
      exact others _

end Sys2Proof.Machine
end


section
/-! Detector arrivals: what an arrival does by the state of its section, the entry of a train with the release of its tail, and
the request that a RUNNING train sends after it (R79, R95, R97, R98). -/

namespace Sys2Proof.Machine

/-! ## Arrivals by the state of the section (R79) -/

section
variable {n : SectionId} {s : State}

/-- What the arrival at an in-use section does by the state of the section (R79). -/
def arrivedBy (n : SectionId) (st : SecState) (u : State) : State :=
  match st with
  | .reserved t .set kept => entry t n kept u
  | .reserved t .setting _ => halt .overrun t u
  | .free => latch .stray (.sectionAt n) (setSec n { u.secs[n] with state := .blocked } u)
  | .held _ _ | .blocked => u

theorem arrival_inUse (hu : s.tables.sections[n].inUse = true) :
    arrival n s = arrivedBy n s.secs[n].state (setOcc n true s) := by
  have e : arrival n s = arrivedBy n (setOcc n true s).secs[n].state (setOcc n true s) := if_pos hu
  rw [e, setOcc_get]

theorem arrival_unused (hu : s.tables.sections[n].inUse = false) : arrival n s = setOcc n true s :=
  if_neg (by rw [show (setOcc n true s).tables = s.tables from rfl, hu]; exact Bool.false_ne_true)

end

/-! ## Halts for OVERRUN and LENGTH (R98) -/

/-- A halt for OVERRUN keeps LOST and LENGTH. -/
theorem haltReason_overrun (st : TrainState) :
    haltReason .overrun st =
      if st = .halted .lost then .lost else if st = .halted .length then .length else .overrun := by
  cases st with
  | halted why => cases why <;> rfl
  | _ => rfl

/-- A halt for LENGTH keeps OVERRUN and LOST. -/
theorem haltReason_length (st : TrainState) :
    haltReason .length st =
      if st = .halted .overrun then .overrun else if st = .halted .lost then .lost else .length := by
  cases st with
  | halted why => cases why <;> rfl
  | _ => rfl

/-- A halt for OVERRUN reaches a train with a SETTING reservation (R98). -/
theorem haltReaches_overrun {x : Train} {n : SectionId} (h : x.res = some (n, .setting)) :
    haltReaches .overrun x = true := by
  simp only [haltReaches, h]

/-- A halt for LENGTH reaches a RUNNING, a STOPPING and a HALTED train (R98). -/
theorem haltReaches_length {x : Train} (h : x.state = .running ∨ x.state = .stopping ∨ ∃ why, x.state = .halted why) :
    haltReaches .length x = true := by
  rcases h with h | h | ⟨why, h⟩ <;> simp only [haltReaches, h]

/-! ## Entries (R97) -/

section
variable {n : SectionId} {s : State} {k : TrainId} {o head : SectionId} {tail : List SectionId}

/-- The sections that a train would hold: the head that was counts while its detector is on (R97). -/
theorem heldAfter_cons {x : Train} (hh : x.hold = head :: tail) :
    heldAfter s x = if s.secs[head].occ then tail.length + 2 else tail.length + 1 := by
  simp only [heldAfter, hh, List.head?_cons, List.length_cons]

theorem setOcc_get_ne {v : Bool} (h : head ≠ n) : (setOcc n v s).secs[head] = s.secs[head] := get_set_ne _ _ h

/-- The arrival of a train at its SET reservation is its entry. -/
theorem arrival_reserved_set (hu : s.tables.sections[n].inUse = true) (hs : s.secs[n].state = .reserved k .set o) :
    arrival n s = entry k n o (setOcc n true s) := by
  rw [arrival_inUse hu, hs]
  rfl

/-- The state with the entry taken at an arrival: the section HELD, the train at its new head, the entry cue appended (R97). -/
def arrived (n : SectionId) (k : TrainId) (o : SectionId) (s : State) : State :=
  appendCue s.tables.sections[n].entryCue .sectionCue
    (setTrain k (entered s.tables.trains[k] n s.trains[k])
      (setSec n { s.secs[n] with occ := true, state := .held k (some o) } s))

theorem entryTaken_setOcc : entryTaken k n o (setOcc n true s) = arrived n k o s := by
  have e : SameRails (appendCue s.tables.sections[n].entryCue .sectionCue
      (setSec n { s.secs[n] with occ := true, state := .held k (some o) } s))
      (setSec n { s.secs[n] with occ := true, state := .held k (some o) } s) := appendCue_rails _ _ _
  rw [entryTaken, setSec_setOcc, arrived, appendCue_setTrain]
  show setTrain k (entered (appendCue s.tables.sections[n].entryCue .sectionCue _).tables.trains[k] n
    (appendCue s.tables.sections[n].entryCue .sectionCue _).trains[k]) _ = _
  rw [e.tables, e.trains]
  rfl

theorem arrived_rails : SameRails (arrived n k o s) (setTrain k (entered s.tables.trains[k] n s.trains[k])
    (setSec n { s.secs[n] with occ := true, state := .held k (some o) } s)) := appendCue_rails _ _ _

theorem arrived_tables : (arrived n k o s).tables = s.tables := arrived_rails.tables

theorem arrived_train : (arrived n k o s).trains[k] = entered s.tables.trains[k] n s.trains[k] := by
  rw [arrived_rails.trains]
  exact get_set_same _ _ _

theorem arrived_sec {m : SectionId} (h : m ≠ n) : (arrived n k o s).secs[m] = s.secs[m] := by
  rw [arrived_rails.secs]
  exact get_set_ne _ _ h

theorem arrived_queues (h : ∀ m : SectionId, s.secs[m].queue = []) (m : SectionId) :
    (arrived n k o s).secs[m].queue = [] := by
  rw [arrived_rails.secs]
  exact setSec_queues (x := { s.secs[n] with occ := true, state := .held k (some o) }) h (h n) m

/-- An entry that leaves at most three sections held is taken (R97). -/
theorem arrival_enters (hu : s.tables.sections[n].inUse = true) (hs : s.secs[n].state = .reserved k .set o)
    (hh : s.trains[k].hold = head :: tail) (hn : head ≠ n)
    (hl : (if s.secs[head].occ then tail.length + 2 else tail.length + 1) < 4) :
    arrival n s = entryRequest k (if s.secs[head].occ then arrived n k o s else releaseHeld k head (arrived n k o s)) := by
  have few : ¬ 4 ≤ heldAfter (setOcc n true s) s.trains[k] := by
    rw [heldAfter_cons hh, setOcc_get_ne hn]
    omega
  have head_eq : (setOcc n true s).trains[k].hold.head? = some head := congrArg List.head? hh
  have taken : entry k n o (setOcc n true s) = takeEntry k n o (setOcc n true s) := if_neg few
  rw [arrival_reserved_set hu hs, taken, takeEntry_eq head_eq, entryTaken_setOcc, arrived_sec hn]

/-- A train that is not RUNNING sends no request (R97). -/
theorem entryRequest_standing {u : State} (h : u.trains[k].state = .stopping ∨ ∃ why, u.trains[k].state = .halted why) :
    entryRequest k u = u := by
  rcases h with h | ⟨why, h⟩ <;> simp only [entryRequest, h]

theorem entryRequest_running {u : State} (h : u.trains[k].state = .running) :
    entryRequest k u = sendRequest .entry k u := by
  simp only [entryRequest, h]

/-- The head that was is released at an entry while no train waits (R80, R97). -/
theorem releaseHeld_arrived (hn : head ≠ n) (hw : ∀ m : SectionId, s.secs[m].queue = []) :
    releaseHeld k head (arrived n k o s) =
      appendCue s.tables.sections[head].releaseCue .sectionCue (appendCue s.tables.sections[n].entryCue .sectionCue
        (setTrain k { entered s.tables.trains[k] n s.trains[k] with
            hold := (n :: s.trains[k].hold).filter (· != head) }
          (setSec head { s.secs[head] with state := .free }
            (setSec n { s.secs[n] with occ := true, state := .held k (some o) } s)))) := by
  rw [releaseHeld_of_no_queues (arrived_queues hw), arrived_train, arrived_sec hn, arrived_tables, arrived,
    ← appendCue_setSec, ← appendCue_setTrain]
  exact congrArg (fun u => appendCue _ _ (appendCue _ _ u)) (setTrain_setTrain k _ _ (setSec head _ (setSec n _ s)))

/-! ## The request after an entry (R95, R97) -/

/-- What the train and a further section take after an entry passes the entry cue. -/
theorem setTrain_setSec_arrived (m : SectionId) (x : Section) (y : Train) :
    setTrain k y (setSec m x (arrived n k o s)) = appendCue s.tables.sections[n].entryCue .sectionCue
      (setTrain k y (setSec m x (setSec n { s.secs[n] with occ := true, state := .held k (some o) } s))) := by
  rw [arrived, ← appendCue_setSec, ← appendCue_setTrain]
  exact congrArg (appendCue _ _) (setTrain_setTrain k y _ (setSec m x (setSec n _ s)))

theorem setTrain_arrived (y : Train) :
    setTrain k y (arrived n k o s) = appendCue s.tables.sections[n].entryCue .sectionCue
      (setTrain k y (setSec n { s.secs[n] with occ := true, state := .held k (some o) } s)) := by
  rw [arrived, ← appendCue_setTrain, setTrain_setTrain]

theorem setTrain_setAxis_setSec_arrived (a : AxisId) (z : Axis) (m : SectionId) (x : Section) (y : Train) :
    setTrain k y (setAxis a z (setSec m x (arrived n k o s))) = appendCue s.tables.sections[n].entryCue .sectionCue
      (setTrain k y (setAxis a z
        (setSec m x (setSec n { s.secs[n] with occ := true, state := .held k (some o) } s)))) := by
  rw [arrived, ← appendCue_setSec, ← appendCue_setAxis, ← appendCue_setTrain]
  exact congrArg (appendCue _ _) (setTrain_setTrain k y _ (setAxis a z (setSec m x (setSec n _ s))))

/-- A train held back at an entry: WAITING at speed 0, else in APPROACH over a brake delay (R97). -/
def brakesOver (delay : Nat) (x : Train) : Train :=
  if x.speed = 0 then { x with state := .waiting, target := 0, brakeDelay := none }
  else { x with
    state := .approach
    target := if delay = 0 then 0 else min x.speed x.cruise
    brakeDelay := if delay = 0 then none else some delay }

/-- The brake delay is that of the head entered (R97). -/
theorem holdBack_entry {x : Train} (hh : x.hold.head? = some n) :
    holdBack s .entry x = brakesOver s.tables.sections[n].brakeDelay x := by
  unfold holdBack brakesOver
  simp only [hh]
  by_cases hv : x.speed = 0
  · rw [if_pos hv, if_pos hv]
  · rw [if_neg hv, if_neg hv]
    by_cases hd : s.tables.sections[n].brakeDelay = 0
    · rw [if_pos hd, if_pos hd, if_pos hd]
    · rw [if_neg hd, if_neg hd, if_neg hd]

theorem holdBack_arrived {x : Train} (hh : x.hold.head? = some n) :
    holdBack (arrived n k o s) .entry x = brakesOver s.tables.sections[n].brakeDelay x := by
  rw [holdBack_entry hh, arrived_tables]

/-- After an entry the train stands at its new head, and the section after it in its route is next. -/
theorem nextSection_arrived {m : SectionId} {i : Fin 32}
    (hi : i.val = ((s.trains[k].headIndex + 1) % s.tables.trains[k].length + 1) % s.tables.trains[k].length)
    (hr : s.tables.trains[k].route[i] = m.val) : nextSection (arrived n k o s) k = some m := by
  refine nextSection_of_route (i := i) ?_ ?_
  · rw [arrived_train, arrived_tables]
    exact hi
  · rw [← hr]
    exact congrArg (fun r : Tables => r.trains[k].route[i]) arrived_tables

theorem arrived_head : (arrived n k o s).trains[k].hold.head? = some n := by
  rw [arrived_train]
  rfl

theorem arrived_axes : (arrived n k o s).axes = s.axes := by
  obtain ⟨c, ns, e⟩ := appendCue_eq s.tables.sections[n].entryCue .sectionCue
    (setTrain k (entered s.tables.trains[k] n s.trains[k])
      (setSec n { s.secs[n] with occ := true, state := .held k (some o) } s))
  rw [arrived, e]
  rfl

section
variable {m : SectionId} (hnext : nextSection (arrived n k o s) k = some m) (hm : m ≠ n)
include hnext hm

/-- After an entry: QUEUED (R95). -/
theorem sendRequest_arrived_queued (hf : s.secs[m].state ≠ .free) (hl : s.secs[m].queue.length < 3) :
    sendRequest .entry k (arrived n k o s) = appendCue s.tables.sections[n].entryCue .sectionCue
      (setTrain k (brakesOver s.tables.sections[n].brakeDelay (waitsFor m (entered s.tables.trains[k] n s.trains[k])))
        (setSec m (joined k s.secs[m]) (setSec n { s.secs[n] with occ := true, state := .held k (some o) } s))) := by
  have hsec : (arrived n k o s).secs[m] = s.secs[m] := arrived_sec hm
  rw [sendRequest_queued arrived_head hnext (by rw [hsec]; exact hf) (by rw [hsec]; exact hl), hsec, arrived_train,
    holdBack_arrived (x := waitsFor m (entered s.tables.trains[k] n s.trains[k])) rfl, setTrain_setSec_arrived]

/-- After an entry: FULL (R95). -/
theorem sendRequest_arrived_full (hf : s.secs[m].state ≠ .free) (hl : 3 ≤ s.secs[m].queue.length) :
    sendRequest .entry k (arrived n k o s) = appendCue s.tables.sections[n].entryCue .sectionCue
      (setTrain k (brakesOver s.tables.sections[n].brakeDelay (retries (entered s.tables.trains[k] n s.trains[k])))
        (setSec n { s.secs[n] with occ := true, state := .held k (some o) } s)) := by
  have hsec : (arrived n k o s).secs[m] = s.secs[m] := arrived_sec hm
  rw [sendRequest_full arrived_head hnext (by rw [hsec]; exact hf) (by rw [hsec]; exact hl), arrived_train,
    holdBack_arrived (x := retries (entered s.tables.trains[k] n s.trains[k])) rfl, setTrain_arrived]

section
variable (hf : s.secs[m].state = .free) (hu : s.tables.sections[m].inUse = true)
  (hneed : pointNeeds s.tables.sections n m = [])
include hf hu hneed

/-- After an entry: GRANTED SET, where the step needs nothing (R71, R95). -/
theorem sendRequest_arrived_set (hg : s.tables.sections[m].guardAxis = none) :
    sendRequest .entry k (arrived n k o s) = appendCue s.tables.sections[n].entryCue .sectionCue
      (setTrain k (grantedSet m (entered s.tables.trains[k] n s.trains[k]))
        (setSec m (reservedFor k .set n s.secs[m])
          (setSec n { s.secs[n] with occ := true, state := .held k (some o) } s))) := by
  have hsec : (arrived n k o s).secs[m] = s.secs[m] := arrived_sec hm
  have need : pointNeeds (arrived n k o s).tables.sections n m = [] := by
    rw [arrived_tables]
    exact hneed
  have unguarded : (arrived n k o s).tables.sections[m].guardAxis = none := by
    rw [arrived_tables]
    exact hg
  have met : canMeet (arrived n k o s) k n m = true :=
    canMeet_plain (by rw [arrived_tables]; exact hu) (by rw [hsec]; exact hf) need unguarded
  have stands : ∀ q ∈ pointNeeds (arrived n k o s).tables.sections n m, pointStands (arrived n k o s) q = true := by
    rw [need]
    exact fun _ h => absurd h List.not_mem_nil
  rw [sendRequest_set arrived_head hnext met stands unguarded, hsec, arrived_train, setTrain_setSec_arrived]

/-- After an entry: GRANTED SETTING behind a guard that only this section names and that is ordered to seek (R71, R95). -/
theorem sendRequest_arrived_seeking {a : AxisId} (hg : s.tables.sections[m].guardAxis = some a)
    (hother : ∀ j : SectionId, j ≠ m → s.tables.sections[j].guardAxis ≠ some a) (ha : s.tables.axes[a].inUse = true)
    (hk : s.axes[a].known = true) (hho : s.axes[a].state ≠ .homing) (hfa : axisFaulted s.axes[a] = false)
    (hp : s.axes[a].pos ≠ takeTarget s.tables.axes[a] s.tables.sections[m].guardPos) :
    sendRequest .entry k (arrived n k o s) = appendCue s.tables.sections[n].entryCue .sectionCue
      (setTrain k
        (brakesOver s.tables.sections[n].brakeDelay (grantedSetting m (entered s.tables.trains[k] n s.trains[k])))
        (setAxis a { (seekOrder s.tables.axes[a] s.tables.sections[m].guardPos s.axes[a]).1 with follow := false }
          (setSec m (reservedFor k .setting n s.secs[m])
            (setSec n { s.secs[n] with occ := true, state := .held k (some o) } s)))) := by
  have hsec : (arrived n k o s).secs[m] = s.secs[m] := arrived_sec hm
  have need : pointNeeds (arrived n k o s).tables.sections n m = [] := by
    rw [arrived_tables]
    exact hneed
  have guard : (arrived n k o s).tables.sections[m].guardAxis = some a := by
    rw [arrived_tables]
    exact hg
  have free : (arrived n k o s).secs[m].state = .free := by
    rw [hsec]
    exact hf
  have guarded : guardMet (arrived n k o s) k m = true :=
    guardMet_own free guard (by rw [arrived_tables]; exact hother) (by rw [arrived_tables]; exact ha)
      (by rw [arrived_axes]; exact hk) (by rw [arrived_axes]; exact hho) (by rw [arrived_axes]; exact hfa)
  have met : canMeet (arrived n k o s) k n m = true := by
    rw [canMeet, need, free, guarded, arrived_tables, hu]
    rfl
  rw [sendRequest_seeking arrived_head hnext met need guard (by rw [arrived_axes]; exact hk)
    (by rw [arrived_axes]; exact hho) (by rw [arrived_axes]; exact hfa)
    (by rw [arrived_axes, arrived_tables]; exact hp), hsec, arrived_train, arrived_axes, arrived_tables,
    holdBack_arrived (x := grantedSetting m (entered s.tables.trains[k] n s.trains[k])) rfl,
    setTrain_setAxis_setSec_arrived]

end

end

end

/-- An axis in another state than FAULT. -/
theorem axisFaulted_of_ne {x : Axis} (h : ∀ why, x.state ≠ .fault why) : axisFaulted x = false := by
  unfold axisFaulted
  split
  · next why e => exact absurd e (h why)
  all_goals rfl

/-- Settles O30: each arrival by the state of its section. A taken entry is `arrived`, the release of the tail passes the entry
cue, and each answer is the one equation of `sendRequest` for it on that state. -/
theorem arrivalsActBySectionState : Obligations.ArrivalsActBySectionState := by
  intro n s occupied same
  refine ⟨fun v => detectorEvent_arrival, arrival_unused, fun hu => ⟨fun hf => ?_, fun h => ?_, fun k o hs hr hq => ?_,
    fun k o head tail hs hh hn => ?_⟩⟩
  · rw [arrival_inUse hu, hf, arrivedBy, setSec_setOcc]
    rfl
  · rw [arrival_inUse hu]
    rcases h with h | ⟨k, o, h⟩ <;> rw [h] <;> rfl
  · have overrun : arrivedBy n (.reserved k .setting o) (setOcc n true s) = halt .overrun k (setOcc n true s) := rfl
    rw [arrival_inUse hu, hs, overrun, halt_of_unqueued (s := setOcc n true s) (haltReaches_overrun hr) hq, halted,
      haltReason_overrun]
    rfl
  · intro x y held cued
    have occupied_head : s.secs[head].occ = true → tail.length ≤ 1 → arrival n s = entryRequest k (arrived n k o s) := by
      intro ho hl
      rw [arrival_enters hu hs hh hn (by rw [if_pos ho]; omega), if_pos ho]
    refine ⟨fun hl hq hx => ?_, fun hl ho hx => ?_, fun hl ho hx hw => ?_, fun m i hl ho hx hi hr hm => ?_⟩
    · have many : 4 ≤ heldAfter (setOcc n true s) s.trains[k] := by
        rw [heldAfter_cons hh, setOcc_get_ne hn]
        rcases hl with hl | ⟨hl, ho⟩
        · split <;> omega
        · rw [if_pos ho]
          omega
      have refused : entry k n o (setOcc n true s) = halt .length k (setOcc n true s) := if_pos many
      rw [arrival_reserved_set hu hs, refused, halt_of_unqueued (s := setOcc n true s) (haltReaches_length hx) hq, halted,
        haltReason_length]
      rfl
    · rw [occupied_head ho hl, entryRequest_standing (by rw [arrived_train]; exact hx)]
      rfl
    · have clear : ¬ s.secs[head].occ = true := Bool.eq_false_iff.1 ho
      rw [arrival_enters hu hs hh hn (by rw [if_neg clear]; omega), if_neg clear, releaseHeld_arrived hn hw,
        entryRequest_standing]
      · rfl
      · rw [(appendCue_rails _ _ _).trains, (appendCue_rails _ _ _).trains, setTrain_trains, get_set_same]
        exact hx
    · intro delay back queue reserved plainStep
      have sends : arrival n s = sendRequest .entry k (arrived n k o s) := by
        rw [occupied_head ho hl, entryRequest_running (by rw [arrived_train]; exact hx)]
      have hnext : nextSection (arrived n k o s) k = some m := nextSection_arrived hi hr
      rw [sends]
      exact ⟨sendRequest_arrived_queued hnext hm, sendRequest_arrived_full hnext hm,
        fun hf hin hneed hg => sendRequest_arrived_set hnext hm hf hin (pointNeeds_none hneed.1 hneed.2) hg,
        fun a hf hin hneed hg hother ha hk hho hfa => sendRequest_arrived_seeking hnext hm hf hin
          (pointNeeds_none hneed.1 hneed.2) hg hother ha hk hho (axisFaulted_of_ne hfa)⟩

end Sys2Proof.Machine
end

section
/-! A node at rest stays at rest: while no train is RUNNING, APPROACH or WAITING no queue has a waiter, so the Reservation,
Train and Axis Units grant nothing, start no train and set no axis moving (R77, R95, R101, R171). -/

namespace Sys2Proof.Machine

/-! ## Trains, axes and a track at rest -/

/-- A train as dormant entry leaves it (R101): its target is 0, and while the node is DORMANT (`d`) its speed too (R171). -/
structure CalmTrain (d : Bool) (x : Train) : Prop where
  rests : restsAtDormant x = false
  target : x.target = 0
  speed : d = true → x.speed = 0

/-- While the node is DORMANT an axis is not HOMING, SEEKING, RUNNING or STOPPING (R171). -/
def CalmAxis (d : Bool) (x : Axis) : Prop := d = true → axisMoves x = false

/-- Every train and every axis at rest, and no train in a wait queue; `d` says that the node is DORMANT. -/
def Calm (d : Bool) (s : State) : Prop :=
  (∀ n : SectionId, s.secs[n].queue = []) ∧ (∀ t : TrainId, CalmTrain d s.trains[t]) ∧
    ∀ a : AxisId, CalmAxis d s.axes[a]

/-- What holds of every item of a vector and of the item set holds of every item after it. -/
theorem forall_set {α : Type} {n : Nat} {P : α → Prop} {v : Vector α n} (h : ∀ i : Fin n, P v[i]) {i : Fin n} {x : α}
    (hx : P x) (j : Fin n) : P (v.set i x)[j] := by
  by_cases e : j = i
  · subst e
    rwa [get_set_same]
  · rw [get_set_ne _ _ e]
    exact h j

section
variable {d : Bool} {x : Train}

theorem restsAtDormant_eq_false_iff :
    restsAtDormant x = false ↔ x.state ≠ .running ∧ x.state ≠ .approach ∧ x.state ≠ .waiting := by
  cases h : x.state <;> simp [restsAtDormant, h]

theorem CalmTrain.not_running (h : CalmTrain d x) : x.state ≠ .running := (restsAtDormant_eq_false_iff.1 h.rests).1

theorem CalmTrain.not_approach (h : CalmTrain d x) : x.state ≠ .approach := (restsAtDormant_eq_false_iff.1 h.rests).2.1

theorem CalmTrain.not_waiting (h : CalmTrain d x) : x.state ≠ .waiting := (restsAtDormant_eq_false_iff.1 h.rests).2.2

/-- A halted train is at rest, but for its speed (R98). -/
theorem CalmTrain.halted (h : CalmTrain d x) (reason : HaltReason) : CalmTrain d (halted reason x) where
  rests := rfl
  target := rfl
  speed hd := by
    show (if stopsAtOnce reason then 0 else x.speed) = 0
    rw [h.speed hd, ite_self]

/-- The ramp keeps speed 0 at target 0 (R87). -/
theorem CalmTrain.ramp (h : CalmTrain d x) (r : TrainRec) : CalmTrain d (ramp r x) where
  rests := h.rests
  target := h.target
  speed hd := by
    show rampSpeed r x = 0
    simp [rampSpeed, h.speed hd, h.target]

/-- A train that agrees and is at rest has target 0 and stands in no queue (R86, R87). -/
theorem Fit.of_rests {r : TrainRec} (h : Fit r x) (hx : restsAtDormant x = false) : x.target = 0 ∧ x.queued = none := by
  obtain ⟨hr, ha, hw⟩ := restsAtDormant_eq_false_iff.1 hx
  exact ⟨h.target hr ha, h.unqueued hw ha⟩

end

/-! ## The motion of an axis at rest -/

section
variable {d : Bool} {r : AxisRec} {x : Axis}

theorem axisMoves_eq_false_iff :
    axisMoves x = false ↔ x.state ≠ .homing ∧ x.state ≠ .seeking ∧ x.state ≠ .running ∧ x.state ≠ .stopping := by
  cases h : x.state <;> simp [axisMoves, h]

/-- An axis that comes to rest is HOLDING or IDLE (R115). -/
theorem axisMoves_toHolding (r : AxisRec) (b : Bool) (x : Axis) : axisMoves (toHolding r b x) = false := by
  unfold axisMoves toHolding
  dsimp only
  split
  · next h => split at h <;> cases h
  · next h => split at h <;> cases h
  · next h => split at h <;> cases h
  · next h => split at h <;> cases h
  all_goals rfl

/-- An axis whose motion is ordered to stop does not begin one (R114). -/
theorem CalmAxis.stop (h : CalmAxis d x) : CalmAxis d (stopOrder r x).1 := by
  intro hd
  obtain ⟨hh, hs, hr, -⟩ := axisMoves_eq_false_iff.1 (h hd)
  unfold stopOrder
  split
  · next e => exact absurd e hh
  · next e => exact absurd e hs
  · next e => exact absurd e hr
  · exact axisMoves_toHolding ..
  all_goals exact h hd

theorem followStep_state (r : AxisRec) (n : Nat) (x : Axis) : (followStep r n x).state = x.state := by
  unfold followStep
  split <;> rfl

/-- A hold timer that ends leaves its axis at rest (R115). -/
theorem axisMoves_holdEnds (h : axisMoves x = false) : axisMoves (holdEnds x) = false := by
  unfold holdEnds
  split
  · split
    · rfl
    · exact h
  · exact h

/-- A HOLDING axis stays at rest at a step (R115). -/
theorem axisMoves_holdStep (h : axisMoves x = false) : axisMoves (holdStep x) = false := by
  unfold holdStep
  split
  · exact h
  · split
    · exact axisMoves_holdEnds h
    · exact h

/-- A scene step sets no axis moving (R109, R111, R113 to R117). -/
theorem CalmAxis.step (h : CalmAxis d x) (n : Nat) : CalmAxis d (axisStep r n x).1 := by
  intro hd
  obtain ⟨-, hs, hr, hst⟩ := axisMoves_eq_false_iff.1 (h hd)
  unfold axisStep
  split
  · next e => exact absurd e hs
  · next e => exact absurd e hr
  · next e => exact absurd e hst
  · next e => simp only [axisMoves, followStep_state, e]
  · exact axisMoves_holdStep (h hd)
  all_goals exact h hd

/-- A frame period sets no axis moving (R107). -/
theorem CalmAxis.frame (h : CalmAxis d x) : CalmAxis d (axisFrame r x).1 := by
  intro hd
  obtain ⟨hh, hs, hr, hst⟩ := axisMoves_eq_false_iff.1 (h hd)
  unfold axisFrame
  split
  · split
    · split
      · exact h hd
      · unfold reached
        split
        · next e => exact absurd e hs
        · next e => exact absurd e hst
        · next e => exact absurd e hr
        · split <;> exact h hd
        · next e => exact absurd e hh
        all_goals exact h hd
    · exact h hd
  · exact h hd

/-- A wake takes an axis into FOLLOWING at most (R122). -/
theorem CalmAxis.wake (h : CalmAxis d x) : CalmAxis d (wakeAxis x) := by
  unfold wakeAxis
  split
  · split
    · exact fun _ => rfl
    · exact fun _ => rfl
    · exact h
  · exact h

/-- A write takes an axis to IDLE, or leaves its state (R104). -/
theorem CalmAxis.committed (h : CalmAxis d x) (old new : AxisRec) : CalmAxis d (axisCommitted old new x) := by
  unfold axisCommitted
  split
  · exact fun _ => rfl
  · split <;> exact h

end

namespace Calm

variable {d : Bool} {s : State}

/-! ## Updates -/

theorem putSec (h : Calm d s) {n : SectionId} {x : Section} (hx : x.queue = []) : Calm d (setSec n x s) :=
  ⟨forall_set (P := fun y : Section => y.queue = []) h.1 hx, h.2⟩

/-- A section that takes another state has no waiter either. -/
theorem restate (h : Calm d s) {n : SectionId} {st : SecState} : Calm d (setSec n { s.secs[n] with state := st } s) :=
  h.putSec (h.1 n)

theorem putTrain (h : Calm d s) {t : TrainId} {x : Train} (hx : CalmTrain d x) : Calm d (setTrain t x s) :=
  ⟨h.1, forall_set h.2.1 hx, h.2.2⟩

theorem setAxis (h : Calm d s) {a : AxisId} {x : Axis} (hx : CalmAxis d x) : Calm d (setAxis a x s) :=
  ⟨h.1, h.2.1, forall_set h.2.2 hx⟩

theorem eachTrain (h : Calm d s) {f : TrainId → Train} (hf : ∀ t, CalmTrain d (f t)) : Calm d { s with trains := tab f } :=
  ⟨h.1, fun t => by rw [tab_get]; exact hf t, h.2.2⟩

theorem eachAxis (h : Calm d s) {f : AxisId → Axis} (hf : ∀ a, CalmAxis d (f a)) : Calm d { s with axes := tab f } :=
  ⟨h.1, h.2.1, fun a => by rw [tab_get]; exact hf a⟩

theorem append (h : Calm d s) {c : Nat} {src : Source} : Calm d (appendCue c src s) := by
  obtain ⟨q, n, e⟩ := appendCue_eq c src s
  rw [e]
  exact h

theorem draw (h : Calm d s) : Calm d (draw s).2 := by
  obtain ⟨cs, n, e⟩ := draw_snd s
  rw [e]
  exact h

theorem arrange (h : Calm d s) {α : Type} {xs : List α} : Calm d (arrange xs s).2 := by
  obtain ⟨cs, n, e⟩ := arrange_snd xs s
  rw [e]
  exact h

/-! ## Halts, tellings and checks (R73, R96, R98) -/

/-- No train waits, so a re-evaluation grants nothing (R77). -/
theorem reevaluate (h : Calm d s) {o : Option SectionId} : Calm d (reevaluate o s) := by
  rw [reevaluate_of_no_queues h.1]
  exact h

theorem dequeue (h : Calm d s) {t : TrainId} : Calm d (dequeue t s) := by
  unfold Machine.dequeue
  split
  · exact h
  · next n _ =>
    have left : Calm d (leaveQueue t n s) := h.putSec (by rw [h.1 n, List.filter_nil])
    exact left.putTrain ⟨(h.2.1 t).rests, (h.2.1 t).target, (h.2.1 t).speed⟩

theorem halt (h : Calm d s) {reason : HaltReason} {t : TrainId} : Calm d (halt reason t s) := by
  unfold Machine.halt
  split
  · exact h.dequeue.putTrain ((h.dequeue.2.1 t).halted reason)
  · exact h

theorem haltAll (h : Calm d s) {reason : HaltReason} : Calm d (haltAll reason s) :=
  foldl_keeps _ _ (fun _ _ _ hu => hu.halt) _ h.arrange

/-- A telling of SET starts no train at rest (R96). -/
theorem tellSet (h : Calm d s) {t : TrainId} : Calm d (tellSet t s) := by
  have ht := h.2.1 t
  unfold Machine.tellSet
  dsimp only
  split
  · exact h
  · split
    · next e => exact absurd e ht.not_waiting
    · next e => exact absurd e ht.not_approach
    · exact h.putTrain ⟨ht.rests, ht.target, ht.speed⟩
    · exact h.putTrain ⟨ht.rests, ht.target, ht.speed⟩
    all_goals exact h

theorem tellSetting (h : Calm d s) {t : TrainId} : Calm d (tellSetting t s) := by
  have ht := h.2.1 t
  unfold Machine.tellSetting
  dsimp only
  split
  · exact h
  · next n _ _ =>
    have told : Calm d (setTrain t { s.trains[t] with res := some (n, .setting), arrival := none } s) :=
      h.putTrain ⟨ht.rests, ht.target, ht.speed⟩
    split
    · exact told.halt
    · exact told.halt
    all_goals exact told

theorem checkSetting (h : Calm d s) {n : SectionId} : Calm d (checkSetting n s) := by
  unfold Machine.checkSetting
  split
  · split
    · exact h.restate.tellSet
    · exact h
  all_goals exact h

theorem pointIdle (h : Calm d s) {p : PointId} : Calm d (pointIdle p s) := by
  refine foldl_keeps _ _ (fun u n _ hu => ?_) _ h
  split
  · split
    · exact hu.checkSetting
    · exact hu
  · exact hu

theorem axisStandTold (h : Calm d s) {a : AxisId} : Calm d (axisStandTold a s) := by
  refine foldl_keeps _ _ (fun u n _ hu => ?_) _ h
  split
  · exact hu.checkSetting
  · exact hu

theorem axisFaultTold (h : Calm d s) {a : AxisId} : Calm d (axisFaultTold a s) := by
  refine foldl_keeps _ _ (fun u n _ hu => ?_) _ h
  split
  · split
    · exact hu.restate.tellSetting
    · exact hu
  · exact hu

/-! ## Throws (R66, R67) -/

theorem throwRequest (h : Calm d s) {q : PointNeed} : Calm d (throwRequest q s) := by
  unfold Machine.throwRequest
  dsimp only
  split
  · exact h
  · split <;> exact h

theorem throwEnds (h : Calm d s) {p : PointId} : Calm d (throwEnds p s) := by
  unfold Machine.throwEnds
  split
  · exact h
  · next m _ =>
    have put : Calm d (setPt p (throwDone s.tables.points[p] m s.pts[p]) s) := h
    split
    · dsimp only
      split
      · exact put.pointIdle
      · exact put
    · exact h

theorem coilEnds (h : Calm d s) {p : PointId} : Calm d (coilEnds p s) := by
  unfold Machine.coilEnds
  split
  · exact h
  · split <;> exact h

theorem stepPoint (h : Calm d s) {p : PointId} : Calm d (stepPoint p s) := by
  unfold Machine.stepPoint
  dsimp only
  split
  · exact h
  · split
    · exact Calm.throwEnds (s := setPt p _ s) h
    · exact h

theorem stepPoints (h : Calm d s) : Calm d (stepPoints s) := foldl_keeps _ _ (fun _ _ _ hu => hu.stepPoint) _ h

/-! ## Releases and cancels (R75, R76, R80) -/

theorem releaseHeld (h : Calm d s) {t : TrainId} {n : SectionId} : Calm d (releaseHeld t n s) := by
  have ht := h.2.1 t
  have released : Calm d (releasedHeld t n s) := by
    refine append (putTrain h.restate ?_)
    exact ⟨ht.rests, ht.target, ht.speed⟩
  exact released.reevaluate

theorem cancel (h : Calm d s) {t : TrainId} : Calm d (cancel t s) := by
  have hd := h.dequeue (t := t)
  have ht := hd.2.1 t
  have cancelled : Calm d (setTrain t (unreserve (Machine.dequeue t s).trains[t]) (Machine.dequeue t s)) :=
    hd.putTrain ⟨ht.rests, ht.target, ht.speed⟩
  unfold Machine.cancel
  dsimp only
  split
  · exact cancelled
  · next n _ => exact (cancelled.putSec (x := vacated _) (cancelled.1 n)).reevaluate

theorem releaseOne (h : Calm d s) {n : SectionId} : Calm d (releaseOne n s) :=
  (h.putSec (x := vacated s.secs[n]) (h.1 n)).append.reevaluate

theorem releaseAll (h : Calm d s) {t : TrainId} : Calm d (releaseAll t s) := by
  have released := foldl_keeps (P := Calm d) (fun u n => Machine.releaseOne n u)
    (Machine.cancel t s).trains[t].hold.reverse (fun _ _ _ hu => hu.releaseOne) _ (h.cancel (t := t))
  have ht := released.2.1 t
  exact released.putTrain ⟨ht.rests, ht.target, ht.speed⟩

theorem hold (h : Calm d s) {t : TrainId} {n : SectionId} : Calm d (hold t n s).2 := by
  unfold Machine.hold
  split
  · split
    · exact h.restate
    · exact h.restate
    all_goals exact h
  · exact h

/-! ## Train actions that a resting node takes (R90, R91, R93, R94) -/

theorem trainPlace (h : Calm d s) {t : TrainId} {i : Nat} : Calm d (trainPlace t i s).2 := by
  unfold Machine.trainPlace
  dsimp only
  split
  · split
    · exact h.hold.putTrain ⟨rfl, rfl, fun _ => rfl⟩
    · exact h
  · exact h

theorem stopCancelled (h : Calm d s) {t : TrainId} : Calm d (stopCancelled t s) :=
  h.cancel.putTrain ⟨rfl, rfl, (h.cancel.2.1 t).speed⟩

theorem trainStop (h : Calm d s) {t : TrainId} : Calm d (trainStop t s).2 := by
  have ht := h.2.1 t
  unfold Machine.trainStop
  dsimp only
  split
  · exact h
  · exact h
  · exact h
  · next e => exact absurd e ht.not_waiting
  · next e => exact absurd e ht.not_running
  · next e => exact absurd e ht.not_approach
  · split
    · exact h.stopCancelled
    · exact h

theorem trainClear (h : Calm d s) {t : TrainId} : Calm d (trainClear t s).2 := by
  have parks : Calm d (setTrain t (cleared (Machine.releaseAll t s).trains[t]) (Machine.releaseAll t s)) :=
    h.releaseAll.putTrain ⟨rfl, rfl, (h.releaseAll.2.1 t).speed⟩
  have clears : ∀ b : Bool, Calm d (if b then (none, setTrain t (cleared (Machine.releaseAll t s).trains[t])
      (Machine.releaseAll t s)) else (some Reason.state, s) : Option Reason × State).2 := by
    intro b
    split
    · exact parks
    · exact h
  exact clears _

theorem trainCruise (h : Calm d s) {t : TrainId} {v : Nat} : Calm d (trainCruise t v s) := by
  have ht := h.2.1 t
  refine h.putTrain ?_
  unfold takeCruise
  dsimp only
  split
  · next e => exact absurd e ht.not_running
  · next e _ => exact absurd e ht.not_approach
  · exact ⟨ht.rests, ht.target, ht.speed⟩

/-! ## Trains on a scene step (R87 to R89) -/

theorem rampTrain (h : Calm d s) {t : TrainId} : Calm d (rampTrain t s) := h.putTrain ((h.2.1 t).ramp _)

/-- The brake delay is one of APPROACH. -/
theorem brakeDelayEnds_of_calm {x : Train} (h : CalmTrain d x) : brakeDelayEnds x = x := by
  unfold brakeDelayEnds
  split
  · next e _ => exact absurd e h.not_approach
  · rfl

theorem brakeDelayStep_of_calm {x : Train} (h : CalmTrain d x) : brakeDelayStep x = x := by
  unfold brakeDelayStep
  split
  · next e _ => exact absurd e h.not_approach
  · rfl

theorem setArrival (h : Calm d s) {t : TrainId} {c : Option Nat} :
    Calm d (setTrain t { s.trains[t] with arrival := c } s) :=
  h.putTrain ⟨(h.2.1 t).rests, (h.2.1 t).target, (h.2.1 t).speed⟩

theorem arrivalTimesOut (h : Calm d s) {t : TrainId} : Calm d (arrivalTimesOut t s) := by
  unfold Machine.arrivalTimesOut
  split
  · exact h.setArrival.halt
  · exact h

theorem arrivalStep (h : Calm d s) {t : TrainId} : Calm d (arrivalStep t s) := by
  unfold Machine.arrivalStep
  split
  · exact h.arrivalTimesOut
  · split
    · exact h.setArrival
    · exact h

theorem standStill (h : Calm d s) {t : TrainId} : Calm d (standStill t s) := by
  unfold Machine.standStill
  dsimp only
  split
  · next e => exact absurd e (h.2.1 t).not_approach
  · split
    · exact h.stopCancelled
    · exact h
  all_goals exact h

/-- Only a WAITING or an APPROACH train retries (R89 item 4). -/
theorem retryStep_of_calm {t : TrainId} (h : CalmTrain d s.trains[t]) : retryStep t s = s := by
  have hw := h.not_waiting
  have ha := h.not_approach
  unfold retryStep
  cases e : s.trains[t].state <;> simp_all

theorem trainWork (h : Calm d s) {t : TrainId} : Calm d (trainWork t s) := by
  have work : Calm d (retryStep t (Machine.standStill t (Machine.arrivalStep t
      (setTrain t (brakeDelayStep s.trains[t]) s)))) := by
    have braked : Calm d (setTrain t (brakeDelayStep s.trains[t]) s) := by
      rw [brakeDelayStep_of_calm (h.2.1 t)]
      exact h.putTrain (h.2.1 t)
    have stood := (braked.arrivalStep (t := t)).standStill (t := t)
    rw [retryStep_of_calm (stood.2.1 t)]
    exact stood
  unfold Machine.trainWork
  split
  · exact h
  all_goals exact work

theorem stepTrains (h : Calm d s) : Calm d (stepTrains s) := by
  have first : ∀ u, Calm d u → Calm d (rampsFirst u) := fun u hu =>
    foldl_keeps _ _ (fun _ _ _ hv => hv.trainWork) _ (foldl_keeps _ _ (fun _ _ _ hv => hv.rampTrain) _ hu)
  have single : ∀ u, Calm d u → Calm d (trainByTrain u) := fun u hu =>
    foldl_keeps _ _ (fun _ _ _ hv => hv.rampTrain.trainWork) _ hu
  unfold Machine.stepTrains
  split
  · exact first _ h
  · dsimp only
    split
    · exact first _ h.draw
    · exact single _ h.draw

/-! ## Detector events, cab faults, dormant entry (R78 to R80, R97, R100, R101) -/

theorem setOcc (h : Calm d s) {n : SectionId} {v : Bool} : Calm d (setOcc n v s) := h.putSec (h.1 n)

/-- A train at rest enters a section without a request for the next (R79, R97). -/
theorem takeEntry (h : Calm d s) {t : TrainId} {n kept : SectionId} : Calm d (takeEntry t n kept s) := by
  have taken : Calm d (entryTaken t n kept s) := by
    have held := (h.restate (n := n) (st := .held t (some kept))).append (c := s.tables.sections[n].entryCue)
      (src := .sectionCue)
    have ht := held.2.1 t
    exact held.putTrain ⟨ht.rests, ht.target, ht.speed⟩
  have request : ∀ u, Calm d u → Calm d (entryRequest t u) := fun u hu => by
    unfold entryRequest
    split
    · next e => exact absurd e (hu.2.1 t).not_running
    all_goals exact hu
  refine request _ ?_
  split
  · split
    · exact taken
    · exact taken.releaseHeld
  · exact taken

theorem entry (h : Calm d s) {t : TrainId} {n kept : SectionId} : Calm d (entry t n kept s) := by
  unfold Machine.entry
  split
  · exact h.halt
  · exact h.takeEntry

theorem arrival (h : Calm d s) {n : SectionId} : Calm d (arrival n s) := by
  have hu := h.setOcc (n := n) (v := true)
  unfold Machine.arrival
  dsimp only
  generalize Machine.setOcc n true s = u at hu
  split
  · split
    · exact hu.entry
    · exact hu.halt
    · exact hu.restate
    all_goals exact hu
  · exact hu

theorem clearing (h : Calm d s) {n : SectionId} : Calm d (clearing n s) := by
  have hu := h.setOcc (n := n) (v := false)
  unfold Machine.clearing
  dsimp only
  generalize Machine.setOcc n false s = u at hu
  split
  · split
    · split
      · exact hu
      · exact hu.releaseHeld
    · exact hu.restate.reevaluate
    all_goals exact hu
  · exact hu

theorem detectorEvent (h : Calm d s) {v : SectionId → Bool} : Calm d (detectorEvent v s) :=
  foldl_keeps _ _ (fun _ _ _ hu => hu.arrival) _ (foldl_keeps _ _ (fun _ _ _ hu => hu.clearing) _ h)

theorem cabFaultEvent (h : Calm d s) {v : TrainId → Bool} : Calm d (cabFaultEvent v s) := by
  have told : Calm d { s with trains := tab (fun t => { s.trains[t] with overload := v t }) } :=
    h.eachTrain fun t => ⟨(h.2.1 t).rests, (h.2.1 t).target, (h.2.1 t).speed⟩
  exact foldl_keeps _ _ (fun _ _ _ hu => hu.halt) _ told.arrange

theorem restTrains (h : Calm d s) : Calm d (restTrains s) := by
  refine foldl_keeps _ _ (fun u t _ hu => ?_) _ h.arrange
  unfold restTrain
  split
  · exact hu.trainStop
  · exact hu

/-! ## Axes (R107, R114 to R118, R120 to R122) -/

theorem putAxis (h : Calm d s) {a : AxisId} {y : Axis × Bool} (hy : CalmAxis d y.1) : Calm d (putAxis a y s) := by
  unfold Machine.putAxis
  dsimp only
  split
  · exact (h.setAxis hy).axisStandTold
  · exact h.setAxis hy

theorem haltOwners (h : Calm d s) {a : AxisId} : Calm d (haltOwners a s) :=
  foldl_keeps _ _ (fun _ _ _ hu => hu.halt) _ h.arrange

theorem faultAxis (h : Calm d s) {r : AxisFault} {a : AxisId} : Calm d (faultAxis r a s) := by
  have faulted : Calm d (latch .axisFault (.axis a r) (Machine.setAxis a (faultedAxis r s.axes[a]) s)) :=
    h.setAxis fun _ => rfl
  unfold Machine.faultAxis
  dsimp only
  split
  · split
    · exact faulted.draw.axisFaultTold.haltOwners
    · exact faulted.draw.haltOwners.axisFaultTold
  · exact faulted.haltOwners

theorem faultAxes (h : Calm d s) {r : AxisFault} {as : List AxisId} : Calm d (faultAxes r as s) :=
  foldl_keeps _ _ (fun _ _ _ hu => hu.faultAxis) _ h.arrange

/-- AXIS STOP sets no axis moving (R114). -/
theorem stopAction (h : Calm d s) {a : AxisId} : Calm d (axisOrder a .stop s).2 := by
  unfold axisOrder
  split
  · exact h
  · exact h.putAxis (h.2.2 a).stop

theorem stepAxes (h : Calm d s) : Calm d (stepAxes s) := by
  refine foldl_keeps _ _ (fun u a _ hu => ?_) _ h
  unfold stepAxis
  split
  · exact hu.putAxis ((hu.2.2 a).step _)
  · exact hu

theorem frameOf_calm (h : Calm d s) (a : AxisId) : CalmAxis d (frameOf s a).1 := by
  unfold frameOf
  split
  · dsimp only
    unfold quiet
    split <;> exact (h.2.2 a).frame
  · exact h.2.2 a

theorem periodEvent (h : Calm d s) {e : AxisId × PeriodEvent} : Calm d (periodEvent e s) := by
  unfold Machine.periodEvent
  split
  · exact h
  · exact h.axisStandTold
  · exact h.faultAxis

theorem axisPeriod (h : Calm d s) : Calm d (axisPeriod s) :=
  foldl_keeps _ _ (fun _ _ _ hu => hu.periodEvent) _ (Calm.arrange (s := { s with axisDue := false, axes := _ })
    (h.eachAxis h.frameOf_calm))

theorem turnPulses (h : Calm d s) : Calm d (turnPulses s) := h.eachAxis fun a => h.2.2 a

theorem homeLimitPasses (h : Calm d s) {a : AxisId} : Calm d (homeLimitPasses a s) := by
  unfold Machine.homeLimitPasses
  split
  · exact h.faultAxis
  · exact h

/-- An axis that finds home comes to rest (R116). -/
theorem findHome (h : Calm d s) {a : AxisId} : Calm d (findHome a s) :=
  (h.putAxis fun _ => axisMoves_toHolding s.tables.axes[a] true s.axes[a]).reevaluate

theorem homeEvent (h : Calm d s) {v : AxisId → Bool} : Calm d (homeEvent v s) := by
  refine foldl_keeps _ _ (fun _ _ _ hu => hu.findHome) _ (Calm.arrange (s := { s with axes := _ })
    (h.eachAxis fun a => ?_))
  dsimp only
  split <;> exact h.2.2 a

theorem axisInputEvent (h : Calm d s) {v w : AxisId → Bool} : Calm d (axisInputEvent v w s) := by
  have told : Calm d { s with axes := tab (fun a => { s.axes[a] with faultIn := w a }) } := h.eachAxis fun a => h.2.2 a
  exact told.faultAxes.homeEvent

theorem stopAxis (h : Calm d s) {a : AxisId} : Calm d (stopAxis a s) := h.putAxis (h.2.2 a).stop

theorem linkLostAxes (h : Calm d s) : Calm d (linkLostAxes s) := by
  refine foldl_keeps _ _ (fun u a _ hu => ?_) _ h
  split
  · exact hu.stopAxis
  · exact hu

theorem allStopAxes (h : Calm d s) : Calm d (allStopAxes s) := by
  refine foldl_keeps _ _ (fun u a _ hu => ?_) _ h
  unfold allStopAxis
  split
  · split
    iterate 3 exact hu.stopAxis
    · exact hu.putAxis (hu.2.2 a).stop
    all_goals exact hu
  · exact hu

/-- Dormant entry seeks the park position with a RUNNING axis alone (R122). -/
theorem restAxis (h : Calm d s) {k : Bool} {a : AxisId} : Calm d (restAxis k a s) := by
  unfold Machine.restAxis
  dsimp only
  split
  · split
    · next e =>
      split
      · exact h.putAxis fun hd => absurd e (axisMoves_eq_false_iff.1 (h.2.2 a hd)).2.2.1
      · exact h.stopAxis
    · split
      · exact h.putAxis fun _ => axisMoves_toHolding s.tables.axes[a] s.axes[a].arrived s.axes[a]
      · exact h
    all_goals exact h
  · exact h

theorem restAxes (h : Calm d s) {k : Bool} : Calm d (restAxes k s) := foldl_keeps _ _ (fun _ _ _ hu => hu.restAxis) _ h

theorem wakeAxes (h : Calm d s) : Calm d (wakeAxes s) := h.eachAxis fun a => (h.2.2 a).wake

/-! ## Committed writes and the requests of Node Control (R61, R64, R88, R104, R170, R173) -/

theorem sectionsCommitted (h : Calm d s) : Calm d (sectionsCommitted s) :=
  ⟨fun n => by simp only [Machine.sectionsCommitted, tab_get]; exact h.1 n, h.2⟩

theorem trainsCommitted (h : Calm d s) {first count : Nat} : Calm d (trainsCommitted first count s) := by
  refine h.eachTrain fun t => ?_
  have ht := h.2.1 t
  split
  · exact ⟨ht.rests, ht.target, ht.speed⟩
  · exact ht

theorem pointsCommitted (h : Calm d s) {old : Vector PointRec 8} : Calm d (pointsCommitted old s) := by
  have put : ∀ v, Calm d { s with pts := v } := fun _ => h
  exact (put _).reevaluate

theorem axesCommitted (h : Calm d s) {old : Vector AxisRec 6} : Calm d (axesCommitted old s) :=
  h.eachAxis fun a => (h.2.2 a).committed _ _

theorem runReq (h : Calm d s) {r : Req} : Calm d (runReq r s) := by
  cases r with
  | restClock b => cases b <;> exact h
  | restLists => exact h
  | restTrains => exact h.restTrains
  | restAxes k => exact h.restAxes
  | wakeClock => exact h
  | wakeLists => exact h
  | wakeAxes => exact h.wakeAxes
  | stopTrains => exact h.haltAll
  | stopAxes => exact h.allStopAxes
  | faultTrains => exact h.haltAll
  | faultAxes => exact h.faultAxes
  | linkTrains => exact h.haltAll
  | linkAxes => exact h.linkLostAxes

end Calm

end Sys2Proof.Machine
end


section
/-! Dormant entry brings every train to rest (R101): a train that has come to rest stands in no queue, so the stop of another,
with the grants that follow it, leaves it alone. -/

namespace Sys2Proof.Machine

/-- A train as `x`, in no wait queue. -/
def Aloof (u : TrainId) (x : Train) (s : State) : Prop := s.trains[u] = x ∧ ∀ m : SectionId, u ∉ s.secs[m].queue

namespace Aloof

variable {u t : TrainId} {x : Train} {s : State}

theorem putTrain (h : Aloof u x s) (hu : u ≠ t) {y : Train} : Aloof u x (setTrain t y s) :=
  ⟨(get_set_ne _ _ hu).trans h.1, h.2⟩

theorem putSec (h : Aloof u x s) {n : SectionId} {y : Section} (hy : u ∉ y.queue) : Aloof u x (setSec n y s) :=
  ⟨h.1, forall_set (P := fun z : Section => u ∉ z.queue) h.2 hy⟩

theorem rails (h : Aloof u x s) {v : State} (e : SameRails v s) : Aloof u x v :=
  ⟨by rw [e.trains]; exact h.1, by rw [e.secs]; exact h.2⟩

/-- A grant goes to a train in the queue (R77). -/
theorem examineQueue (h : Aloof u x s) {n : SectionId} : Aloof u x (examineQueue n s) := by
  unfold Machine.examineQueue
  split
  · split
    · next t f hw =>
      have hu : u ≠ t := fun e => h.2 n (e ▸ (firstWaiter_spec hw).1)
      have reserved : Aloof u x (setSec n (reservedFor t (grant t f n s).1 f s.secs[n]) s) :=
        h.putSec fun e => h.2 n (List.mem_filter.1 e).1
      exact (reserved.rails (grant_rails t f n s)).putTrain hu
    · exact h
  all_goals exact h

theorem reevaluate (h : Aloof u x s) {o : Option SectionId} : Aloof u x (reevaluate o s) :=
  foldl_keeps _ _ (fun _ _ _ hv => hv.examineQueue) _ h

theorem dequeue (h : Aloof u x s) (hu : u ≠ t) : Aloof u x (dequeue t s) := by
  unfold Machine.dequeue
  split
  · exact h
  · next n _ =>
    have left : Aloof u x (leaveQueue t n s) := h.putSec fun e => h.2 n (List.mem_filter.1 e).1
    exact left.putTrain hu

theorem cancel (h : Aloof u x s) (hu : u ≠ t) : Aloof u x (cancel t s) := by
  have cancelled : Aloof u x (setTrain t (unreserve (Machine.dequeue t s).trains[t]) (Machine.dequeue t s)) :=
    (h.dequeue hu).putTrain hu
  unfold Machine.cancel
  dsimp only
  split
  · exact cancelled
  · next n _ => exact (cancelled.putSec (y := vacated _) (cancelled.2 n)).reevaluate

theorem stopCancelled (h : Aloof u x s) (hu : u ≠ t) : Aloof u x (stopCancelled t s) := (h.cancel hu).putTrain hu

theorem trainStop (h : Aloof u x s) (hu : u ≠ t) : Aloof u x (trainStop t s).2 := by
  unfold Machine.trainStop
  dsimp only
  split
  · exact h
  · exact h
  · exact h
  · exact h.stopCancelled hu
  · exact h.putTrain hu
  · exact (h.dequeue hu).putTrain hu
  · split
    · exact h.stopCancelled hu
    · exact h

theorem restTrain (h : Aloof u x s) (hu : u ≠ t) : Aloof u x (restTrain t s) := by
  unfold Machine.restTrain
  split
  · exact h.trainStop hu
  · exact h

end Aloof

/-- The train that is brought to rest is at rest (R101). -/
theorem restTrain_rests (t : TrainId) (s : State) : restsAtDormant (restTrain t s).trains[t] = false := by
  have set_rests : ∀ (y : Train) (u : State), restsAtDormant y = false → restsAtDormant (setTrain t y u).trains[t] = false :=
    fun y u hy => by rwa [setTrain_trains, get_set_same]
  unfold restTrain
  split
  · next hr =>
    unfold trainStop
    dsimp only
    split
    · next e => simp [-Fin.getElem_fin, restsAtDormant, e] at hr
    · next e => simp [-Fin.getElem_fin, restsAtDormant, e] at hr
    · next e => simp [-Fin.getElem_fin, restsAtDormant, e] at hr
    · exact set_rests _ _ rfl
    · exact set_rests _ _ rfl
    · exact set_rests _ _ rfl
    · next e => simp [-Fin.getElem_fin, restsAtDormant, e] at hr
  · next hr => exact Bool.eq_false_of_not_eq_true hr

/-- A train at rest that agrees stands in no queue. -/
theorem Agree.aloof {s : State} {u : TrainId} (h : Agree s) (hu : restsAtDormant s.trains[u] = false) :
    Aloof u s.trains[u] s := by
  obtain ⟨hp, hf⟩ := h.1 u
  exact ⟨rfl, hp.unqueued (hf.of_rests hu).2⟩

/-- Trains brought to rest one after another: those before stay at rest. -/
theorem Agree.restEach {ts : List TrainId} : ∀ {s : State}, Agree s →
    (∀ u : TrainId, u ∉ ts → restsAtDormant s.trains[u] = false) →
    ∀ u : TrainId, restsAtDormant (ts.foldl (fun v t => Machine.restTrain t v) s).trains[u] = false := by
  induction ts with
  | nil => exact fun _ hr u => hr u List.not_mem_nil
  | cons t ts ih =>
    intro s h hr
    refine ih h.restTrain fun u hu => ?_
    by_cases e : u = t
    · subst e
      exact restTrain_rests u s
    · have before : restsAtDormant s.trains[u] = false := hr u fun hm => (List.mem_cons.1 hm).elim e hu
      rw [((h.aloof before).restTrain e).1]
      exact before

/-- After dormant entry every train is at rest (R101). -/
theorem Agree.restTrains_rests {s : State} (h : Agree s) (u : TrainId) :
    restsAtDormant (Machine.restTrains s).trains[u] = false := by
  refine (h.rails (arrange_rails _ s)).restEach (fun u hu => ?_) u
  rw [(arrange_rails _ s).trains]
  rw [mem_arrange, List.mem_filter] at hu
  exact Bool.eq_false_of_not_eq_true fun e => hu ⟨List.mem_finRange u, e⟩

/-- Trains at rest that agree with the sections: no queue has a waiter and no train has a target. -/
theorem Agree.calm {s : State} (h : Agree s) (hr : ∀ t : TrainId, restsAtDormant s.trains[t] = false) : Calm false s :=
  ⟨fun n => List.eq_nil_iff_forall_not_mem.2 fun u hu => (h.aloof (hr u)).2 n hu,
    fun t => ⟨hr t, ((h.1 t).2.of_rests (hr t)).1, fun e => nomatch e⟩, fun _ e => nomatch e⟩

end Sys2Proof.Machine
end


section
/-! What holds of a node at rest is kept inside a command too: until the trains have taken the dormant entry that is still owed to
them, a QUIESCING node may have trains under way (R101, R170, R171). -/

namespace Sys2Proof.Machine

/-- Trains and sections agree; in QUIESCING the track is at rest or the trains are still owed the dormant entry, and in DORMANT
the track is at rest with every speed 0 and no axis in motion. -/
def Rests (s : State) : Prop :=
  Agree s ∧ (s.node = .quiescing → Req.restTrains ∈ s.owed ∨ Calm false s) ∧ (s.node = .dormant → Calm true s)

/-- The updates of the Reservation, Train and Axis Units leave the node state. -/
theorem node_of_others {s t : State} (h : othersOf t = othersOf s) : t.node = s.node :=
  show (othersOf t).node = (othersOf s).node from congrArg State.node h

namespace Rests

variable {s u : State}

/-- Nothing is asked of rest while the node is ACTIVE. -/
theorem of_active (ha : Agree u) (hn : u.node = .active) : Rests u :=
  ⟨ha, fun e => (nomatch hn.symm.trans e), fun e => (nomatch hn.symm.trans e)⟩

/-- An operation of the three units that keeps the agreement and keeps a track at rest. -/
theorem units (h : Rests s) (ha : Agree u) (ho : othersOf u = othersOf s) (hc : ∀ d, Calm d s → Calm d u) : Rests u := by
  obtain ⟨-, hq, hd⟩ := h
  refine ⟨ha, fun e => ?_, fun e => hc _ (hd ((node_of_others ho).symm.trans e))⟩
  rw [owed_of_others ho]
  exact (hq ((node_of_others ho).symm.trans e)).imp_right (hc _)

/-! ## Cues, wakes, the clock and the list players -/

theorem append (h : Rests s) {c : Nat} {src : Source} : Rests (appendCue c src s) := by
  obtain ⟨q, n, e⟩ := appendCue_eq c src s
  rw [e]
  exact h

theorem draw (h : Rests s) : Rests (draw s).2 := by
  obtain ⟨cs, n, e⟩ := draw_snd s
  rw [e]
  exact h

theorem arrange (h : Rests s) {α : Type} {xs : List α} : Rests (arrange xs s).2 := by
  obtain ⟨cs, n, e⟩ := arrange_snd xs s
  rw [e]
  exact h

theorem handOn (h : Rests s) {rs : List Req} : Rests (handOn rs s) := by
  obtain ⟨cs, n, e⟩ := arrange_snd rs s
  unfold Machine.handOn
  dsimp only
  rw [e]
  exact ⟨h.1, fun hn => (h.2.1 hn).imp_left (List.mem_append_left _), h.2.2⟩

theorem handOn_node (rs : List Req) (s : State) : (Machine.handOn rs s).node = s.node := by
  obtain ⟨cs, n, e⟩ := arrange_snd rs s
  unfold Machine.handOn
  dsimp only
  rw [e]

/-- A wake makes the node ACTIVE (R172). -/
theorem wake (h : Rests s) {src : WakeSource} : Rests (wake src s) := by
  have ha : Agree (Machine.wake src s) := h.1.wake
  unfold Machine.wake at ha ⊢
  split
  · exact h
  all_goals
    next e =>
      rw [e] at ha
      exact of_active ha (handOn_node _ _)

theorem fireAlarm (h : Rests s) {i : AlarmId} : Rests (fireAlarm i s) := by
  unfold Machine.fireAlarm
  dsimp only
  split
  · exact h.wake.append
  · exact h.append

theorem applyPending (h : Rests s) : Rests (applyPendingSet s) := by
  unfold applyPendingSet
  split <;> exact h

theorem stepClock (h : Rests s) : Rests (stepClock s) := by
  unfold Machine.stepClock
  split
  · exact h.applyPending
  · split
    · exact foldl_keeps _ _ (fun _ _ _ hu => hu.fireAlarm) (setClock _ s) h
    · exact h

theorem setPlayer (h : Rests s) {p : PlayerId} {x : Player} : Rests (setPlayer p x s) := h

theorem latch (h : Rests s) {k : NoticeKind} {d : Detail} : Rests (latch k d s) := h

theorem listStart (h : Rests s) {p : PlayerId} : Rests (listStart p s).2 := by
  unfold Machine.listStart
  dsimp only
  split <;> exact h

theorem fireEnd (h : Rests s) {p : PlayerId} : Rests (fireEnd p s).2 := by
  unfold Machine.fireEnd
  dsimp only
  split
  · exact h.append.setPlayer
  all_goals exact h.setPlayer.append.latch

theorem fireEntry (h : Rests s) {p : PlayerId} : Rests (fireEntry p s).2.2 := by
  unfold Machine.fireEntry
  dsimp only
  split
  · exact h.fireEnd
  · split
    · exact h.append.setPlayer
    · exact h.append.fireEnd

theorem fireEntries {n m : Nat} {p : PlayerId} (h : Rests s) : Rests (fireEntries n m p s) := by
  induction n generalizing m s with
  | zero => exact h
  | succ n ih =>
    unfold Machine.fireEntries
    dsimp only
    split
    · split
      · exact h.fireEntry.setPlayer
      · exact ih h.fireEntry
    · exact h.fireEntry

theorem countdownEnds (h : Rests s) {p : PlayerId} : Rests (countdownEnds p s) := by
  unfold Machine.countdownEnds
  dsimp only
  split
  · split
    · exact h.setPlayer.fireEntries
    · exact h
  all_goals exact h

theorem stepPlayer (h : Rests s) {p : PlayerId} : Rests (stepPlayer p s) := by
  unfold Machine.stepPlayer
  dsimp only
  split
  · split
    · exact h.countdownEnds
    · exact h.setPlayer
  all_goals exact h

theorem stepLists (h : Rests s) : Rests (stepLists s) := foldl_keeps _ _ (fun _ _ _ hu => hu.stepPlayer) _ h

/-! ## Node Control and its requests (R169 to R173) -/

/-- The three conditions of R171 take a track at rest to one of a DORMANT node. -/
theorem calm_of_atStand (h : Calm false s) (ha : atStand s = true) : Calm true s := by
  simp only [atStand, Bool.and_eq_true, List.all_eq_true, beq_iff_eq, Bool.not_eq_true'] at ha
  obtain ⟨⟨speeds, axes⟩, -⟩ := ha
  exact ⟨h.1, fun t => ⟨(h.2.1 t).rests, (h.2.1 t).target, fun _ => speeds t (List.mem_finRange t)⟩,
    fun a _ => axes a (List.mem_finRange a)⟩

/-- The node becomes DORMANT once no request of the entry is owed, so its trains have been brought to rest. -/
theorem nodeCheck (h : Rests s) : Rests (nodeCheck s) := by
  unfold Machine.nodeCheck
  split
  · next hq =>
    split
    · exact h
    · next ho =>
      split
      · next ha =>
        have taken : Req.restTrains ∉ s.owed := fun hm => ho (List.any_eq_true.2 ⟨_, hm, rfl⟩)
        have calm : Calm true s := calm_of_atStand ((h.2.1 hq).resolve_left taken) ha
        exact ⟨h.1, fun e => (nomatch e), fun _ => calm⟩
      · exact h
  · exact h

theorem dueCheck (h : Rests s) : Rests (dueCheck s) := by
  unfold Machine.dueCheck
  split
  · exact Rests.nodeCheck (s := { s with checkDue := false }) h
  · exact h

theorem afterEvent (h : Rests s) : Rests (afterEvent u s) := by
  unfold Machine.afterEvent
  split
  · exact h.nodeCheck
  · exact h

/-- A request taken leaves the node state and what is owed. -/
theorem runReq_node_owed (r : Req) (s : State) : (Machine.runReq r s).node = s.node ∧ (Machine.runReq r s).owed = s.owed := by
  have others : ∀ {v : State}, othersOf v = othersOf s → v.node = s.node ∧ v.owed = s.owed := fun e =>
    ⟨node_of_others e, owed_of_others e⟩
  cases r with
  | restClock b => cases b <;> exact ⟨rfl, rfl⟩
  | restLists => exact ⟨rfl, rfl⟩
  | restTrains => exact others ((closed_others s).restTrains rfl)
  | restAxes k => exact others ((closed_others s).restAxes rfl)
  | wakeClock => exact ⟨rfl, rfl⟩
  | wakeLists => exact ⟨rfl, rfl⟩
  | wakeAxes => exact others ((closed_others s).wakeAxes rfl)
  | stopTrains => exact others ((closed_others s).haltAll rfl)
  | stopAxes => exact others ((closed_others s).allStopAxes rfl)
  | faultTrains => exact others ((closed_others s).haltAll rfl)
  | faultAxes => exact others ((closed_others s).chainFaultAxes rfl)
  | linkTrains => exact others ((closed_others s).haltAll rfl)
  | linkAxes => exact others ((closed_others s).linkLostAxes rfl)

theorem runReq (h : Rests s) {r : Req} : Rests (runReq r s) := by
  obtain ⟨hn, ho⟩ := runReq_node_owed r s
  refine ⟨h.1.runReq, fun e => ?_, fun e => (h.2.2 (hn.symm.trans e)).runReq⟩
  rw [ho]
  exact (h.2.1 (hn.symm.trans e)).imp_right fun hc => hc.runReq

/-- The front request is taken: if it is the dormant entry of the trains, they are at rest after it. -/
theorem runFront {r : Req} {rest : List Req} (h : Rests { s with owed := r :: rest }) :
    Rests (Machine.runReq r { s with owed := rest }) := by
  by_cases hr : r = .restTrains
  · subst hr
    have ha : Agree { s with owed := rest } := h.1
    have hd : s.node = .dormant → Calm true { s with owed := rest } := h.2.2
    obtain ⟨hn, -⟩ := runReq_node_owed .restTrains { s with owed := rest }
    exact ⟨ha.runReq, fun _ => .inr (ha.restTrains.calm ha.restTrains_rests), fun e => (hd (hn.symm.trans e)).runReq⟩
  · have others : Rests { s with owed := rest } := by
      refine ⟨h.1, fun e => ?_, h.2.2⟩
      exact (h.2.1 e).imp_left fun hm => (List.mem_cons.1 hm).resolve_left (Ne.symm hr)
    exact others.runReq

theorem dueCheck_owed (s : State) : (Machine.dueCheck s).owed = s.owed := by
  unfold Machine.dueCheck
  split
  · exact nodeCheck_owed _
  · rfl

theorem reqEvent_owed (r : Req) (s : State) : (reqEvent r s).owed = s.owed := by
  rw [reqEvent, dueCheck_owed, afterEvent_owed, (runReq_node_owed r s).2]

/-- Writing what is already owed changes nothing. -/
theorem with_owed {l : List Req} (h : u.owed = l) : { u with owed := l } = u := by
  subst h
  rfl

theorem takeReqs {left rs : List Req} : ∀ {s : State}, Rests { s with owed := rs ++ left } → Rests (takeReqs left rs s) := by
  induction rs with
  | nil => exact fun h => h
  | cons r rs ih =>
    intro s h
    have taken : Rests (reqEvent r { s with owed := rs ++ left }) := h.runFront.afterEvent.dueCheck
    refine ih (s := reqEvent r { s with owed := rs ++ left }) ?_
    rwa [with_owed (reqEvent_owed r { s with owed := rs ++ left })]

theorem settle (h : Rests s) : Rests (settle s) := by
  unfold Machine.settle
  split
  · exact h
  · obtain ⟨cs, n, e⟩ := draw_snd s
    refine takeReqs ?_
    rw [List.take_append_drop, e]
    exact h

theorem finish (h : Rests s) : Rests (finish s) := by
  refine takeReqs ?_
  rw [List.append_nil]
  exact h

/-- Dormant entry owes the trains their request (R170). -/
theorem beginDormant (h : Agree s) : Rests (beginDormant s) := by
  unfold Machine.beginDormant Machine.handOn
  dsimp only
  obtain ⟨cs, n, e⟩ := arrange_snd
    [Req.restClock (s.tables.node.policy == .hold), .restLists, .restTrains, .restAxes (s.tables.node.policy == .hold)]
    { s with node := .quiescing, checkDue := false }
  rw [e]
  refine ⟨h, fun _ => .inl (List.mem_append_right _ (mem_arrange.2 (by simp))), fun e => (nomatch e)⟩

theorem dormantRequest (h : Rests s) : Rests (dormantRequest s).2 := by
  unfold Machine.dormantRequest
  split
  · exact h
  · split
    · exact beginDormant h.1
    all_goals exact h

theorem allStop (h : Rests s) : Rests (allStop s) := h.handOn

/-! ## Actions -/

theorem whenInUse (h : Rests s) {b : Bool} {k : Option Reason × State} (hk : b = true → Rests k.2) :
    Rests (whenInUse b s k).2 := by
  unfold Machine.whenInUse
  split
  · next hb => exact hk hb
  · exact h

/-- An action of an ACTIVE node alone: what it does keeps the agreement and stays within the three units. -/
theorem whenAwake (h : Rests s) {k : Option Reason × State} (ha : Agree k.2) (ho : othersOf k.2 = othersOf s) :
    Rests (whenAwake s k).2 := by
  unfold Machine.whenAwake resting
  cases hn : s.node with
  | active => exact of_active ha ((node_of_others ho).trans hn)
  | quiescing => exact h
  | dormant => exact h

theorem pointThrow (h : Rests s) {p : PointId} {q : PointPos} : Rests (pointThrow p q s).2 := by
  unfold Machine.pointThrow
  split
  · exact h
  · exact h.units (h.1.rails (throwRequest_rails _ s)) ((closed_others s).throwRequest rfl) fun _ hc => hc.throwRequest

/-- An order that a resting node refuses (R13, R112). -/
theorem order (h : Rests s) {a : AxisId} {o : AxisOrder} : Rests (Machine.whenAwake s (axisOrder a o s)).2 :=
  h.whenAwake h.1.axisOrder ((closed_others s).axisOrder rfl)

theorem stopAction (h : Rests s) {a : AxisId} : Rests (axisOrder a .stop s).2 :=
  h.units h.1.axisOrder ((closed_others s).axisOrder rfl) fun _ hc => hc.stopAction

theorem startAction (h : Rests s) {p : PlayerId} : Rests (Machine.whenAwake s (Machine.listStart p s)).2 := by
  unfold Machine.whenAwake
  split
  · exact h
  · exact h.listStart

theorem runAction (h : Rests s) {code : Nat} {act : Action} : Rests (runAction code act s).2 := by
  have others := closed_others s
  cases act with
  | lampRelease c =>
    cases c with
    | none => exact h
    | some c => exact h.whenInUse fun _ => h
  | lampSet c l u => exact h.whenInUse fun _ => h
  | listStart p => exact h.startAction
  | trainPlace t i =>
    refine h.whenInUse fun hu => h.units (h.1.trainPlace ?_) (others.trainPlace rfl) fun _ hc => hc.trainPlace
    exact (Bool.and_eq_true_iff.1 hu).1
  | trainRun t => exact h.whenInUse fun _ => h.whenAwake h.1.trainRun (others.trainRun rfl)
  | trainStop t => exact h.whenInUse fun _ => h.units h.1.trainStop (others.trainStop rfl) fun _ hc => hc.trainStop
  | trainClear t => exact h.whenInUse fun _ => h.units h.1.trainClear (others.trainClear rfl) fun _ hc => hc.trainClear
  | trainCruise t v => exact h.whenInUse fun _ => h.units h.1.trainCruise (others.trainCruise rfl) fun _ hc => hc.trainCruise
  | pointThrow p q => exact h.whenInUse fun _ => h.pointThrow
  | axisHome a => exact h.whenInUse fun _ => h.order
  | axisSeek a p => exact h.whenInUse fun _ => h.order
  | axisRun a c =>
    refine h.whenInUse fun _ => ?_
    split
    · exact h.stopAction
    · exact h.order
  | axisPark a => exact h.whenInUse fun _ => h.order
  | axisStop a => exact h.whenInUse fun _ => h.stopAction
  | axisFollow a => exact h.whenInUse fun _ => h.order
  | nodeDormant => exact h.dormantRequest
  | nodeWake => exact h.wake
  | allStop => exact h.allStop
  | cue c => exact h.append
  | none => exact h
  | groupSet g l u => exact h
  | flagSet f => exact h
  | flagClear f => exact h
  | flagPulse f n => exact h
  | listStop p => exact h
  | clockHold => exact h
  | clockResume => exact h
  | clockRate r => exact h
  | clockSet hr mn => exact h

theorem runOne (h : Rests s) {code pos : Nat} {act : Action} : Rests (runOne code pos act s).2 := by
  have hr : Rests (Machine.runAction code act (Machine.settle s)).2 := h.settle.runAction
  unfold Machine.runOne
  dsimp only
  split
  · exact hr.afterEvent
  · exact hr.latch.afterEvent

theorem runList {code pos : Nat} {acts : List Action} (h : Rests s) : Rests (runList code pos acts s).2 := by
  induction acts generalizing pos s with
  | nil => exact h
  | cons a acts ih =>
    rw [runList_cons_snd]
    exact ih h.runOne

theorem takeCue (h : Rests s) : Rests (takeCue s) := by
  unfold Machine.takeCue
  split
  · exact h
  · next c rest _ =>
    split
    · have hu : Rests (takenCue rest s) := h
      show Rests (handleCue c.code (takenCue rest s))
      unfold handleCue
      split
      · exact hu.runList
      · exact hu.runList
      · exact hu.wake.runList
      · exact hu.wake.runList
      · exact hu
    · exact h

/-! ## The Chain Unit -/

theorem stepChain (h : Rests s) : Rests (stepChain s) := by
  unfold Machine.stepChain startCycle
  dsimp only
  split
  · split
    · split <;> exact h
    · exact h
  · exact h

theorem fireWatch (h : Rests s) {w : WatchId} : Rests (fireWatch w s) := by
  unfold Machine.fireWatch
  dsimp only
  split
  · exact h.wake.append
  · exact h.append

theorem evalWatch (h : Rests s) {v : BitVec 64} {w : WatchId} : Rests (evalWatch v w s) := by
  have put : ∀ x, Rests (setWatch w x s) := fun _ => h
  unfold Machine.evalWatch
  dsimp only
  split
  · split
    · exact (put _).fireWatch
    · exact put _
  · exact h

theorem handOff (h : Rests s) {x : HandOff} : Rests (handOff x s) := by
  have others := closed_others s
  cases x with
  | detectors => exact h.units h.1.detectorEvent (others.detectorEvent rfl) fun _ hc => hc.detectorEvent
  | cabs => exact h.units h.1.cabFaultEvent (others.cabFaultEvent rfl) fun _ hc => hc.cabFaultEvent
  | axes => exact h.units h.1.axisInputEvent (others.axisInputEvent rfl) fun _ hc => hc.axisInputEvent
  | watches => exact foldl_keeps _ _ (fun _ _ _ hu => hu.evalWatch) _ h
  | check => exact h.nodeCheck

theorem handOffs (h : Rests s) {xs : List HandOff} : Rests (handOffs xs s) :=
  foldl_keeps _ _ (fun _ _ _ hu => hu.settle.handOff.afterEvent) _ h

theorem setChain (h : Rests s) {c : Chain} : Rests { s with chain := c } := h

theorem chainTurns (h : Rests s) {c : ChainState} : Rests (chainTurns c s) := by
  unfold Machine.chainTurns
  split
  · exact h
  · dsimp only
    split
    · exact h.setChain.latch.handOn
    · exact h

theorem completeCycle (h : Rests s) {ret : Byte} {inputs : BitVec 64} : Rests (completeCycle ret inputs s) := by
  unfold Machine.completeCycle
  split
  · exact h
  · exact h
  · dsimp only
    split
    · exact h.setChain.chainTurns.setChain.arrange.handOffs
    · exact h.setChain.chainTurns.settle.nodeCheck

/-! ## The commit of a write (R156) -/

/-- A committed write keeps a track at rest. -/
theorem calm_storeRecords {d : Bool} {table first : Nat} {recs : List (List Byte)} (h : Calm d s)
    (hs : storeRecords table first recs s = .ok u) : Calm d u := by
  have put : ∀ t : Tables, Calm d { s with tables := t } := fun _ => h
  have lamps : ∀ v : State, Calm d v → Calm d (lampsCommitted v) := fun _ hv => hv
  have watches : ∀ (ws : Vector WatchRec 16) (i n : Nat) (v : State), Calm d v → Calm d (watchesCommitted ws i n v) :=
    fun _ _ _ _ hv => hv
  unfold storeRecords at hs
  dsimp only at hs
  split at hs
  · split at hs
    · obtain rfl := Except.ok.inj hs
      exact h
    · cases hs
  iterate 6
    · obtain ⟨rfl, -⟩ := store_written hs
      exact put _
  · obtain ⟨rfl, -⟩ := store_written hs
    exact lamps _ (put _)
  · split at hs
    · cases hs
    · next hu =>
      split at hs
      · cases hs
      · obtain rfl := Except.ok.inj hs
        obtain ⟨rfl, -⟩ := store_written hu
        exact (put _).sectionsCommitted
  · obtain ⟨rfl, -⟩ := store_written hs
    exact (put _).trainsCommitted
  · obtain ⟨e, -⟩ := store_written hs
    rw [e]
    exact (put _).pointsCommitted
  · obtain ⟨rfl, -⟩ := store_written hs
    exact (put _).axesCommitted
  iterate 2
    · obtain ⟨rfl, -⟩ := store_written hs
      exact put _
  · obtain ⟨rfl, -⟩ := store_written hs
    exact watches _ _ _ _ (put _)
  · obtain rfl := Except.ok.inj hs
    exact h

end Rests

end Sys2Proof.Machine
end


section
/-! The Transfer Unit, the Link Port and the scene step keep what holds of a node at rest, and with them every command (R101,
R170, R171). -/

namespace Sys2Proof.Machine

/-! ## The commit of a write (R156) -/

theorem pointsCommitted_node (old : Vector PointRec 8) (s : State) : (pointsCommitted old s).node = s.node := by
  unfold pointsCommitted
  exact node_of_others ((closed_others s).reevaluate rfl)

/-- A committed write leaves the node state. -/
theorem storeRecords_node {table first : Nat} {recs : List (List Byte)} {s u : State}
    (h : storeRecords table first recs s = .ok u) : u.node = s.node := by
  unfold storeRecords at h
  dsimp only at h
  split at h
  case h_1 =>
    split at h
    · obtain rfl := Except.ok.inj h
      rfl
    · cases h
  case h_9 =>
    split at h
    · cases h
    · next hu =>
      split at h
      · cases h
      · obtain rfl := Except.ok.inj h
        obtain ⟨rfl, -⟩ := store_written hu
        rfl
  case h_11 =>
    obtain ⟨e, -⟩ := store_written h
    rw [e, pointsCommitted_node]
  case h_16 =>
    obtain rfl := Except.ok.inj h
    rfl
  all_goals
    obtain ⟨rfl, -⟩ := store_written h
    rfl

/-- A write that is refused leaves the state; the others store their records. -/
theorem commitWrite_state (table first count : Nat) (records : List Byte) (s : State) :
    (commitWrite table first count records s).2.2 = s ∨
      ∃ recs, storeRecords table first recs s = .ok (commitWrite table first count records s).2.2 := by
  unfold commitWrite
  split
  · exact .inl rfl
  · split
    · exact .inl rfl
    · split
      · exact .inl rfl
      · split
        · exact .inl rfl
        · next hu => exact .inr ⟨_, hu⟩

namespace Rests

variable {s : State}

theorem storeRecords {table first : Nat} {recs : List (List Byte)} {u : State} (h : Rests s) (ha : Agree u)
    (hs : storeRecords table first recs s = .ok u) : Rests u := by
  obtain ⟨-, hq, hd⟩ := h
  have hn : u.node = s.node := storeRecords_node hs
  refine ⟨ha, fun e => ?_, fun e => calm_storeRecords (hd (hn.symm.trans e)) hs⟩
  rw [storeRecords_owed hs]
  exact (hq (hn.symm.trans e)).imp_right fun hc => calm_storeRecords hc hs

theorem commitWrite {table first count : Nat} {records : List Byte} (h : Rests s) :
    Rests (commitWrite table first count records s).2.2 := by
  have ha : Agree (Machine.commitWrite table first count records s).2.2 := h.1.commitWrite
  obtain e | ⟨recs, e⟩ := commitWrite_state table first count records s
  · rwa [e]
  · exact h.storeRecords ha e

/-! ## The transfers (R153 to R164) -/

theorem outcome {via : Opened} {k : Byte} {r : Result} {d : List Byte} (h : Rests s) : Rests (outcome via k r d s) := by
  unfold Machine.outcome joinReply
  split
  · split <;> exact h
  · split <;> exact h

theorem closeUnit (h : Rests s) : Rests (closeUnit s) := h

theorem discardOpen {r : Result} (h : Rests s) : Rests (discardOpen r s) := by
  unfold Machine.discardOpen
  split
  · exact h
  · exact h.closeUnit.outcome

theorem softReset (h : Rests s) : Rests (softResetState s) := of_active h.1.softReset rfl

theorem conclude {via : Opened} {k : Byte} {c : Commit} (h : Rests c.2.2) : Rests (conclude via k c) := h.outcome

theorem unlessBroadcast {via : Opened} {c : Commit} (h : Rests s) (hc : Rests c.2.2) :
    Rests (unlessBroadcast via s c).2.2 := by
  cases via with
  | own => exact hc
  | broadcast => exact h

theorem commitExecute {records : List Byte} (h : Rests s) : Rests (commitExecute records s).2.2 := by
  unfold Machine.commitExecute
  dsimp only
  split
  · exact h
  · exact h.runList

theorem writeTransfer {via : Opened} {t f c : Nat} {rs : List Byte} (h : Rests s) :
    Rests (writeTransfer via t f c rs s) := by
  unfold Machine.writeTransfer
  split
  · exact h.commitWrite.conclude
  · exact Rests.conclude (c := plain _ s) h

theorem readTransfer {via : Opened} {t f c : Nat} (h : Rests s) : Rests (readTransfer via t f c s) := by
  refine Rests.conclude (h.unlessBroadcast ?_)
  unfold commitRead
  split
  · exact h
  · split <;> exact h

theorem viewTransfer {via : Opened} {v i : Byte} (h : Rests s) : Rests (viewTransfer via v i s) := by
  refine Rests.conclude (h.unlessBroadcast ?_)
  unfold commitView
  split <;> exact h

theorem clockTransfer {via : Opened} {ms day rate : Nat} {rh : Byte} (h : Rests s) :
    Rests (clockTransfer via ms day rate rh s) := Rests.conclude (c := plain .ok (fillPendingSet _ s)) h

theorem codeTransfer {via : Opened} {c : Nat} (h : Rests s) : Rests (codeTransfer via c s) := by
  refine Rests.conclude ?_
  unfold commitCue
  split
  · exact h
  · exact h.append

theorem executeTransfer {via : Opened} {rs : List Byte} (h : Rests s) : Rests (executeTransfer via rs s) := by
  refine Rests.conclude ?_
  split
  · exact h.commitExecute
  · exact h

theorem noticesTransfer {via : Opened} {m : Byte} {e c : BitVec 16} (h : Rests s) :
    Rests (noticesTransfer via m e c s) := Rests.conclude (c := plain .ok (commitNotices m e c s)) h

theorem restTransfer {via : Opened} (h : Rests s) : Rests (restTransfer via s) := by
  refine Rests.conclude ?_
  unfold commitDormant
  dsimp only
  split <;> exact h.dormantRequest

theorem awakeTransfer {via : Opened} (h : Rests s) : Rests (awakeTransfer via s) :=
  Rests.conclude (c := plain .ok _) h.wake

theorem haltTransfer {via : Opened} (h : Rests s) : Rests (haltTransfer via s) :=
  Rests.conclude (c := plain .ok _) h.allStop

theorem resetTransfer {via : Opened} (h : Rests s) : Rests (resetTransfer via s) :=
  Rests.conclude (c := plain .ok _) h.softReset

theorem commitBody {via : Opened} {body : List Byte} (h : Rests s) : Rests (commitBody via body s) := by
  unfold Machine.commitBody
  split
  · split
    · exact Rests.conclude (c := plain _ s) h
    · exact h.writeTransfer
  · exact h.readTransfer
  · exact h.viewTransfer
  · exact h.clockTransfer
  · exact h.codeTransfer
  · exact h.executeTransfer
  · exact h.noticesTransfer
  · exact h.restTransfer
  · exact h.awakeTransfer
  · exact h.haltTransfer
  · exact h.resetTransfer

theorem judge {via : Opened} {bytes : List Byte} (h : Rests s) : Rests (judge via bytes s) := by
  unfold Machine.judge
  dsimp only
  split
  · exact h.outcome
  · split
    · exact h.outcome
    · split
      · exact h.outcome
      · split
        · exact h.outcome
        · exact h.commitBody

/-! ## Symbols, frames and answers (R139 to R154) -/

theorem takeOpen {a : Nat} (h : Rests s) : Rests (takeOpen a s) := by
  have hd : Rests (Machine.discardOpen .interrupted s) := h.discardOpen
  unfold Machine.takeOpen
  dsimp only
  split
  · exact hd
  · split <;> exact hd

theorem takeByte {v : Byte} (h : Rests s) : Rests (takeByte v s) := by
  unfold Machine.takeByte
  split
  · exact h
  · split
    · exact h
    · exact h.discardOpen

theorem takeClose (h : Rests s) : Rests (takeClose s) := by
  unfold Machine.takeClose
  split
  · exact h
  · exact h.closeUnit.judge

theorem takeGrant {a : Nat} (h : Rests s) : Rests (takeGrant a s) := by
  have answers : Rests (Machine.giveAnswer s).2.2 := by
    unfold Machine.giveAnswer
    split
    · exact h
    · split <;> exact h
  unfold Machine.takeGrant
  split
  · exact answers
  · exact h

theorem takeSymbol {t v : Byte} (h : Rests s) : Rests (takeSymbol t v s) := by
  unfold Machine.takeSymbol
  split
  · exact h.takeOpen
  · exact h.takeByte
  · exact h.takeClose
  · exact h.takeGrant
  · exact h
  · exact h

theorem answerDone (h : Rests s) : Rests (answerDone s) := by
  unfold Machine.answerDone
  split
  · next a _ => cases a <;> exact h
  all_goals exact h

theorem setLink (h : Rests s) {l : Link} : Rests (setLink l s) := h

theorem reportAbandoned (h : Rests s) {a : AnswerKind} : Rests (reportAbandoned a s) := by
  cases a <;> exact h

theorem abandonAnswer (h : Rests s) : Rests (abandonAnswer s) := by
  unfold Machine.abandonAnswer
  split
  · exact h.setLink.reportAbandoned
  · exact h.answerDone
  · exact h

theorem placeOwn (h : Rests s) : Rests (placeOwn s) := by
  unfold Machine.placeOwn
  split
  · split <;> exact h
  all_goals exact h

theorem forward {bs : List Byte} (h : Rests s) : Rests (forward bs s) := by
  unfold Machine.forward
  split <;> exact h

theorem markOwn (h : Rests s) : Rests (markOwn s) := by
  unfold Machine.markOwn
  split <;> exact h

theorem passReturn {bs : List Byte} (h : Rests s) : Rests (passReturn bs s) := by
  unfold Machine.passReturn
  split <;> exact h

theorem countDamaged {b : Bool} (h : Rests s) : Rests (countDamaged b s) := h

/-! ## The scene step and the Link Port (R144, R181) -/

theorem stepPoints (h : Rests s) : Rests (stepPoints s) :=
  h.units h.1.stepPoints ((closed_others s).stepPoints rfl) fun _ hc => hc.stepPoints

theorem stepTrains (h : Rests s) : Rests (stepTrains s) :=
  h.units h.1.stepTrains ((closed_others s).stepTrains rfl) fun _ hc => hc.stepTrains

theorem stepAxes (h : Rests s) : Rests (stepAxes s) :=
  h.units h.1.stepAxes ((closed_others s).stepAxes rfl) fun _ hc => hc.stepAxes

theorem periodEvent (h : Rests s) {e : AxisId × PeriodEvent} : Rests (periodEvent e s) :=
  h.units h.1.periodEvent ((closed_others s).periodEvent rfl) fun _ hc => hc.periodEvent

/-- The axes' frame periods leave the node state and the requests owed; the axes of a track at rest stay at rest. -/
theorem framesTaken (h : Rests s) : Rests { s with axisDue := false, axes := tab (fun a => (frameOf s a).1) } :=
  ⟨h.1, fun e => (h.2.1 e).imp_right fun hc => hc.eachAxis hc.frameOf_calm, fun e =>
    (h.2.2 e).eachAxis (h.2.2 e).frameOf_calm⟩

theorem axisPeriod (h : Rests s) : Rests (axisPeriod s) :=
  foldl_keeps _ _ (fun _ _ _ hu => hu.periodEvent) _ h.framesTaken.arrange

theorem turnPulses (h : Rests s) : Rests (turnPulses s) := h.units h.1 rfl fun _ hc => hc.turnPulses

theorem runPart {p : Part} (h : Rests s) : Rests (runPart p s) := by
  cases p with
  | clock => exact h.stepClock
  | lists => exact h.stepLists
  | flags => exact h
  | lamps => exact h
  | points => exact h.stepPoints
  | trains => exact h.stepTrains
  | axes => exact h.stepAxes
  | chain => exact h.stepChain
  | node => exact h.nodeCheck
  | period => exact h.axisPeriod
  | cue => exact h.append
  | symbol => exact h.takeSymbol
  | lock => exact h
  | req => exact h.runReq
  | drop => exact h.discardOpen
  | abandon => exact h.abandonAnswer

theorem partEvent {p : Part} (h : Rests s) : Rests (partEvent p s) := by
  have hp : Rests (Machine.runPart p (Machine.settle s)) := h.settle.runPart
  unfold Machine.partEvent
  dsimp only
  split
  · exact hp
  · exact hp.afterEvent

theorem anyOrder {ps : List Part} (h : Rests s) : Rests (anyOrder ps s) :=
  foldl_keeps _ _ (fun _ _ _ hu => hu.partEvent) _ h.arrange

theorem stepMade (h : Rests s) : Rests (stepMade s) := h

theorem sceneStep {ps : List Part} (h : Rests s) : Rests (sceneStep ps s) := h.stepMade.anyOrder

theorem flushPeriod (h : Rests s) : Rests (flushPeriod s) := by
  unfold Machine.flushPeriod
  split
  · exact h.partEvent
  · exact h

theorem axisFramePeriod (h : Rests s) : Rests (axisFramePeriod s) := by
  have hd : Rests (Machine.draw s).2 := h.draw
  unfold Machine.axisFramePeriod
  dsimp only
  split
  · exact hd.partEvent
  · exact hd

theorem freshTakes (h : Rests s) : Rests (freshTakes s) := h

theorem beginPeriod (h : Rests s) : Rests (beginPeriod s) := by
  have flushed : Rests (Machine.answerDone (Machine.turnPulses (Machine.flushPeriod s))) :=
    h.flushPeriod.turnPulses.answerDone
  exact flushed.freshTakes.setLink.placeOwn.axisFramePeriod

theorem takeLines {bs : List Byte} (h : Rests s) : Rests (takeLines bs s) := h

theorem frameParts {bs : List Byte} (h : Rests s) : Rests (frameParts bs s) := by
  unfold Machine.frameParts
  dsimp only
  split
  · split
    · exact h.takeLines.setLink.sceneStep
    · exact h.takeLines.setLink.anyOrder
  · exact h.takeLines.anyOrder

theorem validFrame {bs : List Byte} (h : Rests s) : Rests (validFrame bs s) := by
  unfold Machine.validFrame
  dsimp only
  split
  · exact h.frameParts.markOwn.forward
  · exact h.frameParts.forward

theorem arrive6 {bs : List Byte} (h : Rests s) : Rests (arrive6 bs s) := by
  unfold Machine.arrive6
  split
  · exact h.countDamaged.discardOpen.forward
  · exact h.discardOpen.forward
  · exact h.discardOpen.forward
  · exact h.validFrame

theorem arrive3 {bs : List Byte} (h : Rests s) : Rests (arrive3 bs s) := by
  unfold Machine.arrive3
  dsimp only
  split
  · split
    · refine Rests.placeOwn ?_
      split <;> exact h
    · exact h.passReturn
  · split
    · exact h.countDamaged.placeOwn
    · exact h.countDamaged.passReturn

theorem fallback (h : Rests s) : Rests (fallback s) := by
  unfold Machine.fallback
  split
  · exact h
  all_goals
    split
    · exact h.sceneStep.markOwn
    · exact h

theorem loseLink (h : Rests s) : Rests (loseLink s) := by
  unfold Machine.loseLink
  split
  · exact h.setLink.latch.sceneStep
  · exact h

/-! ## The ends of the counters -/

theorem coilEnds (h : Rests s) {p : PointId} : Rests (coilEnds p s) :=
  h.units (h.1.rails (coilEnds_rails p s)) ((closed_others s).coilEnds rfl) fun _ hc => hc.coilEnds

theorem throwEnds (h : Rests s) {p : PointId} : Rests (throwEnds p s) :=
  h.units h.1.throwEnds ((closed_others s).throwEnds rfl) fun _ hc => hc.throwEnds

/-- A brake delay runs down to a stop: no train of a track at rest has one that runs. -/
theorem brakeDelayEnds (h : Rests s) {t : TrainId} : Rests (setTrain t (brakeDelayEnds s.trains[t]) s) := by
  refine h.units h.1.brakeDelayEnds rfl fun d hc => hc.putTrain ?_
  rw [Calm.brakeDelayEnds_of_calm (hc.2.1 t)]
  exact hc.2.1 t

theorem arrivalTimesOut (h : Rests s) {t : TrainId} : Rests (arrivalTimesOut t s) :=
  h.units h.1.arrivalTimesOut ((closed_others s).arrivalTimesOut rfl) fun _ hc => hc.arrivalTimesOut

/-- A hold timer that ends makes its axis IDLE (R115). -/
theorem holdEnds (h : Rests s) {a : AxisId} : Rests (setAxis a (holdEnds s.axes[a]) s) :=
  h.units h.1 rfl fun _ hc => hc.setAxis fun hd => axisMoves_holdEnds (hc.2.2 a hd)

theorem homeLimitPasses (h : Rests s) {a : AxisId} : Rests (homeLimitPasses a s) :=
  h.units h.1.homeLimitPasses ((closed_others s).homeLimitPasses rfl) fun _ hc => hc.homeLimitPasses

theorem ofReset : Rests State.reset := of_active Agree.ofReset rfl

/-- At the end of a command nothing is owed. -/
theorem finished (h : Rests s) : Rests (Machine.finish s) ∧ (Machine.finish s).owed = [] := ⟨h.finish, finish_owed s⟩

end Rests

/-! ## Every command -/

/-- Every command that finds nothing owed leaves nothing owed, and what holds of a node at rest. -/
theorem exec_keeps_rests (c : Instr) {s : State} (ho : s.owed = []) (h : Rests s) :
    ∃ t, exec c s = .next t ∧ Rests t ∧ t.owed = [] := by
  have hc : Rests (closeUnit s) := h.closeUnit
  cases c with
  | powerOnReset => exact ⟨_, rfl, .ofReset, rfl⟩
  | pinReset => exact ⟨_, rfl, .ofReset, rfl⟩
  | framePeriod => exact ⟨_, rfl, h.beginPeriod.finished⟩
  | downstreamFrame bytes => exact ⟨_, rfl, h.arrive6.finished⟩
  | returnFrame bytes => exact ⟨_, rfl, h.arrive3, by simp [ho]⟩
  | answerSent => exact ⟨_, rfl, h.answerDone, by simp [ho]⟩
  | fallbackStep => exact ⟨_, rfl, h.fallback.finished⟩
  | linkLost => exact ⟨_, rfl, h.loseLink.finished⟩
  | cueTake => exact ⟨_, rfl, h.takeCue.finished⟩
  | writeTable via table first count records => exact ⟨_, rfl, hc.writeTransfer, by simp [ho]⟩
  | readTable via table first count => exact ⟨_, rfl, hc.readTransfer, by simp [ho]⟩
  | readState via view index => exact ⟨_, rfl, hc.viewTransfer, by simp [ho]⟩
  | setClock via ms day rate runHold => exact ⟨_, rfl, hc.clockTransfer, by simp [ho]⟩
  | cueTransfer via code => exact ⟨_, rfl, hc.codeTransfer, by simp [ho]⟩
  | execute via records => exact ⟨_, rfl, hc.executeTransfer.finished⟩
  | notices via master enables clear => exact ⟨_, rfl, hc.noticesTransfer, by simp [ho]⟩
  | dormantTransfer via => exact ⟨_, rfl, hc.restTransfer.finished⟩
  | wakeTransfer via => exact ⟨_, rfl, hc.awakeTransfer.finished⟩
  | allStopTransfer via => exact ⟨_, rfl, hc.haltTransfer.finished⟩
  | softReset via => exact ⟨_, rfl, h.resetTransfer, by simp⟩
  | dormantComplete => exact ⟨_, rfl, h.nodeCheck, by simp [ho]⟩
  | pendingSetApply => exact ⟨_, rfl, h.applyPending, by simp [ho]⟩
  | listEntryFire player => exact ⟨_, rfl, h.countdownEnds, by simp [ho]⟩
  | cueFadeEnd channel => exact ⟨_, rfl, h, by simp [ho]⟩
  | masterFadeEnd group => exact ⟨_, rfl, h, by simp [ho]⟩
  | flagPulseEnd flag => exact ⟨_, rfl, h, by simp [ho]⟩
  | coilEnd point => exact ⟨_, rfl, h.coilEnds, by simp [ho]⟩
  | throwComplete point => exact ⟨_, rfl, h.throwEnds, by simp [ho]⟩
  | chainCycleComplete ret inputs => exact ⟨_, rfl, h.completeCycle.finished⟩
  | watchHoldoffEnd watch => exact ⟨_, rfl, h, by simp [ho]⟩
  | brakeDelayEnd train => exact ⟨_, rfl, h.brakeDelayEnds, by simp [ho]⟩
  | arrivalTimeout train => exact ⟨_, rfl, h.arrivalTimesOut, by simp [ho]⟩
  | holdTimerEnd axis => exact ⟨_, rfl, h.holdEnds, by simp [ho]⟩
  | homeLimit axis => exact ⟨_, rfl, h.homeLimitPasses.afterEvent, by simp [ho]⟩

/-! ## The invariant of a node at rest -/

/-- In a state that owes nothing and whose trains and sections agree, what the statement asks of a node at rest is what `Rests`
says. -/
theorem rests_iff {s : State} (ho : s.owed = []) : Rests s ↔ TrackConsistent s ∧ RestConsistent s := by
  have notOwed : Req.restTrains ∉ s.owed := by simp [ho]
  constructor
  · rintro ⟨ha, hq, hd⟩
    refine ⟨trackConsistent_iff.2 ha, fun hn t => ?_, fun e t => ((hd e).2.1 t).speed rfl, fun e a => ?_⟩
    · cases hs : s.node with
      | active => exact absurd hs hn
      | quiescing => exact (((hq hs).resolve_left notOwed).2.1 t).rests
      | dormant => exact ((hd hs).2.1 t).rests
    · exact axisMoves_eq_false_iff.1 ((hd e).2.2 a rfl)
  · rintro ⟨ht, trains, speeds, axes⟩
    have ha : Agree s := trackConsistent_iff.1 ht
    refine ⟨ha, fun e => .inr (ha.calm (trains (by simp [e]))), fun e => ?_⟩
    obtain ⟨queues, calm, -⟩ := ha.calm (trains (by simp [e]))
    exact ⟨queues, fun t => ⟨(calm t).rests, (calm t).target, fun _ => speeds e t⟩, fun a _ =>
      axisMoves_eq_false_iff.2 (axes e a)⟩

/-- Settles O39: the invariant is strengthened to one that holds inside a command too (`Rests`): there a QUIESCING node may still
owe its trains the dormant entry. Every operation keeps it, and where nothing is owed it is the statement's (`rests_iff`). -/
theorem stepKeepsRestConsistent : Obligations.StepKeepsRestConsistent := by
  intro s ho hs hr
  have h : Rests s := (rests_iff ho).2 ⟨hs, hr⟩
  cases hq : s.pending with
  | nil => exact ⟨s, by simp [step, hq], ho, hs, hr⟩
  | cons c rest =>
    obtain ⟨t, ht, hk, hn⟩ := exec_keeps_rests c (s := { s with pending := rest }) ho h
    exact ⟨t, by simpa [step, hq] using ht, hn, (rests_iff hn).1 hk⟩

end Sys2Proof.Machine
end


section
/-! The counters of a train run out: the brake delay and the arrival timeout (R89, R98). -/

namespace Sys2Proof.Machine

/-- The last count of the brake delay of a train in APPROACH (R89 item 1). -/
theorem brakeDelayEnds_last {x : Train} {n : Nat} (hs : x.state = .approach) (hb : x.brakeDelay = some n) (hn : n ≤ 1) :
    brakeDelayEnds x = { x with brakeDelay := none, target := 0 } := by
  simp only [brakeDelayEnds, hs, hb, hn, if_true]

/-- A RUNNING or STOPPING train that rolls on a SET reservation counts its arrival (R89 item 2). -/
theorem countsArrival_of_rolling {x : Train} {n : SectionId} (hs : x.state = .running ∨ x.state = .stopping)
    (hr : x.res = some (n, .set)) (hv : 0 < x.speed) : countsArrival x = true := by
  obtain hs | hs := hs <;> simp only [countsArrival, hs, hr, hv, decide_true]

/-- A halt for LOST reaches a RUNNING and a STOPPING train, and sets its reason and no speed (R98). -/
theorem halted_lost {x : Train} (hs : x.state = .running ∨ x.state = .stopping) :
    haltReaches .lost x = true ∧ halted .lost x =
      { x with state := .halted .lost, target := 0, queued := none, retry := false, brakeDelay := none } := by
  obtain hs | hs := hs <;> simp only [haltReaches, halted, haltReason, stopsAtOnce, hs, Bool.false_eq_true, if_false, and_self]

/-- The arrival timeout of a train that stands in no queue: it halts LOST (R89 item 2). -/
theorem arrivalTimesOut_due {t : TrainId} {s : State} (hd : arrivalDue s.tables.trains[t] s.trains[t] = true)
    (hs : s.trains[t].state = .running ∨ s.trains[t].state = .stopping) (hq : s.trains[t].queued = none) :
    arrivalTimesOut t s = latch .trainHalt (.halt t .lost) (setTrain t { s.trains[t] with
      state := .halted .lost, target := 0, arrival := some (arrivalNext s.trains[t]), queued := none,
      retry := false, brakeDelay := none } s) := by
  have counted := get_set_same s.trains t { s.trains[t] with arrival := some (arrivalNext s.trains[t]) }
  obtain ⟨reaches, lost⟩ := halted_lost (x := { s.trains[t] with arrival := some (arrivalNext s.trains[t]) }) hs
  rw [arrivalTimesOut, if_pos hd, halt_of_unqueued (by rwa [setTrain_trains, counted]) (by rwa [setTrain_trains, counted]),
    setTrain_trains, counted, lost, setTrain_setTrain]

/-- Settles O54: the last count of each of the two counters, by the state of its train. -/
theorem trainCountersRunOut : Obligations.TrainCountersRunOut := by
  intro k s
  refine ⟨fun n hs hb hn => ?_, fun n count hs hr hv hq ha ht hc => ?_⟩
  · show Host.Outcome.next (setTrain k (brakeDelayEnds s.trains[k]) s) = _
    rw [brakeDelayEnds_last hs hb hn]
    rfl
  · have next : arrivalNext s.trains[k] = min 65535 (count + 1) := by rw [arrivalNext, ha, Option.getD_some]
    have due : arrivalDue s.tables.trains[k] s.trains[k] = true := by
      simp only [arrivalDue, next, Bool.and_eq_true, bne_iff_ne, decide_eq_true_eq]
      exact ⟨⟨countsArrival_of_rolling hs hr hv, Nat.pos_iff_ne_zero.1 ht⟩, hc⟩
    show Host.Outcome.next (arrivalTimesOut k s) = _
    rw [arrivalTimesOut_due due hs hq, next]
    rfl

end Sys2Proof.Machine
end


section
/-! TRAIN PLACE and TRAIN CLEAR by EXECUTE (R75, R76, R91, R94, R161). -/

namespace Sys2Proof.Machine

/-! ## No check follows where no condition ends (R171) -/

/-- An event that leaves every speed, every axis and the chain's cycle is followed by no completion check. -/
theorem afterEvent_of_same_speeds {s u : State} (hv : ∀ t : TrainId, u.trains[t].speed = s.trains[t].speed)
    (ha : u.axes = s.axes) (hc : u.chain.inFlight = s.chain.inFlight) : afterEvent s u = u := by
  have trains : (rollingTrains s).any (fun t => u.trains[t].speed == 0) = false := by
    simp only [rollingTrains, List.any_eq_false, List.mem_filter, hv, bne_iff_ne, beq_iff_eq]
    exact fun _ h => h.2
  have axes : (movingAxes s).any (fun a => !axisMoves u.axes[a]) = false := by
    simp only [movingAxes, List.any_eq_false, List.mem_filter, ha, Bool.not_eq_true, Bool.not_eq_false']
    exact fun _ h => h.2
  have cycle : (s.chain.inFlight.isSome && u.chain.inFlight.isNone) = false := by
    rw [hc]
    cases s.chain.inFlight <;> rfl
  simp only [afterEvent, endedOne, trains, axes, cycle, Bool.or_self, Bool.false_eq_true, if_false]

/-- A change of one train that keeps its speed keeps every speed. -/
theorem setTrain_speed {t : TrainId} {x : Train} {s : State} (hx : x.speed = s.trains[t].speed) (k : TrainId) :
    (setTrain t x s).trains[k].speed = s.trains[k].speed := by
  rw [setTrain_trains]
  by_cases e : k = t
  · subst e
    rwa [get_set_same]
  · rw [get_set_ne _ _ e]

/-- A cue appended and a change of one train that keeps its speed. -/
theorem setTrain_appendCue_rest {t : TrainId} {x : Train} {c : Nat} {src : Source} {s : State}
    (hx : x.speed = s.trains[t].speed) :
    (∀ k : TrainId, (setTrain t x (appendCue c src s)).trains[k].speed = s.trains[k].speed) ∧
      (setTrain t x (appendCue c src s)).axes = s.axes ∧
      (setTrain t x (appendCue c src s)).chain.inFlight = s.chain.inFlight := by
  obtain ⟨q, m, e⟩ := appendCue_eq c src s
  rw [e]
  exact ⟨setTrain_speed hx, rfl, rfl⟩

/-- An accepted action that keeps every speed, the axes and the chain's cycle brings nothing but its own effect. -/
theorem runOne_accepted_of_same_speeds {code position : Nat} {act : Action} {s u : State} (ho : s.owed = [])
    (h : runAction code act s = (none, u)) (hv : ∀ t : TrainId, u.trains[t].speed = s.trains[t].speed)
    (ha : u.axes = s.axes) (hc : u.chain.inFlight = s.chain.inFlight) : runOne code position act s = (none, u) := by
  simp only [runOne, settle_of_nothing_owed ho, h, afterEvent_of_same_speeds hv ha hc]

section
variable {t : TrainId} {n : SectionId} {s : State}

/-! ## TRAIN PLACE (R76, R91) -/

theorem decodeAction_trainPlace (t : TrainId) (i q : Nat) : decodeAction ⟨9, t.val, i, q⟩ = some (.trainPlace t i) := by
  simp [decodeAction]

theorem routeAt_val {r : TrainRec} {i : Fin 32} (h : r.route[i] = n.val) : routeAt r i.val = some n := by
  have entry : r.route[i.val] = n.val := h
  rw [routeAt, dif_pos i.isLt, entry, item_val]

/-- A hold of an in-use section that is FREE or BLOCKED is accepted (R76). -/
theorem hold_accepted (hu : s.tables.sections[n].inUse = true) (hs : s.secs[n].state = .free ∨ s.secs[n].state = .blocked) :
    hold t n s = (true, setSec n { s.secs[n] with state := .held t none } s) := by
  obtain hs | hs := hs <;> simp only [hold, hu, hs, if_true]

/-- TRAIN PLACE of a PARKED train on a section that can be held (R91). -/
theorem trainPlace_parked {i : Fin 32} (hp : s.trains[t].state = .parked) (hr : s.tables.trains[t].route[i] = n.val)
    (hu : s.tables.sections[n].inUse = true) (hs : s.secs[n].state = .free ∨ s.secs[n].state = .blocked) :
    trainPlace t i.val s = (none, setTrain t { s.trains[t] with
      state := .stopped, hold := [n], headIndex := i.val, speed := 0, target := 0 }
      (setSec n { s.secs[n] with state := .held t none } s)) := by
  simp only [trainPlace, hp, routeAt_val hr, hold_accepted hu hs, if_true, setSec_trains]

theorem runAction_trainPlace {code i : Nat} (hu : s.tables.trains[t].inUse = true) (hi : i < s.tables.trains[t].length) :
    runAction code (.trainPlace t i) s = trainPlace t i s := by
  simp only [runAction, whenInUse, hu, hi, decide_true, Bool.and_self, if_true]

/-! ## TRAIN CLEAR (R75, R76, R94) -/

theorem decodeAction_trainClear (t : TrainId) (p q : Nat) : decodeAction ⟨12, t.val, p, q⟩ = some (.trainClear t) := by
  simp [decodeAction]

/-- A train without a reserved section has none found. -/
theorem reservedBy_eq_none (h : ∀ (m : SectionId) ph k, s.secs[m].state ≠ .reserved t ph k) : reservedBy s t = none := by
  unfold reservedBy
  refine List.find?_eq_none.2 fun m _ => ?_
  split
  · next u ph k e =>
    intro hu
    exact h m ph k (eq_of_beq hu ▸ e)
  all_goals exact Bool.false_ne_true

/-- A cancel by a train that waits nowhere and has no reservation (R75). -/
theorem cancel_of_nothing (hq : s.trains[t].queued = none) (h : ∀ (m : SectionId) ph k, s.secs[m].state ≠ .reserved t ph k) :
    cancel t s = setTrain t (unreserve s.trains[t]) s := by
  have none_found : reservedBy (setTrain t (unreserve s.trains[t]) s) t = none := reservedBy_eq_none h
  rw [unreserve] at none_found ⊢
  simp only [cancel, dequeue_of_unqueued hq, none_found]

/-- A release where no train waits: the section is vacated and its cue appended (R76, R77). -/
theorem releaseOne_of_no_queues (hq : ∀ m : SectionId, s.secs[m].queue = []) :
    releaseOne n s = appendCue s.tables.sections[n].releaseCue .sectionCue (setSec n (vacated s.secs[n]) s) := by
  refine reevaluate_of_no_queues (fun m => ?_) _
  rw [(appendCue_rails _ _ _).secs]
  exact setSec_queues (x := vacated s.secs[n]) hq (hq n) m

/-- A train's own fields do not change what a release does where no train waits. -/
theorem releaseOne_setTrain (hq : ∀ m : SectionId, s.secs[m].queue = []) (x : Train) :
    releaseOne n (setTrain t x s) = setTrain t x (releaseOne n s) := by
  rw [releaseOne_of_no_queues hq, releaseOne_of_no_queues (s := setTrain t x s) hq, ← appendCue_setTrain]
  rfl

/-- A release all by a train with one section and no reservation, where no train waits (R76). -/
theorem releaseAll_one (hh : s.trains[t].hold = [n]) (hq : s.trains[t].queued = none)
    (hw : ∀ m : SectionId, s.secs[m].queue = []) (hr : ∀ (m : SectionId) ph k, s.secs[m].state ≠ .reserved t ph k) :
    releaseAll t s = setTrain t { unreserve s.trains[t] with hold := [] }
      (appendCue s.tables.sections[n].releaseCue .sectionCue (setSec n (vacated s.secs[n]) s)) := by
  have held : (unreserve s.trains[t]).hold = [n] := hh
  unfold releaseAll
  dsimp only
  rw [cancel_of_nothing hq hr, setTrain_trains, get_set_same, held, List.reverse_singleton, List.foldl_cons, List.foldl_nil,
    releaseOne_setTrain hw, setTrain_trains, get_set_same, setTrain_setTrain, releaseOne_of_no_queues hw]

/-- TRAIN CLEAR of a STOPPED train with one section and no reservation, where no train waits (R94). -/
theorem trainClear_stopped (hs : s.trains[t].state = .stopped) (hh : s.trains[t].hold = [n]) (hq : s.trains[t].queued = none)
    (hw : ∀ m : SectionId, s.secs[m].queue = []) (hr : ∀ (m : SectionId) ph k, s.secs[m].state ≠ .reserved t ph k) :
    trainClear t s = (none, setTrain t (cleared s.trains[t])
      (appendCue s.tables.sections[n].releaseCue .sectionCue (setSec n (vacated s.secs[n]) s))) := by
  simp only [trainClear, hs, if_true, releaseAll_one hh hq hw hr, setTrain_trains, get_set_same, setTrain_setTrain]
  rfl

theorem runAction_trainClear {code : Nat} (hu : s.tables.trains[t].inUse = true) :
    runAction code (.trainClear t) s = trainClear t s := by
  simp only [runAction, whenInUse, hu, if_true]

end

/-- Settles O43: each of the two actions as one action of a list with nothing owed, on the closed unit. -/
theorem executeTrainPlaceAndClear : Obligations.ExecuteTrainPlaceAndClear := by
  intro via t n s ho hu u
  refine ⟨fun i r hi hr hp hn hs hv => ?_, fun kept q r hs hh hq _ hw hr => ?_⟩
  · have run : runAction 0 (.trainPlace t i.val) (closeUnit s) = _ :=
      (runAction_trainPlace (s := closeUnit s) hu hi).trans (trainPlace_parked (s := closeUnit s) hp hr hn hs)
    have one := runOne_accepted_of_same_speeds (position := 0) (s := closeUnit s) ho run (setTrain_speed hv.symm) rfl rfl
    refine exec_execute_one (k := 9) (by omega) ?_ one ho
    rw [toNat_byte (by omega)]
    exact decodeAction_trainPlace t i.val r.toNat
  · have run : runAction 0 (.trainClear t) (closeUnit s) = _ :=
      (runAction_trainClear (s := closeUnit s) hu).trans (trainClear_stopped (s := closeUnit s) hs hh hq hw hr)
    obtain ⟨hv, ha, hc⟩ := setTrain_appendCue_rest (t := t) (x := cleared s.trains[t])
      (c := s.tables.sections[n].releaseCue) (src := .sectionCue) (s := setSec n (vacated s.secs[n]) (closeUnit s)) rfl
    have one := runOne_accepted_of_same_speeds (position := 0) (s := closeUnit s) ho run hv ha hc
    rw [← appendCue_setTrain] at one
    have owed := (appendCue_owed s.tables.sections[n].releaseCue .sectionCue
      (setTrain t (cleared s.trains[t]) (setSec n (vacated s.secs[n]) (closeUnit s)))).trans ho
    exact exec_execute_one (k := 12) (by omega) (decodeAction_trainClear t q.toNat r.toNat) one owed

end Sys2Proof.Machine
end


section
/-! The ramp, the cab duty, the cab lines, and the write of one train record (R84, R87, R88, R156, R181). -/

namespace Sys2Proof.Machine

/-! ## The ramp (R87) -/

section
variable {r : TrainRec} {x : Train}

theorem rampSpeed_rising (h : x.speed < x.target) : rampSpeed r x = min x.target (x.speed + r.accel) := if_pos h

theorem rampSpeed_falling (h : x.target < x.speed) :
    rampSpeed r x = max x.target (x.speed - fallRate r x.state) := if_neg (Nat.lt_asymm h)

/-- A train at its target stays there. -/
theorem rampSpeed_reached (h : x.speed = x.target) : rampSpeed r x = x.speed := by
  rw [rampSpeed, if_neg (Nat.not_lt.2 h.ge), ← h]
  exact Nat.max_eq_left (Nat.sub_le _ _)

theorem fallRate_halted (h : ∃ why, x.state = .halted why) : fallRate r x.state = r.emergency := by
  obtain ⟨why, e⟩ := h
  rw [e, fallRate]

theorem fallRate_driven (h : ∀ why, x.state ≠ .halted why) : fallRate r x.state = r.brake := by
  cases e : x.state with
  | halted why => exact absurd e (h why)
  | parked | stopped | waiting | running | approach | stopping => rfl

end

/-! ## The cab duty (R88) -/

theorem cabDuty_standing (d : Nat) : cabDuty d 0 = 0 := rfl

theorem cabDuty_rolling (d : Nat) {v : Nat} (h : 0 < v) : cabDuty d v = d + ((255 - d) * v + 127) / 255 :=
  if_neg (Nat.pos_iff_ne_zero.1 h)

/-- The part of the duty above the minimum: all of it at 255, and never more. -/
theorem dutyRise_full (m : Nat) : (m * 255 + 127) / 255 = m := by omega

theorem dutyRise_le (m : Nat) {v : Nat} (h : v ≤ 255) : (m * v + 127) / 255 ≤ m :=
  calc (m * v + 127) / 255 ≤ (m * 255 + 127) / 255 :=
        Nat.div_le_div_right (Nat.add_le_add_right (Nat.mul_le_mul_left m h) 127)
    _ = m := dutyRise_full m

/-! ## The cab lines (R181) -/

theorem pins_driven {s : State} (h : s.pinsLow = false) (k : TrainId) :
    (pins s).cab[k] = s.trains[k].duty ∧ (pins s).cabDir[k] = cabDirLine s k := by
  simp only [pins, h, Bool.false_eq_true, if_false]
  exact ⟨tab_get _ k, tab_get _ k⟩

theorem cabDirLine_iff {s : State} {k : TrainId} :
    cabDirLine s k = true ↔ s.tables.trains[k].inUse = true ∧ s.tables.trains[k].dir = .reverse := by
  rw [cabDirLine, Bool.and_eq_true, beq_iff_eq]

/-! ## The write of one record (R156) -/

/-- A vector is written at an index by its entries. -/
theorem eq_set_of_get {α : Type} {n : Nat} {v w : Vector α n} {k : Fin n} {x : α} (hk : w[k] = x)
    (ho : ∀ i : Fin n, i ≠ k → w[i] = v[i]) : w = v.set k x := by
  have entries : ∀ i : Fin n, w[i] = (v.set k x)[i] := fun i => by
    by_cases e : i = k
    · subst e
      rw [get_set_same, hk]
    · rw [get_set_ne _ _ e, ho i e]
  exact Vector.ext fun i hi => entries ⟨i, hi⟩

/-- A write of one record holds its own index alone. -/
theorem inWrite_one {n : Nat} {k i : Fin n} : inWrite k.val 1 i.val = decide (i = k) := by
  rw [inWrite, decide_eq_decide, Fin.ext_iff]
  omega

theorem written_one {α : Type} {n : Nat} (v : Vector α n) (k : Fin n) (x : α) : written v k.val [x] = v.set k x := by
  refine eq_set_of_get ?_ fun i hi => written_outside (count := 1) (Nat.le_refl 1) (by rw [inWrite_one, decide_eq_false hi])
  rw [written, tab_get, if_pos (Nat.le_refl _), Nat.sub_self]
  rfl

/-- A record that decodes and passes its check is stored. -/
theorem store_one {α : Type} {n : Nat} {old : Vector α n} {k : Fin n} {x : α} {bad : Nat → α → Bool}
    (hb : bad 0 x = false) (put : Vector α n → State) : store old k.val [some x] bad put = .ok (put (old.set k x)) := by
  have passed : firstBad bad 0 [some x] = none := by simp only [firstBad, hb, Bool.false_eq_true, if_false]
  simp only [store, passed, List.filterMap_cons, List.filterMap_nil, id, written_one]

/-- The train takes the cruise of its written record, and duty 0 out of use (R84, R88). -/
def trainWritten (r : TrainRec) (x : Train) : Train :=
  { x with cruise := r.cruise, duty := if r.inUse then x.duty else 0 }

theorem trainsCommitted_one (k : TrainId) (s : State) :
    trainsCommitted k.val 1 s = setTrain k (trainWritten s.tables.trains[k] s.trains[k]) s := by
  have trains : (trainsCommitted k.val 1 s).trains = s.trains.set k (trainWritten s.tables.trains[k] s.trains[k]) := by
    refine eq_set_of_get ?_ fun i hi => ?_
    · rw [trainsCommitted, tab_get, inWrite_one, decide_eq_true rfl, if_pos rfl]
      rfl
    · rw [trainsCommitted, tab_get, inWrite_one, decide_eq_false hi, if_neg Bool.false_ne_true]
  rw [setTrain, ← trains]
  rfl

section
variable {k : TrainId} {r : TrainRec} {records : List Byte} {s : State}

/-- The state after the write of one train record. -/
def trainRecordStored (k : TrainId) (r : TrainRec) (s : State) : State :=
  setTrain k (trainWritten r s.trains[k]) { s with tables := { s.tables with trains := s.tables.trains.set k r } }

theorem storeRecords_train (hd : decTrain records = some r) (hb : routeBad s.tables.sections r = false) :
    storeRecords 9 k.val [records] s = .ok (trainRecordStored k r s) := by
  have e : storeRecords 9 k.val [records] s = store s.tables.trains k.val [decTrain records]
      (fun _ r => routeBad s.tables.sections r)
      (fun v => trainsCommitted k.val 1 { s with tables := { s.tables with trains := v } }) := rfl
  rw [e, hd, store_one hb, trainsCommitted_one, get_set_same]
  rfl

/-- The write of the record of a PARKED train (R84, R156). -/
theorem commitWrite_train (hl : records.length = 42) (hd : decTrain records = some r) (hp : s.trains[k].state = .parked)
    (hb : routeBad s.tables.sections r = false) :
    commitWrite 9 k.val 1 records s = (.ok, [], trainRecordStored k r s) := by
  have unlocked : ([k.val].find? (lockedAt s 9)) = none := by
    simp only [List.find?_singleton, lockedAt, sourceOf, item_val, hp, bne_self_eq_false, Bool.false_eq_true, if_false]
  have indices : (List.range 1).map (k.val + ·) = [k.val] := rfl
  have whole : pieces (recordSize 9) 1 records = [records] := by
    rw [pieces, pieces, List.take_of_length_le (show records.length ≤ recordSize 9 from hl.le)]
  have inTable : ¬ (1 = 0 ∨ recordCount 9 < k.val + 1) := by
    have : recordCount 9 = 4 := rfl
    omega
  rw [commitWrite, if_neg (by omega), if_neg inTable, indices, unlocked, whole]
  simp only [storeRecords_train hd hb]
  rfl

end

/-- Settles O59: the ramp by the order of speed and target, the duty by the part above the minimum, the lines as the pins give
them, and the write as that of one record. -/
theorem cabDutyAndDirection : Obligations.CabDutyAndDirection := by
  refine ⟨fun r x => ⟨fun h => rampSpeed_rising h, fun h => rampSpeed_reached h, fun h hs => ?_, fun h hs => ?_, rfl⟩,
    fun d hd => ⟨cabDuty_standing d, ?_⟩, fun d v hd hv hm => ?_, fun s k h => ?_, fun via k records r s hl hd hp hb => ?_⟩
  · rw [← fallRate_halted hs]
    exact rampSpeed_falling h
  · rw [← fallRate_driven hs]
    exact rampSpeed_falling h
  · rw [cabDuty_rolling d (by omega), dutyRise_full]
    omega
  · have rise := dutyRise_le (255 - d) hm
    rw [cabDuty_rolling d hv]
    exact ⟨rfl, Nat.le_add_right _ _, by omega⟩
  · obtain ⟨duty, line⟩ := pins_driven h k
    rw [line]
    exact ⟨duty, cabDirLine_iff⟩
  · have passes : routeBad s.tables.sections r = false := by
      obtain hu | hr := hb
      · rw [routeBad, hu, Bool.false_and]
      · exact hr
    have first : (BitVec.ofNat 16 k.val).toNat = k.val := by
      rw [BitVec.toNat_ofNat]
      exact Nat.mod_eq_of_lt (by omega)
    have length : records.length = 1 * recordSize 9 := hl
    show Host.Outcome.next (writeTransfer via 9 (BitVec.ofNat 16 k.val).toNat 1 records (closeUnit s)) = _
    rw [first, writeTransfer, if_pos length, commitWrite_train (s := closeUnit s) hl hd hp passes]
    rfl

end Sys2Proof.Machine
end

section
/-! The timers of an axis run out: the hold timer (R115), and the home limit of an axis that guards nothing (R116, R118). -/

namespace Sys2Proof.Machine

/-- A HOLDING axis at its last count (R115). -/
theorem holdEnds_last {x : Axis} {n : Nat} (hs : x.state = .holding) (ht : x.holdTimer = some n) (hn : n ≤ 1) :
    holdEnds x = { x with state := .idle, holdTimer := none } := by
  simp only [holdEnds, hs, ht, if_pos hn]

section
variable {a : AxisId} {s : State}

/-- An axis is unlocked where no section that it guards has an owner (R63). -/
theorem axisLockers_eq_nil (h : ∀ n : SectionId, s.tables.sections[n].guardAxis = some a → ownerOf s.secs[n].state = none) :
    axisLockers s a = [] := by
  refine List.eq_nil_iff_forall_not_mem.2 fun t ht => ?_
  obtain ⟨n, -, guards, owner⟩ := mem_ownersWhere.1 ht
  rw [h n (eq_of_beq guards)] at owner
  cases owner

/-- An axis that no section names guards no SET reservation. -/
theorem guardsSet_of_unnamed (h : ∀ n : SectionId, s.tables.sections[n].guardAxis ≠ some a) : guardsSet s a = false := by
  refine List.any_eq_false.2 fun n _ => ?_
  rw [beq_eq_false_iff_ne.2 (h n), Bool.false_and]
  exact Bool.false_ne_true

/-- The fault of an axis that no section names changes that axis and latches AXIS_FAULT (R118). -/
theorem faultAxis_of_unnamed (reason : AxisFault) (h : ∀ n : SectionId, s.tables.sections[n].guardAxis ≠ some a) :
    faultAxis reason a s = latch .axisFault (.axis a reason) (setAxis a (faultedAxis reason s.axes[a]) s) := by
  let u := latch .axisFault (.axis a reason) (setAxis a (faultedAxis reason s.axes[a]) s)
  have unlocked : axisLockers u a = [] := axisLockers_eq_nil fun n hn => absurd hn (h n)
  have unset : guardsSet u a = false := guardsSet_of_unnamed h
  have owners : haltOwners a u = u := by
    rw [haltOwners, unlocked]
    rfl
  simp only [faultAxis]
  rw [unset, if_neg Bool.false_ne_true, owners]

/-- The next step of a HOMING axis, due beyond its home limit (R116). -/
theorem homeLimitDue_of_homing {r : AxisRec} {x : Axis} (hs : x.state = .homing) (hd : 4000 ≤ x.acc + x.v)
    (hl : r.homeLimit ≤ x.homeCount) : homeLimitDue r x = true := by
  simp only [homeLimitDue, stepDue, generates, hs, hd, hl, decide_true, beq_self_eq_true, Bool.and_self]

end

/-- Settles O55: the hold timer by its last count; the home limit as the fault of an axis that guards nothing, after which an
ACTIVE node makes no check. -/
theorem axisTimersRunOut : Obligations.AxisTimersRunOut := by
  intro a s
  refine ⟨fun n hs ht hn => ?_, fun hu hs hd hl hn hg => ?_⟩
  · show Host.Outcome.next (setAxis a (holdEnds s.axes[a]) s) = _
    rw [holdEnds_last hs ht hn]
    rfl
  · have faulted : homeLimitPasses a s =
        latch .axisFault (.axis a .home) (setAxis a (faultedAxis .home s.axes[a]) s) := by
      rw [homeLimitPasses, hu, homeLimitDue_of_homing hs hd hl, Bool.and_self, if_pos rfl, faultAxis_of_unnamed _ hg]
    have active : (homeLimitPasses a s).node = .active := by
      rw [faulted]
      exact hn
    show Host.Outcome.next (afterEvent s (homeLimitPasses a s)) = _
    rw [afterEvent_of_active active, faulted]
    rfl

end Sys2Proof.Machine
end

section
/-! The velocity profile of a SEEKING axis at a scene step (R109), and the lines of an axis (R106, R181). -/

namespace Sys2Proof.Machine

/-! ## The profile (R109) -/

/-- Away from the target the profile gives a velocity from Vs to Vmax. -/
theorem profile_bounds {r : AxisRec} {d v : Nat} (hd : d ≠ 0) (hr : r.vs ≤ r.vmax) (hv : v ≤ r.vmax) :
    r.vs ≤ profile r d v ∧ profile r d v ≤ r.vmax := by
  rw [profile, if_neg hd]
  split
  · exact ⟨Nat.le_max_left .., Nat.max_le.2 ⟨hr, (Nat.sub_le ..).trans hv⟩⟩
  · exact ⟨Nat.le_min.2 ⟨hr, Nat.le_max_left ..⟩, Nat.min_le_left ..⟩

section
variable {a : AxisId} {s : State}

/-- The scene step of a SEEKING axis without a turn-about sets its velocity by the profile (R109). -/
theorem stepAxis_seeking {g : Nat} (hu : s.tables.axes[a].inUse = true) (hs : s.axes[a].state = .seeking)
    (hn : s.axes[a].turn = none) (hg : s.axes[a].target = some g) :
    stepAxis a s = setAxis a { s.axes[a] with
      v := profile s.tables.axes[a] (remaining s.tables.axes[a] s.axes[a].dir s.axes[a].pos g) s.axes[a].v } s := by
  simp only [stepAxis, hu, if_true, axisStep, hs, hn, hg, putAxis, Bool.false_eq_true, if_false]

/-! ## The lines (R106, R181) -/

/-- An axis is energised outside IDLE and FAULT (R106). -/
theorem energised_iff {x : Axis} : energised x = true ↔ x.state ≠ .idle ∧ ∀ why, x.state ≠ .fault why := by
  unfold energised
  cases x.state <;> simp

theorem enableLine_iff : enableLine s a = true ↔
    s.tables.axes[a].inUse = true ∧ s.axes[a].state ≠ .idle ∧ ∀ why, s.axes[a].state ≠ .fault why := by
  rw [enableLine, Bool.and_eq_true, energised_iff]

theorem axisDirLine_iff : axisDirLine s a = true ↔ s.axes[a].dir = .reverse := by
  rw [axisDirLine, beq_iff_eq]

/-- The lines of an axis, once the pins are released. -/
theorem pins_axis (h : s.pinsLow = false) (a : AxisId) :
    (pins s).axEn[a] = enableLine s a ∧ (pins s).axDir[a] = axisDirLine s a ∧ (pins s).axStep[a] = s.axes[a].pulses ∧
      (pins s).axStepLast[a] = s.axes[a].lastPulses := by
  simp only [pins, h, Bool.false_eq_true, if_false]
  exact ⟨tab_get _ a, tab_get _ a, tab_get _ a, tab_get _ a⟩

end

/-- Settles O60: the velocity by the profile and its bounds, and each line as the pins give it. -/
theorem profileAndAxisLines : Obligations.ProfileAndAxisLines := by
  refine ⟨fun s a g hu hs hn hg => ?_, fun s a h => ?_, fun s h => if_pos h⟩
  · intro r x d b
    have stepped : (stepAxis a s).axes[a] = { x with v := profile r d x.v } := by
      rw [stepAxis_seeking hu hs hn hg]
      exact get_set_same _ _ _
    refine ⟨stepped, fun hd hr hv => ?_⟩
    rw [stepped]
    exact profile_bounds hd hr hv
  · obtain ⟨enable, dir, step, last⟩ := pins_axis h a
    rw [enable, dir]
    exact ⟨enableLine_iff, axisDirLine_iff, step, last⟩

end Sys2Proof.Machine
end

section
/-! AXIS SEEK by EXECUTE on an axis at rest (R108, R110, R112). -/

namespace Sys2Proof.Machine

theorem decodeAction_axisSeek (a : AxisId) (hi lo : Nat) :
    decodeAction ⟨16, a.val, hi, lo⟩ = some (.axisSeek a (hi * 256 + lo)) := by
  simp [decodeAction]

/-- Going round N steps from one position reaches no other position with nothing left (R108). -/
theorem roundDistance_ne_zero {N p t : Nat} (hp : p < N) (ht : t < N) (h : t ≠ p) : (t + N - p) % N ≠ 0 := by
  obtain lt | gt := Nat.lt_or_gt_of_ne h
  · rw [Nat.mod_eq_of_lt (by omega)]
    omega
  · rw [show t + N - p = (t - p) + N by omega, Nat.add_mod_right, Nat.mod_eq_of_lt (by omega)]
    omega

section
variable {r : AxisRec} {x : Axis} {p : Nat}

/-- Another position of the axis lies at a distance, in either direction (R108). -/
theorem remaining_ne_zero {t : Nat} (dir : Dir) (hx : PosInRange r x.pos) (ht : PosInRange r t) (h : t ≠ x.pos) :
    remaining r dir x.pos t ≠ 0 := by
  unfold PosInRange at hx ht
  unfold remaining
  cases hk : r.kind <;> simp only [hk] at hx ht ⊢
  · cases dir
    · exact roundDistance_ne_zero hx ht h
    · exact roundDistance_ne_zero ht hx h.symm
  · omega

/-- A target is a position of an axis that stands at one (R108). -/
theorem takeTarget_of_stands (p : Nat) (hx : PosInRange r x.pos) : PosInRange r (takeTarget r p) := by
  unfold PosInRange at *
  unfold takeTarget
  cases hk : r.kind <;> simp only [hk] at hx ⊢
  · exact Nat.mod_lt _ (Nat.zero_lt_of_lt hx)
  · exact Nat.min_le_right ..

/-- A LINEAR axis travels toward its target (R108). -/
theorem chooseDir_linear {t : Nat} (hk : r.kind = .linear) (h : t ≠ p) :
    chooseDir r p t = if p < t then .forward else .reverse := by
  simp only [chooseDir, hk]
  obtain lt | gt := Nat.lt_or_gt_of_ne h
  · rw [if_pos lt, if_neg (Nat.lt_asymm lt)]
  · rw [if_neg (Nat.lt_asymm gt), if_pos gt]

/-- A ROTARY axis travels forward, or with policy SHORTEST in reverse where that is the shorter way (R108). -/
theorem chooseDir_rotary {t : Nat} (hk : r.kind = .rotary) (hp : r.policy = .forward ∨ r.policy = .shortest) :
    chooseDir r p t =
      if r.policy = .shortest ∧ (p + r.steps - t) % r.steps < (t + r.steps - p) % r.steps then .reverse else .forward := by
  obtain hp | hp := hp <;> simp [chooseDir, remaining, hk, hp]

/-- The axis that leaves rest for the position `p`, its follow-on-wake mark cleared (R110, R112). -/
def departed (r : AxisRec) (p : Nat) (x : Axis) : Axis :=
  { x with
    state := .seeking, target := some (takeTarget r p), v := r.vs, acc := 0, runSpeed := none, turn := none,
    stopPt := none, dial := none, holdTimer := none, arrived := false, follow := false
    dir := chooseDir r x.pos (takeTarget r p) }

/-- A seek order to another position, taken at rest, departs and is no stand (R110). -/
theorem seekOrder_atRest (hr : atRest x = true) (hd : remaining r x.dir x.pos (takeTarget r p) ≠ 0) :
    { (seekOrder r p x).1 with follow := false } = departed r p x ∧ (seekOrder r p x).2 = false := by
  simp only [seekOrder, if_neg hd, hr, if_true, departed, and_self]

end

/-- No state of an axis at rest refuses a seek (Table 6-1). -/
theorem stateRefuses_seek_atRest {x : Axis} {p : Nat} (h : atRest x = true) : stateRefuses (.seek p) x.state = false := by
  cases e : x.state with
  | homing | fault => simp [atRest, e] at h
  | idle | holding | seeking | running | stopping | following => rfl

/-- An accepted action that leaves the node ACTIVE brings nothing but its own effect. -/
theorem runOne_accepted_of_active {code position : Nat} {act : Action} {s u : State} (ho : s.owed = [])
    (h : runAction code act s = (none, u)) (hu : u.node = .active) : runOne code position act s = (none, u) := by
  simp only [runOne, settle_of_nothing_owed ho, h, afterEvent_of_active hu]

section
variable {a : AxisId} {s : State} {p : Nat}

/-- AXIS SEEK of an unlocked axis at rest with a known position is not refused (R112). -/
theorem orderRefusal_seek (hl : axisLockers s a = []) (hr : atRest s.axes[a] = true) (hk : s.axes[a].known = true) :
    orderRefusal a (.seek p) s = none := by
  have order : (AxisOrder.seek p == .home) = false := rfl
  simp only [orderRefusal, axisLocked, hl, stateRefuses_seek_atRest hr, order, hk, recordRefuses, List.isEmpty_nil,
    Bool.not_true, Bool.and_false, Bool.false_and, Bool.or_self, Bool.false_eq_true, if_false]

/-- AXIS SEEK to another position of an unlocked axis at rest with a known position (R110, R112). -/
theorem axisOrder_seek_atRest (hl : axisLockers s a = []) (hr : atRest s.axes[a] = true) (hk : s.axes[a].known = true)
    (hd : remaining s.tables.axes[a] s.axes[a].dir s.axes[a].pos (takeTarget s.tables.axes[a] p) ≠ 0) :
    axisOrder a (.seek p) s = (none, setAxis a (departed s.tables.axes[a] p s.axes[a]) s) := by
  obtain ⟨departs, moving⟩ := seekOrder_atRest hr hd
  simp only [axisOrder, orderRefusal_seek hl hr hk, orderEffect, putAxis, departs, moving, Bool.false_eq_true, if_false]

theorem runAction_axisSeek {code : Nat} (ha : s.node = .active) (hu : s.tables.axes[a].inUse = true) :
    runAction code (.axisSeek a p) s = axisOrder a (.seek p) s := by
  simp only [runAction, whenInUse, hu, if_true, whenAwake, resting, ha, Bool.false_eq_true, if_false]

/-- EXECUTE of one AXIS SEEK to another position, of an unlocked axis at rest in an ACTIVE node (R110, R112, R161). -/
theorem exec_axisSeek_atRest {via : Opened} {hi lo : Byte} (hp : p = hi.toNat * 256 + lo.toNat)
    (ho : s.owed = []) (ha : s.node = .active) (hu : s.tables.axes[a].inUse = true) (hl : axisLockers s a = [])
    (hr : atRest s.axes[a] = true) (hk : s.axes[a].known = true)
    (hd : remaining s.tables.axes[a] s.axes[a].dir s.axes[a].pos (takeTarget s.tables.axes[a] p) ≠ 0) :
    exec (.execute via [16, byte a.val, hi, lo]) s = .next (outcome via 6 .ok [0, 0xFF]
      (setAxis a (departed s.tables.axes[a] p s.axes[a]) (closeUnit s))) := by
  subst hp
  have run := (runAction_axisSeek (code := 0) (s := closeUnit s) ha hu).trans (axisOrder_seek_atRest hl hr hk hd)
  have one := runOne_accepted_of_active (position := 0) (s := closeUnit s) ho run ha
  exact exec_execute_one (k := 16) (by omega) (decodeAction_axisSeek a hi.toNat lo.toNat) one ho

end

/-- Settles O44: the order is not refused, and it is taken at rest toward another position. -/
theorem executeAxisSeekFromRest : Obligations.ExecuteAxisSeekFromRest := by
  intro via a hi lo s ho ha hu hk hs hl r x hpos g hg
  have rest : atRest x = true := by
    obtain h | h | ⟨h, hv⟩ := hs
    · simp only [atRest, x, h]
    · simp only [atRest, x, h]
    · simp only [atRest, x, h, hv, beq_self_eq_true]
  have stands : PosInRange r x.pos ∧ (r.kind = .rotary → r.policy = .forward ∨ r.policy = .shortest) := by
    unfold PosInRange
    cases k : r.kind <;> simp only [k] at hpos ⊢
    · exact ⟨hpos.1, fun _ => hpos.2⟩
    · exact ⟨hpos, nofun⟩
  have dir : chooseDir r x.pos g = (match r.kind with
      | .linear => if x.pos < g then .forward else .reverse
      | .rotary =>
        if r.policy = .shortest ∧ (x.pos + r.steps - g) % r.steps < (g + r.steps - x.pos) % r.steps then .reverse
        else .forward) := by
    split
    · next k => exact chooseDir_linear k hg
    · next k => exact chooseDir_rotary k (stands.2 k)
  have away : remaining r x.dir x.pos g ≠ 0 :=
    remaining_ne_zero x.dir stands.1 (takeTarget_of_stands (hi.toNat * 256 + lo.toNat) stands.1) hg
  rw [exec_axisSeek_atRest rfl ho ha hu (axisLockers_eq_nil hl) rest hk away, departed,
    show chooseDir s.tables.axes[a] s.axes[a].pos (takeTarget s.tables.axes[a] (hi.toNat * 256 + lo.toNat)) = _ from dir]
  rfl

end Sys2Proof.Machine
end

section
/-! The frame period that is left over: no event but the Axis Unit's taking of it touches its mark, so a scene step that finds it
leaves none over (R107, log entry 7). -/

namespace Sys2Proof.Machine

/-! ## The units -/

/-- The updates of the Reservation, Train and Axis Units leave the mark. -/
theorem axisDue_of_others {s t : State} (h : othersOf t = othersOf s) : t.axisDue = s.axisDue :=
  show (othersOf t).axisDue = (othersOf s).axisDue from congrArg State.axisDue h

@[simp] theorem draw_axisDue (s : State) : (draw s).2.axisDue = s.axisDue := axisDue_of_others ((closed_others s).draw rfl)

@[simp] theorem arrange_axisDue {α : Type} (xs : List α) (s : State) : (arrange xs s).2.axisDue = s.axisDue :=
  axisDue_of_others ((closed_others s).arrange rfl)

@[simp] theorem appendCue_axisDue (code : Nat) (source : Source) (s : State) :
    (appendCue code source s).axisDue = s.axisDue := axisDue_of_others ((closed_others s).cue _ _ _ rfl)

/-- What follows the axes' own frame periods leaves the other units' fields. -/
theorem axisPeriod_others (s : State) : othersOf (axisPeriod s) = othersOf { s with axisDue := false } := by
  have units := closed_others { s with axisDue := false }
  exact foldl_keeps (P := fun u => othersOf u = _) _ _ (fun _ _ _ hu => units.periodEvent hu) _ (units.arrange rfl)

@[simp] theorem axisPeriod_axisDue (s : State) : (axisPeriod s).axisDue = false := axisDue_of_others (axisPeriod_others s)

/-! ## Clock and players -/

@[simp] theorem handOn_axisDue (rs : List Req) (s : State) : (handOn rs s).axisDue = s.axisDue := arrange_axisDue rs s

@[simp] theorem wake_axisDue (src : WakeSource) (s : State) : (wake src s).axisDue = s.axisDue := by
  unfold wake
  split <;> simp

@[simp] theorem fireAlarm_axisDue (i : AlarmId) (s : State) : (fireAlarm i s).axisDue = s.axisDue := by
  unfold fireAlarm
  dsimp only
  split <;> simp

/-- Alarms fired one after another leave the mark. -/
theorem fireAlarms_axisDue (is : List AlarmId) (s : State) :
    (is.foldl (fun u i => fireAlarm i u) s).axisDue = s.axisDue :=
  foldl_keeps (P := fun u => u.axisDue = s.axisDue) _ _ (fun u i _ hu => (fireAlarm_axisDue i u).trans hu) s rfl

@[simp] theorem stepClock_axisDue (s : State) : (stepClock s).axisDue = s.axisDue := by
  unfold stepClock
  split
  · unfold applyPendingSet
    split <;> rfl
  · split
    · exact fireAlarms_axisDue _ _
    · rfl

@[simp] theorem arrive_axisDue (p : PlayerId) (i : Nat) (s : State) : (arrive p i s).2.axisDue = s.axisDue := rfl

@[simp] theorem fireEnd_axisDue (p : PlayerId) (s : State) : (fireEnd p s).2.axisDue = s.axisDue := by
  unfold fireEnd
  dsimp only
  split <;> simp

@[simp] theorem fireEntry_axisDue (p : PlayerId) (s : State) : (fireEntry p s).2.2.axisDue = s.axisDue := by
  unfold fireEntry
  dsimp only
  split
  · simp
  · split <;> simp

@[simp] theorem fireEntries_axisDue (fuel left : Nat) (p : PlayerId) (s : State) :
    (fireEntries fuel left p s).axisDue = s.axisDue := by
  induction fuel generalizing left s with
  | zero => rfl
  | succ fuel ih =>
    unfold fireEntries
    dsimp only
    split
    · split <;> simp [ih]
    · simp

@[simp] theorem stepPlayer_axisDue (p : PlayerId) (s : State) : (stepPlayer p s).axisDue = s.axisDue := by
  unfold stepPlayer countdownEnds
  dsimp only
  split
  · split <;> simp
  all_goals rfl

@[simp] theorem stepLists_axisDue (s : State) : (stepLists s).axisDue = s.axisDue :=
  foldl_keeps (P := fun u => u.axisDue = s.axisDue) _ _ (fun u p _ hu => (stepPlayer_axisDue p u).trans hu) s rfl

/-! ## The Chain Unit and Node Control -/

@[simp] theorem stepChain_axisDue (s : State) : (stepChain s).axisDue = s.axisDue := by
  unfold stepChain startCycle
  dsimp only
  repeat' split
  all_goals rfl

/-- The completion check changes the node state and its own mark alone (R171). -/
theorem nodeCheck_eq (s : State) : ∃ c n, nodeCheck s = { s with checkDue := c, node := n } := by
  unfold nodeCheck
  split
  · split
    · exact ⟨true, s.node, rfl⟩
    · split
      · exact ⟨s.checkDue, .dormant, rfl⟩
      · exact ⟨s.checkDue, s.node, rfl⟩
  · exact ⟨s.checkDue, s.node, rfl⟩

/-- So does the check that follows an event. -/
theorem afterEvent_eq (s t : State) : ∃ c n, afterEvent s t = { t with checkDue := c, node := n } := by
  unfold afterEvent
  split
  · exact nodeCheck_eq t
  · exact ⟨t.checkDue, t.node, rfl⟩

@[simp] theorem nodeCheck_axisDue (s : State) : (nodeCheck s).axisDue = s.axisDue := by
  obtain ⟨c, n, e⟩ := nodeCheck_eq s
  rw [e]

@[simp] theorem afterEvent_axisDue (s t : State) : (afterEvent s t).axisDue = t.axisDue := by
  obtain ⟨c, n, e⟩ := afterEvent_eq s t
  rw [e]

@[simp] theorem dueCheck_axisDue (s : State) : (dueCheck s).axisDue = s.axisDue := by
  unfold dueCheck
  split <;> simp

@[simp] theorem runReq_axisDue (r : Req) (s : State) : (runReq r s).axisDue = s.axisDue := by
  have units := closed_others s
  cases r with
  | restClock hold => cases hold <;> rfl
  | restLists | wakeClock | wakeLists => rfl
  | restTrains => exact axisDue_of_others (units.restTrains rfl)
  | restAxes => exact axisDue_of_others (units.restAxes rfl)
  | wakeAxes => exact axisDue_of_others (units.wakeAxes rfl)
  | stopTrains | faultTrains | linkTrains => exact axisDue_of_others (units.haltAll rfl)
  | stopAxes => exact axisDue_of_others (units.allStopAxes rfl)
  | faultAxes => exact axisDue_of_others (units.chainFaultAxes rfl)
  | linkAxes => exact axisDue_of_others (units.linkLostAxes rfl)

@[simp] theorem takeReqs_axisDue (left rs : List Req) (s : State) : (takeReqs left rs s).axisDue = s.axisDue := by
  induction rs generalizing s with
  | nil => rfl
  | cons r rs ih => simp [takeReqs, ih, reqEvent]

@[simp] theorem settle_axisDue (s : State) : (settle s).axisDue = s.axisDue := by
  unfold settle
  split <;> simp

@[simp] theorem finish_axisDue (s : State) : (finish s).axisDue = s.axisDue := takeReqs_axisDue ..

/-! ## The parts of a scene step -/

/-- A block's part of the scene step leaves the mark. -/
theorem partEvent_axisDue {p : Part} (hp : p ∈ stepParts) (s : State) : (partEvent p s).axisDue = s.axisDue := by
  have units := closed_others (settle s)
  have run : checksItself p = false ∧ (runPart p (settle s)).axisDue = (settle s).axisDue := by
    simp only [stepParts, List.mem_cons, List.not_mem_nil, or_false] at hp
    obtain rfl | rfl | rfl | rfl | rfl | rfl | rfl | rfl | rfl := hp
    · exact ⟨rfl, stepClock_axisDue _⟩
    · exact ⟨rfl, stepLists_axisDue _⟩
    · exact ⟨rfl, rfl⟩
    · exact ⟨rfl, rfl⟩
    · exact ⟨rfl, axisDue_of_others (units.stepPoints rfl)⟩
    · exact ⟨rfl, axisDue_of_others (units.stepTrains rfl)⟩
    · exact ⟨rfl, axisDue_of_others (units.stepAxes rfl)⟩
    · exact ⟨rfl, stepChain_axisDue _⟩
    · exact ⟨rfl, nodeCheck_axisDue _⟩
  simp only [partEvent, run.1, Bool.false_eq_true, if_false, afterEvent_axisDue, run.2, settle_axisDue]

/-- A frame period taken is left over no more. -/
theorem partEvent_period_axisDue (s : State) : (partEvent .period s).axisDue = false := by
  simp only [partEvent, checksItself, runPart, Bool.false_eq_true, if_false, afterEvent_axisDue, axisPeriod_axisDue]

/-- Parts of a scene step with the frame period among them, or from a state that has none over, leave none over. -/
theorem runParts_axisDue {ps : List Part} (hp : ∀ p ∈ ps, p ∈ stepParts ∨ p = .period) {s : State}
    (h : s.axisDue = true → .period ∈ ps) : (runParts ps s).axisDue = false := by
  induction ps generalizing s with
  | nil => exact Bool.eq_false_iff.2 fun due => List.not_mem_nil (h due)
  | cons p ps ih =>
    refine ih (fun q hq => hp q (List.mem_cons_of_mem p hq)) fun due => ?_
    obtain hs | rfl := hp p List.mem_cons_self
    · rw [partEvent_axisDue hs] at due
      refine (List.mem_cons.1 (h due)).resolve_left fun e => ?_
      subst e
      revert hs
      decide
    · rw [partEvent_period_axisDue] at due
      cases due

/-- A scene step leaves no frame period over (R107). -/
theorem sceneStep_axisDue (s : State) : (sceneStep [] s).axisDue = false := by
  refine runParts_axisDue (fun p hp => ?_) fun due => mem_arrange.2 ?_
  · have parts := mem_arrange.1 hp
    simp only [sceneParts, List.append_nil, List.mem_append] at parts
    refine parts.imp_right fun h => ?_
    split at h
    · exact List.mem_singleton.1 h
    · cases h
  · have found : s.axisDue = true := (arrange_axisDue _ (stepMade s)).symm.trans due
    simp [sceneParts, found]

@[simp] theorem markOwn_axisDue (s : State) : (markOwn s).axisDue = s.axisDue := by
  unfold markOwn
  split <;> rfl

/-- A scene step of the fallback timebase leaves no frame period over (R107, R144). -/
theorem fallback_axisDue {s : State} (hl : s.link.state ≠ .locked) (hg : 40 ≤ s.link.stepGap) :
    (fallback s).axisDue = false := by
  have stepped : fallback s = markOwn (sceneStep [] s) := by
    unfold fallback
    split
    · next e => exact absurd e hl
    · exact if_pos hg
    · exact if_pos hg
  rw [stepped, markOwn_axisDue, sceneStep_axisDue]

end Sys2Proof.Machine
end

section
/-! What the frame period of the Axis Unit does to one axis: the tellings and halts that follow the axes' own frame periods
change no axis but one that passes its home limit (R81, R107, R116, R118). -/

namespace Sys2Proof.Machine

/-! ## Tellings and halts -/

/-- `s` is `z` but for sections, trains and notices. -/
def ButRails (z s : State) : Prop := ∃ v w n, s = { z with secs := v, trains := w, notices := n }

namespace ButRails

variable {z s : State}

theorem refl (s : State) : ButRails s s := ⟨s.secs, s.trains, s.notices, rfl⟩

theorem axes (h : ButRails z s) : s.axes = z.axes := by
  obtain ⟨v, w, n, rfl⟩ := h
  rfl

theorem choices (h : ButRails z s) : s.choices = z.choices := by
  obtain ⟨v, w, n, rfl⟩ := h
  rfl

theorem setSec {n : SectionId} {x : Section} (h : ButRails z s) : ButRails z (setSec n x s) := by
  obtain ⟨v, w, n, rfl⟩ := h
  exact ⟨_, _, _, rfl⟩

theorem setTrain {t : TrainId} {x : Train} (h : ButRails z s) : ButRails z (setTrain t x s) := by
  obtain ⟨v, w, n, rfl⟩ := h
  exact ⟨_, _, _, rfl⟩

theorem latch {k : NoticeKind} {d : Detail} (h : ButRails z s) : ButRails z (latch k d s) := by
  obtain ⟨v, w, n, rfl⟩ := h
  exact ⟨_, _, _, rfl⟩

theorem dequeue {t : TrainId} (h : ButRails z s) : ButRails z (dequeue t s) := by
  unfold Machine.dequeue
  split
  · exact h
  · exact h.setSec.setTrain

theorem halt {reason : HaltReason} {t : TrainId} (h : ButRails z s) : ButRails z (halt reason t s) := by
  unfold Machine.halt
  split
  · exact h.dequeue.setTrain.latch
  · exact h

theorem tellSet {t : TrainId} (h : ButRails z s) : ButRails z (tellSet t s) := by
  unfold Machine.tellSet
  dsimp only
  split
  · exact h
  · split
    iterate 4 exact h.setTrain
    all_goals exact h

theorem tellSetting {t : TrainId} (h : ButRails z s) : ButRails z (tellSetting t s) := by
  unfold Machine.tellSetting
  dsimp only
  split
  · exact h
  · split
    iterate 2 exact h.setTrain.halt
    all_goals exact h.setTrain

theorem checkSetting {n : SectionId} (h : ButRails z s) : ButRails z (checkSetting n s) := by
  unfold Machine.checkSetting
  split
  · split
    · exact h.setSec.tellSet
    · exact h
  all_goals exact h

theorem axisStandTold {a : AxisId} (h : ButRails z s) : ButRails z (axisStandTold a s) := by
  refine foldl_keeps _ _ (fun u n _ hu => ?_) _ h
  split
  · exact hu.checkSetting
  · exact hu

theorem axisFaultTold {a : AxisId} (h : ButRails z s) : ButRails z (axisFaultTold a s) := by
  refine foldl_keeps _ _ (fun u n _ hu => ?_) _ h
  split
  · split
    · exact hu.setSec.tellSetting
    · exact hu
  · exact hu

end ButRails

@[simp] theorem draw_axes (s : State) : (draw s).2.axes = s.axes := by
  obtain ⟨cs, n, e⟩ := draw_snd s
  rw [e]

@[simp] theorem arrange_axes {α : Type} (xs : List α) (s : State) : (arrange xs s).2.axes = s.axes := by
  obtain ⟨cs, n, e⟩ := arrange_snd xs s
  rw [e]

@[simp] theorem axisStandTold_axes (a : AxisId) (s : State) : (axisStandTold a s).axes = s.axes :=
  (ButRails.refl s).axisStandTold.axes

@[simp] theorem axisFaultTold_axes (a : AxisId) (s : State) : (axisFaultTold a s).axes = s.axes :=
  (ButRails.refl s).axisFaultTold.axes

@[simp] theorem haltOwners_axes (a : AxisId) (s : State) : (haltOwners a s).axes = s.axes := by
  have halts := foldl_keeps (P := ButRails (arrange (axisLockers s a).dedup s).2) (fun u t => halt .guard t u)
    (arrange (axisLockers s a).dedup s).1 (fun _ _ _ hu => hu.halt) _ (ButRails.refl _)
  exact halts.axes.trans (arrange_axes _ s)

/-- A fault changes the faulted axis alone (R118). -/
@[simp] theorem faultAxis_axes (reason : AxisFault) (a : AxisId) (s : State) :
    (faultAxis reason a s).axes = s.axes.set a (faultedAxis reason s.axes[a]) := by
  unfold faultAxis
  dsimp only
  split
  · split <;> simp
  · simp

/-! ## The frame period of the Axis Unit -/

/-- What a frame period brought to another axis, or a stand, changes no axis here. -/
theorem periodEvent_axis {e : AxisId × PeriodEvent} {a : AxisId} (h : e.1 = a → e.2 ≠ .homeLimit) (s : State) :
    (periodEvent e s).axes[a] = s.axes[a] := by
  unfold periodEvent
  split
  · rfl
  · rw [axisStandTold_axes]
  · next limit =>
    rw [faultAxis_axes]
    exact get_set_ne _ _ fun same => h same.symm limit

/-- The events of the axes' frame periods, in axis order. -/
def periodEvents (s : State) : List (AxisId × PeriodEvent) :=
  (every 6).filterMap fun a => if (frameOf s a).2 = .none then none else some (a, (frameOf s a).2)

theorem mem_periodEvents {s : State} {e : AxisId × PeriodEvent} (h : e ∈ periodEvents s) :
    e.2 = (frameOf s e.1).2 ∧ e.2 ≠ .none := by
  obtain ⟨a, -, ha⟩ := List.mem_filterMap.1 h
  split at ha
  · cases ha
  · next some_event =>
    obtain rfl := Option.some.inj ha
    exact ⟨rfl, some_event⟩

/-- The state after the axes' own frame periods. -/
def framesTaken (s : State) : State := { s with axisDue := false, axes := tab fun a => (frameOf s a).1 }

theorem axisPeriod_eq (s : State) : axisPeriod s =
    (arrange (periodEvents s) (framesTaken s)).1.foldl (fun u e => periodEvent e u)
      (arrange (periodEvents s) (framesTaken s)).2 := rfl

/-- An axis that does not pass its home limit has its own frame period, and nothing else. -/
theorem axisPeriod_axis {s : State} {a : AxisId} (h : (frameOf s a).2 ≠ .homeLimit) :
    (axisPeriod s).axes[a] = (frameOf s a).1 := by
  rw [axisPeriod_eq]
  refine foldl_keeps (P := fun u => u.axes[a] = (frameOf s a).1) _ _ (fun u e he hu => ?_) _ ?_
  · rw [periodEvent_axis (fun same => ?_), hu]
    rw [(mem_periodEvents (mem_arrange.1 he)).1, same]
    exact h
  · rw [arrange_axes]
    exact tab_get _ a

/-- Where one axis alone can bring an event, and that a stand, nothing is drawn. -/
theorem axisPeriod_choices {s : State} {a : AxisId} (h : (frameOf s a).2 ≠ .homeLimit)
    (alone : ∀ b, b ≠ a → (frameOf s b).2 = .none) : (axisPeriod s).choices = s.choices := by
  have short : (periodEvents s).length ≤ 1 := by
    have only : periodEvents s = ((every 6).filter (· == a)).filterMap fun b =>
        if (frameOf s b).2 = .none then none else some (b, (frameOf s b).2) := by
      rw [periodEvents, List.filterMap_filter]
      refine List.filterMap_congr fun b _ => ?_
      by_cases e : b = a
      · rw [e, beq_self_eq_true, if_pos rfl]
      · rw [if_pos (alone b e), beq_eq_false_iff_ne.2 e]
        rfl
    rw [only, filter_every_one (f := (· == a)) (beq_self_eq_true a) fun b e => beq_eq_false_iff_ne.2 e]
    exact List.length_filterMap_le _ _
  rw [axisPeriod_eq, arrange_short _ short]
  refine foldl_keeps (P := fun u => u.choices = s.choices) _ _ (fun u e he hu => ?_) _ rfl
  obtain ⟨brought, event⟩ := mem_periodEvents he
  have here : e.1 = a := Classical.not_not.1 fun ne => event (brought.trans (alone e.1 ne))
  unfold periodEvent
  split
  · exact hu
  · exact ((ButRails.refl u).axisStandTold.choices).trans hu
  · next limit =>
    rw [brought, here] at limit
    exact absurd limit h

/-- An axis whose step generator is at rest brings no event (R107). -/
theorem frameOf_still {s : State} {b : AxisId} (h : s.tables.axes[b].inUse = true → generates s.axes[b] = false) :
    (frameOf s b).2 = .none := by
  unfold frameOf
  split
  · next used => simp only [axisFrame, h used, Bool.false_eq_true, if_false]
  · rfl

end Sys2Proof.Machine
end

section
/-! FRAME_PERIOD for a SEEKING axis (R107, R115, R181, log entries 1, 7 and 31). -/

namespace Sys2Proof.Machine

/-! ## One frame period of a SEEKING axis (R107) -/

/-- The axis after its frame period with target `g`, but for its pulses: a step each time the accumulator reaches 4,000, and a stand
at the target (R107, R115). -/
def sought (r : AxisRec) (g : Nat) (x : Axis) : Axis :=
  if x.acc + x.v < 4000 then { x with acc := x.acc + x.v }
  else if stepPos r x.dir x.pos = g then
    { x with
      state := if r.holdSteps = 0 then .idle else .holding
      holdTimer := if r.holdSteps = 0 then none else some r.holdSteps
      pos := stepPos r x.dir x.pos, v := 0, acc := 0, target := none, runSpeed := none, stopPt := none, homePhase := none,
      homeCount := 0, dial := none, arrived := true }
  else { x with acc := x.acc + x.v - 4000, pos := stepPos r x.dir x.pos }

/-- The pulses of the frame period. -/
def soughtPulses (x : Axis) : Nat := if 4000 ≤ x.acc + x.v then 1 else 0

section
variable {r : AxisRec} {x : Axis} {g : Nat}

/-- The pulses counted so far do not change the motion. -/
theorem sought_withPulses (r : AxisRec) (g : Nat) (x : Axis) (n m : Nat) :
    sought r g { x with pulses := n, lastPulses := m } = { sought r g x with pulses := n, lastPulses := m } := by
  unfold sought
  dsimp only
  split
  · rfl
  · split <;> rfl

/-- The step of a SEEKING axis without a turn-about reaches its target, or goes by (R107). -/
theorem reached_seeking (hs : x.state = .seeking) (hg : x.target = some g) (hn : x.turn = none) :
    reached r x = if x.pos = g then (toHolding r true x, .stand) else (x, .none) := by
  by_cases h : x.pos = g
  · simp only [reached, hs, hg, h, if_true]
  · have ne : some g ≠ some x.pos := fun e => h (Option.some.inj e).symm
    simp only [reached, hs, hg, hn, if_neg ne, if_neg h]

/-- The axis one step on, with its pulse (R107). -/
def stepped (r : AxisRec) (x : Axis) : Axis :=
  { x with acc := x.acc + x.v - 4000, pos := stepPos r x.dir x.pos, pulses := x.pulses + 1 }

/-- A frame period without a step adds v to the accumulator of a SEEKING axis (R107). -/
theorem axisFrame_noStep (hs : x.state = .seeking) (h : x.acc + x.v < 4000) :
    axisFrame r x = ({ x with acc := x.acc + x.v }, .none) := by
  simp only [axisFrame, stepDue, generates, hs, Nat.not_le.2 h, decide_false, Bool.and_false, Bool.false_eq_true, if_false,
    if_true]

/-- A frame period with a step of a SEEKING axis, which has no home limit (R107, R116). -/
theorem axisFrame_step (hs : x.state = .seeking) (h : ¬ x.acc + x.v < 4000) :
    axisFrame r x = reached r (stepped r x) := by
  have due : stepDue x = true := by
    simp only [stepDue, generates, hs, Nat.not_lt.1 h, decide_true, Bool.and_self]
  have noLimit : homeLimitDue r x = false := by
    rw [homeLimitDue, hs]
    rfl
  have runs : generates x = true := by simp only [generates, hs]
  rw [axisFrame, if_pos runs, if_pos due, noLimit, if_neg Bool.false_ne_true, stepped]

/-- The frame period of a SEEKING axis without a turn-about: its motion and its pulse, and no home limit (R107). -/
theorem axisFrame_seeking (hs : x.state = .seeking) (hg : x.target = some g) (hn : x.turn = none) :
    (axisFrame r x).1 = { sought r g x with pulses := x.pulses + soughtPulses x } ∧ (axisFrame r x).2 ≠ .homeLimit := by
  by_cases h : x.acc + x.v < 4000
  · rw [axisFrame_noStep hs h, sought, if_pos h, soughtPulses, if_neg (Nat.not_le.2 h)]
    exact ⟨rfl, nofun⟩
  · rw [axisFrame_step hs h, reached_seeking (x := stepped r x) hs hg hn, sought, if_neg h, soughtPulses,
      if_pos (Nat.not_lt.1 h)]
    by_cases hp : stepPos r x.dir x.pos = g
    · rw [if_pos hp, if_pos (c := (stepped r x).pos = g) hp]
      exact ⟨by simp only [toHolding, stepped, hn], nofun⟩
    · rw [if_neg hp, if_neg (c := (stepped r x).pos = g) hp]
      exact ⟨rfl, nofun⟩

end

/-- The frame period of an in-use SEEKING axis without a turn-about; its step line gives no pulse while held low (R181). -/
theorem frameOf_seeking {s : State} {a : AxisId} {g : Nat} (hu : s.tables.axes[a].inUse = true)
    (hs : s.axes[a].state = .seeking) (hg : s.axes[a].target = some g) (hn : s.axes[a].turn = none) :
    (frameOf s a).1 = { sought s.tables.axes[a] g s.axes[a] with
      pulses := if s.pinsLow then 0 else s.axes[a].pulses + soughtPulses s.axes[a] } ∧
      (frameOf s a).2 ≠ .homeLimit := by
  obtain ⟨moved, noLimit⟩ := axisFrame_seeking (r := s.tables.axes[a]) hs hg hn
  unfold frameOf
  rw [if_pos hu]
  refine ⟨?_, noLimit⟩
  dsimp only
  rw [moved, quiet]
  cases s.pinsLow <;> rfl

/-! ## The start of a frame period (R138) -/

/-- The state as the ports and counts enter a new frame period, before the Axis Unit's choice. -/
def periodBegun (s : State) : State :=
  let u := answerDone (turnPulses s)
  placeOwn (setLink (periodLink u.tables.node.timeout u.link) (freshTakes u))

theorem beginPeriod_eq (s : State) : beginPeriod s = axisFramePeriod (periodBegun (flushPeriod s)) := rfl

/-- An answer done changes the link, the transfers and the notices alone (R163, R166). -/
theorem answerDone_eq (s : State) : ∃ l x n, answerDone s = { s with link := l, xfer := x, notices := n } := by
  unfold answerDone
  split
  · next k _ => cases k <;> exact ⟨_, _, _, rfl⟩
  all_goals exact ⟨_, _, _, rfl⟩

theorem placeOwn_eq (s : State) : ∃ l, placeOwn s = { s with link := l } := by
  unfold placeOwn
  split
  · split <;> exact ⟨_, rfl⟩
  all_goals exact ⟨_, rfl⟩

/-- With no period left over there is none to take. -/
theorem flushPeriod_of_none {s : State} (hd : s.axisDue = false) : flushPeriod s = s := by
  rw [flushPeriod, hd, if_neg Bool.false_ne_true]

/-- The start of a frame period changes the step lines, the link, the transfers, the notices and the count of takes. -/
theorem periodBegun_eq (s : State) :
    ∃ l x n c, periodBegun s = { turnPulses s with link := l, xfer := x, notices := n, cue := c } := by
  obtain ⟨l, x, n, e⟩ := answerDone_eq (turnPulses s)
  obtain ⟨k, f⟩ := placeOwn_eq (setLink (periodLink s.tables.node.timeout l) (freshTakes (answerDone (turnPulses s))))
  refine ⟨k, x, n, { s.cue with takes := 0 }, ?_⟩
  unfold periodBegun
  rw [e] at f ⊢
  exact f

/-! ## The two choices (log entry 7) -/

section
variable {s : State} {c : Nat} {rest : List Nat}

theorem draw_cons (h : s.choices = c :: rest) : draw s = (c, { s with choices := rest }) := by
  simp only [draw, h]

/-- At an even choice the Axis Unit takes the period now. -/
theorem axisFramePeriod_even (h : s.choices = c :: rest) (hc : c % 2 = 0) :
    axisFramePeriod s = partEvent .period { s with choices := rest } := by
  simp only [axisFramePeriod, draw_cons h, hc, if_true]

/-- At an odd one it is left over. -/
theorem axisFramePeriod_odd (h : s.choices = c :: rest) (hc : c % 2 = 1) :
    axisFramePeriod s = { s with choices := rest, axisDue := true } := by
  simp only [axisFramePeriod, draw_cons h, hc, Nat.one_ne_zero, if_false]

end

/-- The Axis Unit's event, with nothing owed: its frame period and the completion check. -/
theorem partEvent_period {s : State} (ho : s.owed = []) :
    ∃ k n, partEvent .period s = { axisPeriod s with checkDue := k, node := n } := by
  simp only [partEvent, checksItself, settle_of_nothing_owed ho, runPart, Bool.false_eq_true, if_false]
  exact afterEvent_eq _ _

section
variable {s : State} {a : AxisId} {c : Nat} {rest : List Nat}

/-- A period left over is taken; where one axis alone can bring an event, and that a stand, nothing is drawn. -/
theorem flushPeriod_alone (ho : s.owed = []) (hd : s.axisDue = true) (hl : (frameOf s a).2 ≠ .homeLimit)
    (alone : ∀ b, b ≠ a → (frameOf s b).2 = .none) :
    (flushPeriod s).owed = [] ∧ (flushPeriod s).choices = s.choices ∧ (flushPeriod s).axes[a] = (frameOf s a).1 := by
  obtain ⟨k, m, taken⟩ := partEvent_period ho
  rw [flushPeriod, hd, if_pos rfl, taken]
  exact ⟨(owed_of_others (axisPeriod_others s)).trans ho, axisPeriod_choices hl alone, axisPeriod_axis hl⟩

/-- FRAME_PERIOD ends as its start leaves it where nothing is owed by then. -/
theorem exec_framePeriod (h : (beginPeriod s).owed = []) : exec .framePeriod s = .next (beginPeriod s) :=
  congrArg Host.Outcome.next (finish_of_nothing_owed h)

/-- At an even choice, with no period left over, an axis that does not pass its home limit has its frame period now. -/
theorem framePeriod_even (ho : s.owed = []) (hd : s.axisDue = false) (h : s.choices = c :: rest) (hc : c % 2 = 0)
    (hl : (frameOf (turnPulses s) a).2 ≠ .homeLimit) :
    ∃ t, exec .framePeriod s = .next t ∧ t.axisDue = false ∧ t.axes[a] = (frameOf (turnPulses s) a).1 := by
  obtain ⟨l, x, n, q, begun⟩ := periodBegun_eq s
  let u : State := { turnPulses s with link := l, xfer := x, notices := n, cue := q, choices := rest }
  obtain ⟨k, m, taken⟩ := partEvent_period (s := u) ho
  have ends : beginPeriod s = { axisPeriod u with checkDue := k, node := m } := by
    rw [beginPeriod_eq, flushPeriod_of_none hd, begun, ← taken]
    exact axisFramePeriod_even (s := { turnPulses s with link := l, xfer := x, notices := n, cue := q }) h hc
  have owed : (beginPeriod s).owed = [] := by
    rw [ends]
    exact (owed_of_others (axisPeriod_others u)).trans ho
  refine ⟨_, exec_framePeriod owed, ?_⟩
  rw [ends]
  exact ⟨axisPeriod_axisDue u, axisPeriod_axis hl⟩

/-- At an odd choice the period is left over, and one left over before has been taken. -/
theorem framePeriod_odd (ho : (flushPeriod s).owed = []) (h : (flushPeriod s).choices = c :: rest) (hc : c % 2 = 1) :
    ∃ t, exec .framePeriod s = .next t ∧ t.axisDue = true ∧ t.axes[a] = nextPulses (flushPeriod s).axes[a] := by
  obtain ⟨l, x, n, q, begun⟩ := periodBegun_eq (flushPeriod s)
  have ends : beginPeriod s = { turnPulses (flushPeriod s) with
      link := l, xfer := x, notices := n, cue := q, choices := rest, axisDue := true } := by
    rw [beginPeriod_eq, begun]
    exact axisFramePeriod_odd (s := { turnPulses (flushPeriod s) with link := l, xfer := x, notices := n, cue := q }) h hc
  have owed : (beginPeriod s).owed = [] := by
    rw [ends]
    exact ho
  refine ⟨_, exec_framePeriod owed, ?_⟩
  rw [ends]
  exact ⟨rfl, tab_get _ a⟩

end

/-- Settles O11: the axis has its own frame period now, later, or as the period before ends, by the choice; and a fallback step
takes what is left over. -/
theorem framePeriodMovesSeekingAxis : Obligations.FramePeriodMovesSeekingAxis := by
  refine ⟨fun s a g c rest ho h hu hs hg hn => ?_, fun s ho hl hp => ?_⟩
  · intro x r p moved pulse
    have move : moved = sought r g x := rfl
    refine ⟨fun hd hc => ?_, fun hd hc => ?_, fun hd hc alone => ?_⟩
    · have axis : (turnPulses s).axes[a] = nextPulses x := tab_get _ a
      obtain ⟨frame, noLimit⟩ := frameOf_seeking (s := turnPulses s) (g := g) hu (by rw [axis]; exact hs)
        (by rw [axis]; exact hg) (by rw [axis]; exact hn)
      obtain ⟨t, run, due, after⟩ := framePeriod_even ho hd h hc noLimit
      refine ⟨t, run, due, ?_⟩
      rw [after, frame, axis, move, nextPulses, Nat.zero_add, sought_withPulses]
      rfl
    · have unflushed := flushPeriod_of_none hd
      have left := framePeriod_odd (s := s) (a := a) (by rw [unflushed]; exact ho) (by rw [unflushed]; exact h) hc
      rw [unflushed] at left
      exact left
    · obtain ⟨frame, noLimit⟩ := frameOf_seeking hu hs hg hn
      obtain ⟨owed, choices, axis⟩ := flushPeriod_alone ho hd noLimit fun b hb => frameOf_still (alone b hb)
      obtain ⟨t, run, due, after⟩ := framePeriod_odd (a := a) owed (choices.trans h) hc
      refine ⟨t, run, due, ?_⟩
      rw [after, axis, frame, move]
      rfl
  · refine ⟨_, rfl, ?_⟩
    rw [finish_axisDue]
    exact fallback_axisDue hl hp

end Sys2Proof.Machine
end

section
/-! What a chain cycle hands on and what may change it (R133): the occupancies of the sections, the overload values of the trains,
the two inputs of each axis and the watches are changed by their receiver's own event alone. No other event of the Reservation,
Train and Axis Units and no request to a block touches them, or the rest of the chain, the tables and the CHAIN latch. -/

namespace Sys2Proof.Machine

/-- The values that the receivers of a chain cycle hold. -/
structure Readings where
  occ : SectionId → Bool
  overload : TrainId → Bool
  home : AxisId → Bool
  fault : AxisId → Bool
  watches : Vector Watch 16

/-- The readings in plain values, with what they are taken from: the tables, chain and CHAIN latch of `z` but for the watches. -/
structure Holding (z : State) (r : Readings) (tables : Tables) (chain : Chain) (notices : Notices)
    (secs : Vector Section 16) (trains : Vector Train 4) (axes : Vector Axis 6) : Prop where
  tables : tables = z.tables
  chain : chain = { z.chain with watches := r.watches }
  chainLatch : notices.latches[NoticeKind.chain.idx] = latchOf z .chain
  occ : ∀ n : SectionId, secs[n].occ = r.occ n
  overload : ∀ t : TrainId, trains[t].overload = r.overload t
  home : ∀ a : AxisId, axes[a].homeIn = r.home a
  fault : ∀ a : AxisId, axes[a].faultIn = r.fault a

/-- `s` holds the readings `r`, and has the tables, the chain and the CHAIN latch of `z` but for the watches. -/
def Reads (z : State) (r : Readings) (s : State) : Prop :=
  Holding z r s.tables s.chain s.notices s.secs s.trains s.axes

/-- The readings of a state. -/
def readings (s : State) : Readings where
  occ n := s.secs[n].occ
  overload t := s.trains[t].overload
  home a := s.axes[a].homeIn
  fault a := s.axes[a].faultIn
  watches := s.chain.watches

/-- Two stages of an axis with the same inputs. -/
def SameInputs (x y : Axis) : Prop := y.homeIn = x.homeIn ∧ y.faultIn = x.faultIn

/-! ## What answers and orders leave -/

@[simp] theorem holdBack_overload (s : State) (how : Approach) (x : Train) : (holdBack s how x).overload = x.overload := by
  unfold holdBack
  dsimp only
  split
  · rfl
  · split
    · rfl
    · rfl
    · rw [apply_ite Train.overload, ite_self]

@[simp] theorem answered_overload (s : State) (how : Approach) (n : SectionId) (a : Answer) (x : Train) :
    (answered s how n a x).overload = x.overload := by
  match a with
  | .granted .set => rfl
  | .granted .setting | .queued | .full => exact holdBack_overload ..

namespace SameInputs

theorem refl (x : Axis) : SameInputs x x := ⟨rfl, rfl⟩

theorem turnAbout (r : AxisRec) (d : Dir) (kept : Option Nat) (x : Axis) : SameInputs x (turnAbout r d kept x) := by
  unfold Machine.turnAbout
  split
  · exact refl x
  · split <;> exact ⟨rfl, rfl⟩

theorem seekOrder (r : AxisRec) (p : Nat) (x : Axis) : SameInputs x (seekOrder r p x).1 := by
  unfold Machine.seekOrder
  dsimp only
  split
  · exact ⟨rfl, rfl⟩
  · split
    · exact ⟨rfl, rfl⟩
    · split
      · exact ⟨rfl, rfl⟩
      · exact turnAbout ..

theorem stopOrder (r : AxisRec) (x : Axis) : SameInputs x (stopOrder r x).1 := by
  unfold Machine.stopOrder
  split
  iterate 3
    · split <;> exact ⟨rfl, rfl⟩
  · exact ⟨rfl, rfl⟩
  all_goals exact refl x

theorem wakeAxis (x : Axis) : SameInputs x (wakeAxis x) := by
  unfold Machine.wakeAxis
  split
  · split <;> exact ⟨rfl, rfl⟩
  · exact refl x

end SameInputs

namespace Reads

variable {z s : State} {r : Readings}

theorem refl (s : State) : Reads s (readings s) s :=
  ⟨rfl, rfl, rfl, fun _ => rfl, fun _ => rfl, fun _ => rfl, fun _ => rfl⟩

/-! ## Updates -/

theorem setSec (h : Reads z r s) {n : SectionId} {x : Section} (hx : x.occ = s.secs[n].occ := by rfl) :
    Reads z r (setSec n x s) :=
  ⟨h.tables, h.chain, h.chainLatch,
    fun m => by
      rw [setSec_secs]
      by_cases e : m = n
      · subst e
        rw [get_set_same, hx, h.occ]
      · rw [get_set_ne _ _ e, h.occ],
    h.overload, h.home, h.fault⟩

theorem setTrain (h : Reads z r s) {t : TrainId} {x : Train} (hx : x.overload = s.trains[t].overload := by rfl) :
    Reads z r (setTrain t x s) :=
  ⟨h.tables, h.chain, h.chainLatch, h.occ,
    fun u => by
      rw [setTrain_trains]
      by_cases e : u = t
      · subst e
        rw [get_set_same, hx, h.overload]
      · rw [get_set_ne _ _ e, h.overload],
    h.home, h.fault⟩

theorem setAxis (h : Reads z r s) {a : AxisId} {x : Axis} (hx : SameInputs s.axes[a] x) : Reads z r (setAxis a x s) :=
  have same : ∀ b : AxisId, SameInputs s.axes[b] (Machine.setAxis a x s).axes[b] := fun b => by
    rw [setAxis_axes]
    by_cases e : b = a
    · subst e
      rwa [get_set_same]
    · rw [get_set_ne _ _ e]
      exact .refl _
  ⟨h.tables, h.chain, h.chainLatch, h.occ, h.overload, fun b => (same b).1.trans (h.home b),
    fun b => (same b).2.trans (h.fault b)⟩

theorem latch (h : Reads z r s) {k : NoticeKind} {d : Detail} (hk : k.idx ≠ NoticeKind.chain.idx := by decide) :
    Reads z r (latch k d s) :=
  ⟨h.tables, h.chain, (latchOf_latch_ne hk d s).trans h.chainLatch, h.occ, h.overload, h.home, h.fault⟩

theorem append (h : Reads z r s) {c : Nat} {src : Source} : Reads z r (appendCue c src s) := by
  unfold appendCue
  split
  · exact h
  · split
    · exact h
    · exact h.latch

theorem draw (h : Reads z r s) : Reads z r (draw s).2 := by
  obtain ⟨cs, n, e⟩ := draw_snd s
  rw [e]
  exact h

theorem arrange {α : Type} (h : Reads z r s) {xs : List α} : Reads z r (arrange xs s).2 := by
  obtain ⟨cs, n, e⟩ := arrange_snd xs s
  rw [e]
  exact h

/-! ## Halts and tellings (R73, R81, R96, R98) -/

theorem dequeue (h : Reads z r s) {t : TrainId} : Reads z r (dequeue t s) := by
  unfold Machine.dequeue
  split
  · exact h
  · next n _ =>
    have left : Reads z r (leaveQueue t n s) := h.setSec
    exact left.setTrain

theorem halt (h : Reads z r s) {reason : HaltReason} {t : TrainId} : Reads z r (halt reason t s) := by
  unfold Machine.halt
  split
  · exact h.dequeue.setTrain.latch
  · exact h

theorem haltAll (h : Reads z r s) {reason : HaltReason} : Reads z r (haltAll reason s) :=
  foldl_keeps (P := Reads z r) _ _ (fun _ _ _ hu => halt hu) _ h.arrange

theorem tellSet (h : Reads z r s) {t : TrainId} : Reads z r (tellSet t s) := by
  unfold Machine.tellSet
  dsimp only
  split
  · exact h
  · split
    iterate 4 exact h.setTrain
    all_goals exact h

theorem tellSetting (h : Reads z r s) {t : TrainId} : Reads z r (tellSetting t s) := by
  unfold Machine.tellSetting
  dsimp only
  split
  · exact h
  · split
    iterate 2 exact h.setTrain.halt
    all_goals exact h.setTrain

theorem checkSetting (h : Reads z r s) {n : SectionId} : Reads z r (checkSetting n s) := by
  unfold Machine.checkSetting
  split
  · split
    · exact h.setSec.tellSet
    · exact h
  all_goals exact h

theorem axisStandTold (h : Reads z r s) {a : AxisId} : Reads z r (axisStandTold a s) := by
  refine foldl_keeps (P := Reads z r) _ _ (fun u n _ hu => ?_) _ h
  split
  · exact hu.checkSetting
  · exact hu

theorem axisFaultTold (h : Reads z r s) {a : AxisId} : Reads z r (axisFaultTold a s) := by
  refine foldl_keeps (P := Reads z r) _ _ (fun u n _ hu => ?_) _ h
  split
  · split
    · exact hu.setSec.tellSetting
    · exact hu
  · exact hu

/-! ## Grants, requests and releases (R66, R70 to R80, R95) -/

theorem throwRequest (h : Reads z r s) {q : PointNeed} : Reads z r (throwRequest q s) := by
  unfold Machine.throwRequest
  dsimp only
  split
  · exact h
  · split <;> exact h

theorem guardSeek (h : Reads z r s) {a : AxisId} {g : Nat} : Reads z r (guardSeek a g s) := by
  unfold Machine.guardSeek
  dsimp only
  split
  · exact h
  · exact h.setAxis (SameInputs.seekOrder ..)

theorem orderGuard (h : Reads z r s) {n : SectionId} : Reads z r (orderGuard n s) := by
  unfold Machine.orderGuard
  split
  · exact h
  · split
    · exact h
    · exact h.guardSeek

theorem grant (h : Reads z r s) {t : TrainId} {f n : SectionId} : Reads z r (grant t f n s).2 := by
  have reserved : Reads z r (Machine.setSec n
      { s.secs[n] with state := .reserved t .setting f, queue := s.secs[n].queue.filter (· != t) } s) := h.setSec
  have thrown := foldl_keeps (P := Reads z r) (fun u q => if pointStands u q then u else Machine.throwRequest q u)
    (pointNeeds s.tables.sections f n) (fun u q _ hu => by
      split
      · exact hu
      · exact hu.throwRequest) _ reserved
  unfold Machine.grant
  dsimp only
  split
  · exact thrown.orderGuard.setSec
  · exact thrown.orderGuard

theorem takeAnswer (h : Reads z r s) {how : Approach} {t : TrainId} {n : SectionId} {a : Answer} :
    Reads z r (takeAnswer how t n a s) := h.setTrain (answered_overload ..)

theorem sendRequest (h : Reads z r s) {how : Approach} {t : TrainId} : Reads z r (sendRequest how t s) := by
  unfold Machine.sendRequest
  split
  · unfold request
    split
    · exact h.grant.takeAnswer
    · split
      · exact h.setSec.takeAnswer
      · exact h.takeAnswer
  · exact h

theorem examineQueue (h : Reads z r s) {n : SectionId} : Reads z r (examineQueue n s) := by
  unfold Machine.examineQueue
  split
  · split
    · exact h.grant.takeAnswer
    · exact h
  all_goals exact h

theorem reevaluate (h : Reads z r s) {o : Option SectionId} : Reads z r (reevaluate o s) :=
  foldl_keeps (P := Reads z r) _ _ (fun _ _ _ hu => examineQueue hu) _ h

theorem releaseHeld (h : Reads z r s) {t : TrainId} {n : SectionId} : Reads z r (releaseHeld t n s) := by
  have freed : Reads z r (Machine.setSec n { s.secs[n] with state := .free } s) := h.setSec
  exact freed.setTrain.append.reevaluate

theorem cancel (h : Reads z r s) {t : TrainId} : Reads z r (cancel t s) := by
  have dropped : Reads z r (Machine.setTrain t { (Machine.dequeue t s).trains[t] with res := none, arrival := none }
      (Machine.dequeue t s)) := h.dequeue.setTrain
  unfold Machine.cancel
  dsimp only
  split
  · exact dropped
  · exact dropped.setSec.reevaluate

theorem trainStop (h : Reads z r s) {t : TrainId} : Reads z r (trainStop t s).2 := by
  have cancelled : Reads z r (stopCancelled t s) := h.cancel.setTrain
  unfold Machine.trainStop
  dsimp only
  split
  · exact h
  · exact h
  · exact h
  · exact cancelled
  · exact h.setTrain
  · exact h.dequeue.setTrain
  · split
    · exact cancelled
    · exact h

theorem restTrains (h : Reads z r s) : Reads z r (restTrains s) := by
  refine foldl_keeps (P := Reads z r) _ _ (fun u t _ hu => ?_) _ h.arrange
  unfold restTrain
  split
  · exact hu.trainStop
  · exact hu

/-! ## Axes (R114 to R122) -/

theorem putAxis (h : Reads z r s) {a : AxisId} {y : Axis × Bool} (hy : SameInputs s.axes[a] y.1) :
    Reads z r (putAxis a y s) := by
  unfold Machine.putAxis
  dsimp only
  split
  · exact (h.setAxis hy).axisStandTold
  · exact h.setAxis hy

theorem haltOwners (h : Reads z r s) {a : AxisId} : Reads z r (haltOwners a s) :=
  foldl_keeps (P := Reads z r) _ _ (fun _ _ _ hu => halt hu) _ h.arrange

theorem faultAxis (h : Reads z r s) {why : AxisFault} {a : AxisId} : Reads z r (faultAxis why a s) := by
  have faulted : Reads z r (Machine.latch .axisFault (.axis a why)
      (Machine.setAxis a (faultedAxis why s.axes[a]) s)) := (h.setAxis (by exact ⟨rfl, rfl⟩)).latch
  unfold Machine.faultAxis
  dsimp only
  split
  · split
    · exact faulted.draw.axisFaultTold.haltOwners
    · exact faulted.draw.haltOwners.axisFaultTold
  · exact faulted.haltOwners

theorem faultAxes (h : Reads z r s) {why : AxisFault} {as : List AxisId} : Reads z r (faultAxes why as s) :=
  foldl_keeps (P := Reads z r) _ _ (fun _ _ _ hu => faultAxis hu) _ h.arrange

theorem findHome (h : Reads z r s) {a : AxisId} : Reads z r (findHome a s) :=
  (h.putAxis (y := (homeFound s.tables.axes[a] s.axes[a], true)) ⟨rfl, rfl⟩).reevaluate

theorem stopAxis (h : Reads z r s) {a : AxisId} : Reads z r (stopAxis a s) := h.putAxis (SameInputs.stopOrder ..)

theorem linkLostAxes (h : Reads z r s) : Reads z r (linkLostAxes s) := by
  refine foldl_keeps (P := Reads z r) _ _ (fun u a _ hu => ?_) _ h
  split
  · exact hu.stopAxis
  · exact hu

theorem allStopAxes (h : Reads z r s) : Reads z r (allStopAxes s) := by
  refine foldl_keeps (P := Reads z r) _ _ (fun u a _ hu => ?_) _ h
  unfold allStopAxis
  split
  · split
    iterate 3 exact hu.stopAxis
    · exact hu.putAxis (SameInputs.stopOrder ..)
    all_goals exact hu
  · exact hu

theorem restAxes (h : Reads z r s) {hold : Bool} : Reads z r (restAxes hold s) := by
  refine foldl_keeps (P := Reads z r) _ _ (fun u a _ hu => ?_) _ h
  unfold restAxis
  dsimp only
  split
  · split
    · split
      · exact hu.putAxis (SameInputs.seekOrder ..)
      · exact hu.stopAxis
    · split
      · exact hu.putAxis ⟨rfl, rfl⟩
      · exact hu
    all_goals exact hu
  · exact hu

theorem wakeAxes (h : Reads z r s) : Reads z r (wakeAxes s) :=
  have same : ∀ a : AxisId, SameInputs s.axes[a] (Machine.wakeAxes s).axes[a] := fun a => by
    have woken : (Machine.wakeAxes s).axes[a] = Machine.wakeAxis s.axes[a] := tab_get _ a
    rw [woken]
    exact .wakeAxis _
  ⟨h.tables, h.chain, h.chainLatch, h.occ, h.overload, fun a => (same a).1.trans (h.home a),
    fun a => (same a).2.trans (h.fault a)⟩

/-! ## Node Control and its requests (R169 to R173) -/

theorem nodeCheck (h : Reads z r s) : Reads z r (nodeCheck s) := by
  obtain ⟨c, n, e⟩ := nodeCheck_eq s
  rw [e]
  exact h

theorem afterEvent (h : Reads z r s) {u : State} : Reads z r (afterEvent u s) := by
  obtain ⟨c, n, e⟩ := afterEvent_eq u s
  rw [e]
  exact h

theorem dueCheck (h : Reads z r s) : Reads z r (dueCheck s) := by
  unfold Machine.dueCheck
  split
  · exact nodeCheck (s := { s with checkDue := false }) h
  · exact h

theorem runReq (h : Reads z r s) {q : Req} : Reads z r (runReq q s) := by
  cases q with
  | restClock hold => cases hold <;> exact h
  | restLists | wakeClock | wakeLists => exact h
  | restTrains => exact h.restTrains
  | restAxes => exact h.restAxes
  | wakeAxes => exact h.wakeAxes
  | stopTrains | faultTrains | linkTrains => exact h.haltAll
  | stopAxes => exact h.allStopAxes
  | faultAxes => exact h.faultAxes
  | linkAxes => exact h.linkLostAxes

theorem takeReqs {left qs : List Req} : ∀ {s : State}, Reads z r s → Reads z r (takeReqs left qs s) := by
  induction qs with
  | nil => exact fun h => h
  | cons q qs ih =>
    intro s h
    have owing : Reads z r { s with owed := qs ++ left } := h
    exact ih owing.runReq.afterEvent.dueCheck

theorem settle (h : Reads z r s) : Reads z r (settle s) := by
  unfold Machine.settle
  split
  · exact h
  · exact h.draw.takeReqs

theorem finish (h : Reads z r s) : Reads z r (finish s) := h.takeReqs

theorem wake (h : Reads z r s) {src : WakeSource} : Reads z r (wake src s) := by
  have woken : Reads z r (Machine.latch .wake (.wake src) { s with node := .active }) :=
    latch (s := { s with node := .active }) h (by decide)
  unfold Machine.wake
  split
  · exact h
  iterate 2 exact woken.arrange (xs := [Req.wakeClock, Req.wakeLists, Req.wakeAxes])

end Reads

end Sys2Proof.Machine
end

section
/-! The receivers of a good completion (R133): what each event makes of the readings, and that every order of the events makes the
same. -/

namespace Sys2Proof.Machine

/-! ## Values that depend on the tables and the inputs alone (R132, R133) -/

section
variable {z s : State} (ht : s.tables = z.tables) (hi : s.chain.inputs = z.chain.inputs)
include ht hi

theorem inputValue_congr : inputValue s = inputValue z := funext fun k => by simp only [inputValue, ht, hi]

theorem roleValue_congr (role : InRole) : roleValue s role = roleValue z role := funext fun target => by
  simp only [roleValue, ht, inputValue_congr ht hi]

theorem inputValues_congr : inputValues s = inputValues z := by
  unfold inputValues
  rw [inputValue_congr ht hi]

end

/-- A watch after its evaluation against the input values (R136). -/
def watched (r : WatchRec) (values : BitVec 64) (x : Watch) : Watch :=
  if r.inUse = false then x
  else if watchMatches r values = true ∧ x.isMatch = false ∧ x.holdOff = 0 then ⟨true, r.holdOff⟩
  else ⟨watchMatches r values, x.holdOff⟩

/-- What a receiver's event makes of the readings, with the values of `z`. -/
def handed (z : State) (h : HandOff) (r : Readings) : Readings :=
  match h with
  | .detectors => { r with occ := fun n => roleValue z .detector n.val }
  | .cabs => { r with overload := fun t => roleValue z .cabfault t.val }
  | .axes => { r with home := fun a => roleValue z .home a.val, fault := fun a => roleValue z .axfault a.val }
  | .watches => { r with watches := tab fun w => watched z.tables.watches[w] (inputValues z) r.watches[w] }
  | .check => r

/-- The readings once every receiver has taken its event. -/
def handedOn (z : State) : Readings where
  occ n := roleValue z .detector n.val
  overload t := roleValue z .cabfault t.val
  home a := roleValue z .home a.val
  fault a := roleValue z .axfault a.val
  watches := tab fun w => watched z.tables.watches[w] (inputValues z) z.chain.watches[w]

/-- No receiver's event touches what another's writes. -/
theorem handed_comm (z : State) (h k : HandOff) (r : Readings) : handed z h (handed z k r) = handed z k (handed z h r) := by
  cases h <;> cases k <;> rfl

/-- An axis told of its home value, which may turn its homing (R116). -/
def homeTold (r : AxisRec) (v : Bool) (x : Axis) : Axis :=
  let y := { x with homeIn := v }
  if inPhase y .leave && !v then homeTurns r y else y

theorem homeTold_inputs (r : AxisRec) (v : Bool) (x : Axis) : SameInputs { x with homeIn := v } (homeTold r v x) := by
  unfold homeTold
  dsimp only
  split <;> exact ⟨rfl, rfl⟩

/-- Every axis told of its home value; the homes found are told after that. -/
def homesTold (v : AxisId → Bool) (s : State) : State :=
  { s with axes := tab fun a => homeTold s.tables.axes[a] (v a) s.axes[a] }

namespace Reads

variable {z s : State} {r : Readings}

theorem roleValue_eq (h : Reads z r s) (role : InRole) : roleValue s role = roleValue z role :=
  roleValue_congr h.tables (by rw [h.chain]) role

theorem inputValues_eq (h : Reads z r s) : inputValues s = inputValues z := inputValues_congr h.tables (by rw [h.chain])

/-! ## The detector event (R78 to R80) -/

theorem setOcc (h : Reads z r s) (n : SectionId) (v : Bool) :
    Reads z { r with occ := Function.update r.occ n v } (setOcc n v s) :=
  ⟨h.tables, h.chain, h.chainLatch,
    fun m => by
      by_cases e : m = n
      · subst e
        exact (congrArg Section.occ (setOcc_get m v s)).trans (Function.update_self (f := r.occ) m v).symm
      · exact ((congrArg Section.occ (get_set_ne _ _ e)).trans (h.occ m)).trans (Function.update_of_ne e v r.occ).symm,
    h.overload, h.home, h.fault⟩

theorem takeEntry (h : Reads z r s) {t : TrainId} {n kept : SectionId} : Reads z r (takeEntry t n kept s) := by
  have held : Reads z r (Machine.setSec n { s.secs[n] with state := .held t (some kept) } s) := h.setSec
  have taken : Reads z r (entryTaken t n kept s) := held.append.setTrain
  have request : ∀ u, Reads z r u → Reads z r (entryRequest t u) := fun u hu => by
    unfold entryRequest
    split
    · exact hu.sendRequest
    all_goals exact hu
  refine request _ ?_
  split
  · split
    · exact taken
    · exact taken.releaseHeld
  · exact taken

theorem arrival (h : Reads z r s) (n : SectionId) :
    Reads z { r with occ := Function.update r.occ n true } (arrival n s) := by
  have hu := h.setOcc n true
  unfold Machine.arrival
  dsimp only
  split
  · split
    · unfold entry
      split
      · exact hu.halt
      · exact hu.takeEntry
    · exact hu.halt
    · exact hu.setSec.latch
    all_goals exact hu
  · exact hu

theorem clearing (h : Reads z r s) (n : SectionId) :
    Reads z { r with occ := Function.update r.occ n false } (clearing n s) := by
  have hu := h.setOcc n false
  unfold Machine.clearing
  dsimp only
  split
  · split
    · split
      · exact hu
      · exact hu.releaseHeld
    · exact hu.setSec.reevaluate
    all_goals exact hu
  · exact hu

/-- Arrivals, or clearings, of several sections set the occupancy of those. -/
theorem occEach {f : State → SectionId → State} {v : Bool}
    (hf : ∀ {r : Readings} {u : State}, Reads z r u → ∀ n, Reads z { r with occ := Function.update r.occ n v } (f u n))
    {ns : List SectionId} : ∀ {r : Readings} {s : State}, Reads z r s →
      Reads z { r with occ := fun m => if m ∈ ns then v else r.occ m } (ns.foldl f s) := by
  induction ns with
  | nil => exact fun h => h
  | cons n ns ih =>
    intro r s h
    have rest := ih (hf h n)
    have same : (fun m => if m ∈ n :: ns then v else r.occ m) =
        fun m => if m ∈ ns then v else Function.update r.occ n v m := funext fun m => by
      by_cases e : m = n
      · subst e
        simp
      · simp [e]
    rw [same]
    exact rest

theorem detectorEvent (h : Reads z r s) (v : SectionId → Bool) : Reads z { r with occ := v } (detectorEvent v s) := by
  have cleared := occEach (f := fun u n => Machine.clearing n u) clearing
    (ns := (every 16).filter fun n => s.secs[n].occ && !v n) h
  have arrived := occEach (f := fun u n => Machine.arrival n u) arrival
    (ns := (every 16).filter fun n => !s.secs[n].occ && v n) cleared
  have all : (fun m => if m ∈ (every 16).filter (fun n => !s.secs[n].occ && v n) then true
      else if m ∈ (every 16).filter (fun n => s.secs[n].occ && !v n) then false else r.occ m) = v := funext fun m => by
    have member : m ∈ every 16 := List.mem_finRange m
    rw [← h.occ m]
    cases ho : s.secs[m].occ <;> cases hv : v m <;> simp [-Fin.getElem_fin, member, ho, hv]
  simp only [all] at arrived
  exact arrived

/-! ## The cab-fault event and the input event of the axes (R100, R116, R118) -/

theorem cabFaultEvent (h : Reads z r s) (v : TrainId → Bool) : Reads z { r with overload := v } (cabFaultEvent v s) := by
  have told : Reads z { r with overload := v } { s with trains := tab fun t => { s.trains[t] with overload := v t } } :=
    ⟨h.tables, h.chain, h.chainLatch, h.occ, fun t => congrArg Train.overload (tab_get _ t), h.home, h.fault⟩
  exact foldl_keeps (P := Reads z _) _ _ (fun _ _ _ hu => hu.halt) _ told.arrange

theorem homeEvent (h : Reads z r s) (v : AxisId → Bool) : Reads z { r with home := v } (homeEvent v s) := by
  have told : Reads z { r with home := v } (homesTold v s) :=
    ⟨h.tables, h.chain, h.chainLatch, h.occ, h.overload,
      fun a => (congrArg Axis.homeIn (tab_get _ a)).trans (homeTold_inputs ..).1,
      fun a => ((congrArg Axis.faultIn (tab_get _ a)).trans (homeTold_inputs ..).2).trans (h.fault a)⟩
  exact foldl_keeps (P := Reads z _) _ _ (fun _ _ _ hu => hu.findHome) _ told.arrange

theorem axisInputEvent (h : Reads z r s) (v w : AxisId → Bool) :
    Reads z { r with home := v, fault := w } (axisInputEvent v w s) := by
  have told : Reads z { r with fault := w } { s with axes := tab fun a => { s.axes[a] with faultIn := w a } } :=
    ⟨h.tables, h.chain, h.chainLatch, h.occ, h.overload, fun a => (congrArg Axis.homeIn (tab_get _ a)).trans (h.home a),
      fun a => congrArg Axis.faultIn (tab_get _ a)⟩
  exact told.faultAxes.homeEvent v

/-! ## The watches (R136) -/

theorem setWatch (h : Reads z r s) (w : WatchId) (x : Watch) :
    Reads z { r with watches := r.watches.set w x } (setWatch w x s) :=
  ⟨h.tables, by
    show ({ s.chain with watches := s.chain.watches.set w x } : Chain) = _
    rw [h.chain], h.chainLatch, h.occ, h.overload, h.home, h.fault⟩

theorem fireWatch (h : Reads z r s) {w : WatchId} : Reads z r (fireWatch w s) := by
  unfold Machine.fireWatch
  dsimp only
  split
  · exact h.wake.append
  · exact h.append

theorem evalWatch (h : Reads z r s) (values : BitVec 64) (w : WatchId) :
    Reads z { r with watches := r.watches.set w (watched z.tables.watches[w] values r.watches[w]) }
      (evalWatch values w s) := by
  have watch : s.chain.watches[w] = r.watches[w] := by rw [h.chain]
  have same : r.watches.set w r.watches[w] = r.watches := Vector.set_getElem_self ..
  unfold Machine.evalWatch watched
  rw [h.tables, watch]
  simp only [Bool.and_eq_true, Bool.not_eq_true', beq_iff_eq, and_assoc]
  by_cases used : z.tables.watches[w].inUse = true
  · rw [if_pos used, if_neg (by rw [used]; exact nofun)]
    by_cases fires : watchMatches z.tables.watches[w] values = true ∧ r.watches[w].isMatch = false ∧ r.watches[w].holdOff = 0
    · rw [if_pos fires, if_pos fires]
      exact (h.setWatch w _).fireWatch
    · rw [if_neg fires, if_neg fires]
      exact h.setWatch w _
  · rw [if_neg used, if_pos (Bool.eq_false_of_not_eq_true used), same]
    exact h

/-- The watches are evaluated one after another, each once. -/
theorem evalEach (values : BitVec 64) {ws : List WatchId} (once : ws.Nodup) : ∀ {r : Readings} {s : State}, Reads z r s →
    Reads z { r with watches := tab fun w =>
      if w ∈ ws then watched z.tables.watches[w] values r.watches[w] else r.watches[w] }
      (ws.foldl (fun u w => Machine.evalWatch values w u) s) := by
  induction ws with
  | nil =>
    intro r s h
    have same : (tab fun w : WatchId => r.watches[w]) = r.watches := Vector.ext fun i hi => tab_getElem _ i hi
    simp only [List.not_mem_nil, if_false, same]
    exact h
  | cons w ws ih =>
    intro r s h
    obtain ⟨new, rest⟩ := List.nodup_cons.1 once
    have evaluated := ih rest (h.evalWatch values w)
    have same : (tab fun v : WatchId =>
        if v ∈ w :: ws then watched z.tables.watches[v] values r.watches[v] else r.watches[v]) =
        tab fun v : WatchId =>
          let x := (r.watches.set w (watched z.tables.watches[w] values r.watches[w]))[v]
          if v ∈ ws then watched z.tables.watches[v] values x else x := congrArg tab (funext fun v => by
      dsimp only
      by_cases e : v = w
      · subst e
        rw [if_pos List.mem_cons_self, if_neg new, get_set_same]
      · rw [get_set_ne _ _ e]
        simp only [List.mem_cons, e, false_or])
    rw [same]
    exact evaluated

theorem evalWatches (h : Reads z r s) :
    Reads z { r with watches := tab fun w => watched z.tables.watches[w] (inputValues z) r.watches[w] } (evalWatches s) := by
  have each := evalEach (inputValues s) (List.nodup_finRange 16) h
  simp only [List.mem_finRange, if_true, h.inputValues_eq] at each
  unfold Machine.evalWatches
  rw [h.inputValues_eq]
  exact each

/-! ## The hand-offs in any order (R133) -/

theorem handOff (h : Reads z r s) (x : HandOff) : Reads z (handed z x r) (handOff x s) := by
  cases x with
  | detectors =>
    show Reads z _ (Machine.detectorEvent (fun n => roleValue s .detector n.val) s)
    rw [h.roleValue_eq]
    exact h.detectorEvent _
  | cabs =>
    show Reads z _ (Machine.cabFaultEvent (fun t => roleValue s .cabfault t.val) s)
    rw [h.roleValue_eq]
    exact h.cabFaultEvent _
  | axes =>
    show Reads z _ (Machine.axisInputEvent (fun a => roleValue s .home a.val) (fun a => roleValue s .axfault a.val) s)
    rw [h.roleValue_eq, h.roleValue_eq]
    exact h.axisInputEvent _ _
  | watches => exact h.evalWatches
  | check => exact h.nodeCheck

theorem handOffs {xs : List HandOff} : ∀ {r : Readings} {s : State}, Reads z r s →
    Reads z (xs.foldl (fun r x => handed z x r) r) (handOffs xs s) := by
  induction xs with
  | nil => exact fun h => h
  | cons x xs ih => exact fun h => ih (h.settle.handOff x).afterEvent

/-- Whatever the order, each receiver has taken its event. -/
theorem handOffs_perm (h : Reads z (readings z) s) {xs : List HandOff}
    (hp : xs.Perm [.detectors, .cabs, .axes, .watches, .check]) : Reads z (handedOn z) (Machine.handOffs xs s) := by
  have rc : RightCommutative fun r x => handed z x r := ⟨fun r x y => handed_comm z y x r⟩
  have same := hp.foldl_eq (f := fun r x => handed z x r) (readings z)
  have taken := handOffs (xs := xs) h
  rw [same] at taken
  exact taken

end Reads

end Sys2Proof.Machine
end

section
/-! A chain that breaks (R98, R118, R120, R130): the two requests of the FAULT state leave no train WAITING, RUNNING, APPROACH or
STOPPING and no axis HOMING, whichever is taken first and whenever they are taken. -/

namespace Sys2Proof.Machine

/-! ## Folds and requests that bring a property about -/

/-- Each item's effect brings its own property and keeps the others'; what holds of the items left out is kept. -/
theorem foldl_brings {α β : Type} {Q : α → β → Prop} {f : β → α → β} (brings : ∀ u i, Q i (f u i))
    (keeps : ∀ u i j, Q j u → Q j (f u i)) {xs : List α} {j : α} :
    ∀ {s : β}, (j ∉ xs → Q j s) → Q j (xs.foldl f s) := by
  induction xs with
  | nil => exact fun h => h List.not_mem_nil
  | cons i xs ih =>
    intro s h
    refine ih fun out => ?_
    by_cases e : j = i
    · subst e
      exact brings s j
    · exact keeps s i j (h fun mem => (List.mem_cons.1 mem).elim e out)

/-- The checks of a request change the node state and their own mark alone. -/
theorem reqEvent_eq (q : Req) (s : State) : ∃ c n, reqEvent q s = { runReq q s with checkDue := c, node := n } := by
  obtain ⟨c, n, e⟩ := afterEvent_eq s (runReq q s)
  rw [reqEvent, e, dueCheck]
  split
  · obtain ⟨d, m, e'⟩ := nodeCheck_eq { runReq q s with checkDue := false, node := n }
    exact ⟨d, m, e'⟩
  · exact ⟨c, n, rfl⟩

theorem takeReqs_owed (left qs : List Req) (s : State) : (takeReqs left qs s).owed = left := by
  induction qs generalizing s with
  | nil => rfl
  | cons q qs ih => exact ih _

/-- With requests owed, the first of them are taken between two events and the others stay owed. -/
theorem settle_of_owed {s : State} (h : s.owed ≠ []) :
    ∃ n, settle s = takeReqs (s.owed.drop n) (s.owed.take n) (draw s).2 := by
  unfold settle
  split
  · next none => exact absurd none h
  · exact ⟨_, rfl⟩

/-- What `Q` says of the trains and the axes holds of a state: a statement that no check and no choice touches. -/
def OnRails (Q : Vector Train 4 → Vector Axis 6 → Prop) (s : State) : Prop := Q s.trains s.axes

namespace OnRails

variable {Q : Vector Train 4 → Vector Axis 6 → Prop} {left qs : List Req} {q : Req}

theorem reqEvent {s : State} (h : OnRails Q (runReq q s)) : OnRails Q (reqEvent q s) := by
  obtain ⟨c, n, e⟩ := reqEvent_eq q s
  rw [e]
  exact h

theorem nodeCheck {s : State} (h : OnRails Q s) : OnRails Q (nodeCheck s) := by
  obtain ⟨c, n, e⟩ := nodeCheck_eq s
  rw [e]
  exact h

theorem takeReqs (keeps : ∀ q ∈ qs, ∀ s, OnRails Q s → OnRails Q (runReq q s)) :
    ∀ {s : State}, OnRails Q s → OnRails Q (takeReqs left qs s) := by
  induction qs with
  | nil => exact fun h => h
  | cons q qs ih =>
    intro s h
    obtain ⟨first, rest⟩ := List.forall_mem_cons.1 keeps
    exact ih rest (reqEvent (first { s with owed := qs ++ left } h))

theorem takeReqs_brings (keeps : ∀ q ∈ qs, ∀ s, OnRails Q s → OnRails Q (runReq q s)) (mem : q ∈ qs)
    (brings : ∀ s, OnRails Q (runReq q s)) : ∀ {s : State}, OnRails Q (Machine.takeReqs left qs s) := by
  induction qs with
  | nil => exact absurd mem List.not_mem_nil
  | cons p qs ih =>
    intro s
    obtain ⟨-, rest⟩ := List.forall_mem_cons.1 keeps
    obtain rfl | later := List.mem_cons.1 mem
    · exact takeReqs rest (reqEvent (brings _))
    · exact ih rest later

/-- An owed request is taken between the events of a command or at its end, and brings the statement about (log entry 6). -/
theorem owed_brings {s : State} (keeps : ∀ q ∈ s.owed, ∀ u, OnRails Q u → OnRails Q (runReq q u)) (mem : q ∈ s.owed)
    (brings : ∀ u, OnRails Q (runReq q u)) : OnRails Q (finish (Machine.nodeCheck (settle s))) := by
  obtain ⟨n, settled⟩ := settle_of_owed (List.ne_nil_of_mem mem)
  have left : (Machine.nodeCheck (settle s)).owed = s.owed.drop n := by rw [nodeCheck_owed, settled, takeReqs_owed]
  rw [finish, left]
  rw [← List.take_append_drop n s.owed, List.mem_append] at mem
  obtain now | later := mem
  · refine takeReqs (fun q hq => keeps q (List.mem_of_mem_drop hq)) (nodeCheck ?_)
    rw [settled]
    exact takeReqs_brings (fun q hq => keeps q (List.mem_of_mem_take hq)) now brings
  · exact takeReqs_brings (fun q hq => keeps q (List.mem_of_mem_drop hq)) later brings

end OnRails

/-! ## A halted train stays halted (R98) -/

/-- Train `k` is not WAITING, RUNNING, APPROACH or STOPPING: those are the states that the chain's halt reaches. -/
def NotUnderWay (k : TrainId) : State → Prop := OnRails fun trains _ => haltReaches .chain trains[k] = false

theorem haltReaches_chain {x : Train} : haltReaches .chain x = false ↔
    x.state ≠ .waiting ∧ x.state ≠ .running ∧ x.state ≠ .approach ∧ x.state ≠ .stopping := by
  cases h : x.state <;> simp [haltReaches, h]

theorem haltReaches_chain_congr {x y : Train} (hx : haltReaches .chain x = false) (h : y.state = x.state) :
    haltReaches .chain y = false := by
  rw [haltReaches_chain, h]
  exact haltReaches_chain.1 hx

namespace NotUnderWay

variable {k t : TrainId} {s : State}

theorem setTrain {x : Train} (h : NotUnderWay k s)
    (hx : haltReaches .chain s.trains[t] = false → haltReaches .chain x = false) : NotUnderWay k (setTrain t x s) := by
  show haltReaches .chain (s.trains.set t x)[k] = false
  by_cases e : k = t
  · subst e
    rw [get_set_same]
    exact hx h
  · rw [get_set_ne _ _ e]
    exact h

theorem draw (h : NotUnderWay k s) : NotUnderWay k (draw s).2 := by
  obtain ⟨cs, n, e⟩ := draw_snd s
  rw [e]
  exact h

theorem arrange {α : Type} {xs : List α} (h : NotUnderWay k s) : NotUnderWay k (arrange xs s).2 := by
  obtain ⟨cs, n, e⟩ := arrange_snd xs s
  rw [e]
  exact h

theorem dequeue (h : NotUnderWay k s) : NotUnderWay k (dequeue t s) := by
  unfold Machine.dequeue
  split
  · exact h
  · next n _ =>
    have left : NotUnderWay k (leaveQueue t n s) := h
    exact left.setTrain fun hx => hx

theorem halt {reason : HaltReason} (h : NotUnderWay k s) : NotUnderWay k (halt reason t s) := by
  unfold Machine.halt
  split
  · exact h.dequeue.setTrain fun _ => rfl
  · exact h

theorem tellSetting (h : NotUnderWay k s) : NotUnderWay k (tellSetting t s) := by
  unfold Machine.tellSetting
  dsimp only
  split
  · exact h
  · next n _ _ =>
    have told : NotUnderWay k (Machine.setTrain t { s.trains[t] with res := some (n, .setting), arrival := none } s) :=
      h.setTrain fun hx => haltReaches_chain_congr hx rfl
    split
    iterate 2 exact told.halt
    all_goals exact told

theorem axisFaultTold {a : AxisId} (h : NotUnderWay k s) : NotUnderWay k (axisFaultTold a s) := by
  refine foldl_keeps (P := NotUnderWay k) _ _ (fun u n _ hu => ?_) _ h
  split
  · split
    · next _ t kept _ =>
      have restated : NotUnderWay k (setSec n { u.secs[n] with state := .reserved t .setting kept } u) := hu
      exact restated.tellSetting
    · exact hu
  · exact hu

theorem haltOwners {a : AxisId} (h : NotUnderWay k s) : NotUnderWay k (haltOwners a s) :=
  foldl_keeps (P := NotUnderWay k) _ _ (fun _ _ _ hu => hu.halt) _ h.arrange

theorem faultAxis {why : AxisFault} {a : AxisId} (h : NotUnderWay k s) : NotUnderWay k (faultAxis why a s) := by
  have faulted : NotUnderWay k (latch .axisFault (.axis a why) (setAxis a (faultedAxis why s.axes[a]) s)) := h
  unfold Machine.faultAxis
  dsimp only
  split
  · split
    · exact faulted.draw.axisFaultTold.haltOwners
    · exact faulted.draw.haltOwners.axisFaultTold
  · exact faulted.haltOwners

theorem chainFaultAxes (h : NotUnderWay k s) : NotUnderWay k (chainFaultAxes s) :=
  foldl_keeps (P := NotUnderWay k) _ _ (fun _ _ _ hu => hu.faultAxis) _ h.arrange

end NotUnderWay

/-- The chain's halt leaves its train not under way. -/
theorem halt_notUnderWay (t : TrainId) (s : State) : NotUnderWay t (halt .chain t s) := by
  unfold halt
  split
  · show haltReaches .chain ((dequeue t s).trains.set t _)[t] = false
    rw [get_set_same]
    rfl
  · next out => exact Bool.eq_false_of_not_eq_true out

/-- The chain's halt of every train it reaches leaves none under way (R98, R130). -/
theorem haltAll_notUnderWay (k : TrainId) (s : State) : NotUnderWay k (haltAll .chain s) := by
  refine foldl_brings (Q := NotUnderWay) (fun u t => halt_notUnderWay t u) (fun _ _ _ hu => hu.halt) fun out => ?_
  have start : NotUnderWay k s := Bool.eq_false_of_not_eq_true fun e =>
    out (mem_arrange.2 (List.mem_filter.2 ⟨List.mem_finRange k, e⟩))
  exact start.arrange

/-! ## A faulted axis stays faulted (R120) -/

/-- Axis `a` is not HOMING. -/
def NotHoming (a : AxisId) : State → Prop := OnRails fun _ axes => axes[a].state ≠ .homing

theorem NotHoming.faultAxis {why : AxisFault} {a b : AxisId} {s : State} (h : NotHoming b s) :
    NotHoming b (faultAxis why a s) := by
  show (Machine.faultAxis why a s).axes[b].state ≠ .homing
  rw [faultAxis_axes]
  by_cases e : b = a
  · subst e
    rw [get_set_same]
    exact nofun
  · rw [get_set_ne _ _ e]
    exact h

theorem NotHoming.haltAll {reason : HaltReason} {a : AxisId} {s : State} (h : NotHoming a s) :
    NotHoming a (haltAll reason s) := by
  let halted := (every 4).filter fun t => haltReaches reason s.trains[t]
  have halts := foldl_keeps (P := ButRails (arrange halted s).2) (fun u t => halt reason t u) (arrange halted s).1
    (fun _ _ _ hu => hu.halt) _ (.refl _)
  show (Machine.haltAll reason s).axes[a].state ≠ .homing
  rw [show (Machine.haltAll reason s).axes = s.axes from halts.axes.trans (arrange_axes _ s)]
  exact h

/-- A chain that breaks leaves no axis HOMING (R120). -/
theorem chainFaultAxes_notHoming (a : AxisId) (s : State) : NotHoming a (chainFaultAxes s) := by
  refine foldl_brings (Q := NotHoming) (fun u b => ?_) (fun _ _ _ hu => hu.faultAxis) fun out => ?_
  · show (faultAxis .chain b u).axes[b].state ≠ .homing
    rw [faultAxis_axes, get_set_same]
    exact nofun
  · show (arrange _ s).2.axes[a].state ≠ .homing
    rw [arrange_axes]
    exact fun e => out (mem_arrange.2 (List.mem_filter.2 ⟨List.mem_finRange a, by rw [e]; rfl⟩))

/-! ## The requests of the FAULT state (R130) -/

section
variable {s : State} (h : s.owed.Perm [.faultTrains, .faultAxes])
include h

/-- The requests of the FAULT state keep a statement that the chain's halts and axis faults keep. -/
theorem faultReqs_keep {Q : State → Prop} (trains : ∀ u, Q u → Q (haltAll .chain u))
    (axes : ∀ u, Q u → Q (chainFaultAxes u)) : ∀ q ∈ s.owed, ∀ u, Q u → Q (runReq q u) := fun q mem u hu => by
  have one : q = .faultTrains ∨ q = .faultAxes := by simpa using h.mem_iff.1 mem
  obtain rfl | rfl := one
  · exact trains u hu
  · exact axes u hu

/-- Once they have been taken no train is under way. -/
theorem faultReqs_notUnderWay (k : TrainId) : NotUnderWay k (finish (nodeCheck (settle s))) :=
  OnRails.owed_brings (faultReqs_keep h (fun u _ => haltAll_notUnderWay k u) fun _ hu => NotUnderWay.chainFaultAxes hu)
    (h.mem_iff.2 List.mem_cons_self) (haltAll_notUnderWay k)

/-- Once they have been taken no axis is HOMING. -/
theorem faultReqs_notHoming (a : AxisId) : NotHoming a (finish (nodeCheck (settle s))) :=
  OnRails.owed_brings (faultReqs_keep h (fun _ hu => NotHoming.haltAll hu) fun u _ => chainFaultAxes_notHoming a u)
    (h.mem_iff.2 (List.mem_cons_of_mem _ List.mem_cons_self)) (chainFaultAxes_notHoming a)

end

end Sys2Proof.Machine
end

section
/-! CHAIN_CYCLE_COMPLETE (R129 to R133): what a completion does by the marker, the chain's state and its counters. -/

namespace Sys2Proof.Machine

/-! ## The chain's state (R130) -/

/-- The state with the chain in a new state, and CHAIN latched for it. -/
def turnedTo (c : ChainState) (s : State) : State :=
  latch .chain (.chain (c == .fault)) { s with chain := { s.chain with state := c } }

theorem chainTurns_same {c : ChainState} {s : State} (h : s.chain.state = c) : chainTurns c s = s := if_pos h

theorem chainTurns_fault {s : State} (h : s.chain.state ≠ .fault) :
    chainTurns .fault s = handOn [.faultTrains, .faultAxes] (turnedTo .fault s) := if_neg h

theorem chainTurns_ok {s : State} (h : s.chain.state ≠ .ok) : chainTurns .ok s = turnedTo .ok s := if_neg h

@[simp] theorem chainTurns_ok_tables (s : State) : (chainTurns .ok s).tables = s.tables := by
  unfold chainTurns
  split <;> rfl

@[simp] theorem chainTurns_ok_chain (s : State) : (chainTurns .ok s).chain = { s.chain with state := .ok } := by
  by_cases h : s.chain.state = .ok
  · rw [chainTurns_same h, ← h]
  · rw [chainTurns_ok h]
    rfl

/-- A return from FAULT latches CHAIN (R130). -/
theorem latchOf_chainTurns_ok (s : State) : latchOf (chainTurns .ok s) .chain =
    if s.chain.state = .ok then latchOf s .chain else (latchOf s .chain).take (.chain false) := by
  split
  · next h => rw [chainTurns_same h]
  · next h =>
    rw [chainTurns_ok h]
    exact latchOf_latch _ _ _

/-- What is asked of the blocks when the chain breaks, in some order. -/
theorem chainTurns_fault_eq {s : State} (h : s.chain.state ≠ .fault) (ho : s.owed = []) : ∃ cs n reqs,
    reqs.Perm [.faultTrains, .faultAxes] ∧
      chainTurns .fault s = { turnedTo .fault s with choices := cs, drawn := n, owed := reqs } := by
  obtain ⟨cs, n, e⟩ := arrange_snd [Req.faultTrains, .faultAxes] (turnedTo .fault s)
  have owed : (turnedTo .fault s).owed = [] := ho
  refine ⟨cs, n, _, arrange_perm _ (turnedTo .fault s), ?_⟩
  rw [chainTurns_fault h, handOn]
  simp only [e, owed, List.nil_append]

section
variable {ret : Byte} {inputs : BitVec 64} {cyc : Cycle} {s : State}

theorem nextChainState_bad (h : s.chain.state = .ok) :
    nextChainState false (completed false cyc inputs s.chain) = if 2 ≤ s.chain.breaks then .fault else .ok := by
  have count : 3 ≤ min 255 (s.chain.breaks + 1) ↔ 2 ≤ s.chain.breaks := by omega
  simp only [nextChainState, completed, h, Bool.false_eq_true, if_false, count]

theorem nextChainState_good (h : s.chain.state = .fault) :
    nextChainState true (completed true cyc inputs s.chain) = if 2 ≤ s.chain.goods then .ok else .fault := by
  have count : 3 ≤ min 255 (s.chain.goods + 1) ↔ 2 ≤ s.chain.goods := by omega
  simp only [nextChainState, completed, h, if_true, count]

theorem nextChainState_good_ok (h : s.chain.state = .ok) :
    nextChainState true (completed true cyc inputs s.chain) = .ok := by
  simp only [nextChainState, completed, h, if_true]

/-! ## Completions by the marker and the chain's state -/

/-- The state with the chain's own fields after a completion: outputs, raw values and counters. -/
def counted (good : Bool) (cyc : Cycle) (inputs : BitVec 64) (s : State) : State :=
  { s with chain := completed good cyc inputs s.chain }

/-- With no cycle in flight, and in OFF, nothing completes (R132). -/
theorem completeCycle_of_none (h : s.chain.inFlight = none ∨ s.chain.state = .off) : completeCycle ret inputs s = s := by
  unfold completeCycle
  split
  · rfl
  · rfl
  · next flying on => exact (h.elim (fun none => nomatch flying.symm.trans none) on).elim

theorem completeCycle_eq (hc : s.chain.inFlight = some cyc) (hs : s.chain.state ≠ .off) :
    completeCycle ret inputs s =
      let u := chainTurns (nextChainState (ret == marker) (completed (ret == marker) cyc inputs s.chain))
        (counted (ret == marker) cyc inputs s)
      if ret == marker && u.chain.state == .ok then
        let o := arrange [.detectors, .cabs, .axes, .watches, .check] (debouncePass u)
        handOffs o.1 o.2
      else nodeCheck (settle u) := by
  unfold completeCycle
  split
  · next off => exact absurd off hs
  · next landed _ => exact nomatch hc.symm.trans landed
  · next flying _ =>
    obtain rfl := Option.some.inj (hc.symm.trans flying)
    rfl

/-- A bad completion is handed to no block but for what the chain's state asks (R129, R130). -/
theorem completeCycle_bad (hr : ret ≠ 0xA5) (hc : s.chain.inFlight = some cyc) (hs : s.chain.state ≠ .off) :
    completeCycle ret inputs s = nodeCheck (settle
      (chainTurns (nextChainState false (completed false cyc inputs s.chain)) (counted false cyc inputs s))) := by
  have bad : (ret == marker) = false := beq_false_of_ne hr
  simp only [completeCycle_eq hc hs, bad, Bool.false_and, Bool.false_eq_true, if_false]

/-- A good completion after which the chain is in FAULT is handed to no block (R130). -/
theorem completeCycle_good_fault (hc : s.chain.inFlight = some cyc) (hs : s.chain.state = .fault)
    (hg : s.chain.goods < 2) : completeCycle 0xA5 inputs s = nodeCheck (settle (counted true cyc inputs s)) := by
  have good : ((0xA5 : Byte) == marker) = true := rfl
  have next : nextChainState true (completed true cyc inputs s.chain) = .fault := by
    rw [nextChainState_good hs, if_neg (Nat.not_le.2 hg)]
  have stays : (counted true cyc inputs s).chain.state = .fault := hs
  rw [completeCycle_eq hc (by rw [hs]; exact nofun)]
  simp only [good, next, chainTurns_same stays, stays]
  rfl

/-- The state that a good completion hands on from: in OK, with the debounce pass made (R130, R132). -/
def handedFrom (cyc : Cycle) (inputs : BitVec 64) (s : State) : State :=
  debouncePass (chainTurns .ok (counted true cyc inputs s))

/-- A good completion in OK, or the third in a row in FAULT, hands the values on in some order (R130, R133). -/
theorem completeCycle_good (hc : s.chain.inFlight = some cyc)
    (hs : s.chain.state = .ok ∨ (s.chain.state = .fault ∧ 2 ≤ s.chain.goods)) :
    completeCycle 0xA5 inputs s =
      let o := arrange [.detectors, .cabs, .axes, .watches, .check] (handedFrom cyc inputs s)
      handOffs o.1 o.2 := by
  have good : ((0xA5 : Byte) == marker) = true := rfl
  have on : s.chain.state ≠ .off := by
    obtain e | ⟨e, -⟩ := hs <;> rw [e] <;> exact nofun
  have next : nextChainState true (completed true cyc inputs s.chain) = .ok := by
    obtain e | ⟨e, third⟩ := hs
    · exact nextChainState_good_ok e
    · rw [nextChainState_good e, if_pos third]
  rw [completeCycle_eq hc on]
  simp only [good, next, chainTurns_ok_chain]
  rfl

/-! ## The readings after a good completion -/

/-- Whatever the order of the receivers, the node holds the readings of the values handed on (R133). -/
theorem completeCycle_reads (hc : s.chain.inFlight = some cyc)
    (hs : s.chain.state = .ok ∨ (s.chain.state = .fault ∧ 2 ≤ s.chain.goods)) :
    Reads (handedFrom cyc inputs s) (handedOn (handedFrom cyc inputs s)) (finish (completeCycle 0xA5 inputs s)) := by
  rw [completeCycle_good hc hs]
  exact ((Reads.refl (handedFrom cyc inputs s)).arrange.handOffs_perm (arrange_perm _ _)).finish

/-- The chain that a good completion hands on from (R129, R130, R132). -/
theorem handedFrom_chain : (handedFrom cyc inputs s).chain =
    { completed true cyc inputs s.chain with
      state := .ok
      inputs := tab fun k => debounce s.tables.inMap[k].debounce
        { s.chain.inputs[k] with raw := decide (k.val < 8 * cyc.inRegs) && inputs.getLsbD k.val } } := by
  simp only [handedFrom, debouncePass, chainTurns_ok_chain, chainTurns_ok_tables, counted, completed, if_true, tab_get]

theorem handedFrom_tables : (handedFrom cyc inputs s).tables = s.tables := chainTurns_ok_tables _

/-- Each watch is evaluated against the input values of the debounced inputs (R136). -/
theorem handedOn_watch (w : WatchId) : (handedOn (handedFrom cyc inputs s)).watches[w] =
    watched s.tables.watches[w] (inputValues (handedFrom cyc inputs s)) s.chain.watches[w] := by
  have watches : (handedFrom cyc inputs s).chain.watches = s.chain.watches := by
    rw [handedFrom_chain]
    rfl
  rw [← handedFrom_tables (cyc := cyc) (inputs := inputs), ← watches]
  exact tab_get _ w

end

/-! ## A node that is ACTIVE -/

/-- In ACTIVE the taking of requests leaves the node ACTIVE. -/
theorem takeReqs_active (left qs : List Req) {s : State} (h : s.node = .active) : (takeReqs left qs s).node = .active := by
  induction qs generalizing s with
  | nil => exact h
  | cons q qs ih =>
    have node : (runReq q { s with owed := qs ++ left }).node = .active := (Rests.runReq_node_owed q _).1.trans h
    refine ih ?_
    rw [reqEvent_of_active node]
    exact node

theorem settle_active {s : State} (h : s.node = .active) : (settle s).node = .active := by
  unfold settle
  split
  · exact h
  · refine takeReqs_active _ _ ?_
    obtain ⟨cs, n, e⟩ := draw_snd s
    rw [e]
    exact h

theorem finish_check_settle_active {s : State} (h : s.node = .active) :
    (finish (nodeCheck (settle s))).node = .active := by
  rw [nodeCheck_of_active (settle_active h)]
  exact takeReqs_active _ _ (settle_active h)

/-- In ACTIVE, with nothing owed, a completion that is handed to no block ends as it stands. -/
theorem finish_check_settle {s : State} (ho : s.owed = []) (ha : s.node = .active) : finish (nodeCheck (settle s)) = s := by
  rw [settle_of_nothing_owed ho, nodeCheck_of_active ha, finish_of_nothing_owed ho]

theorem exec_chainCycleComplete (ret : Byte) (inputs : BitVec 64) (s : State) :
    exec (.chainCycleComplete ret inputs) s = .next (finish (completeCycle ret inputs s)) := rfl

/-- Settles O56: below three breaks nothing is asked of any block; the third asks the trains and the axes, and each of the two
requests keeps what the other has brought about. -/
theorem badChainCycle : Obligations.BadChainCycle := by
  intro ret inputs s hr ho
  refine ⟨fun none => ?_, fun cyc hc hs ha => ?_⟩
  · rw [exec_chainCycleComplete, completeCycle_of_none none, finish_of_nothing_owed ho]
  have on : s.chain.state ≠ .off := by rw [hs]; exact nofun
  rw [exec_chainCycleComplete, completeCycle_bad hr hc on, nextChainState_bad hs]
  refine ⟨fun few => ?_, fun many => ?_⟩
  · rw [if_neg (Nat.not_le.2 few), chainTurns_same (s := counted false cyc inputs s) hs]
    exact congrArg Host.Outcome.next (finish_check_settle ho ha)
  · rw [if_pos many]
    have intact : (counted false cyc inputs s).chain.state ≠ .fault := by
      rw [show (counted false cyc inputs s).chain.state = .ok from hs]
      exact nofun
    obtain ⟨cs, n, reqs, perm, turned⟩ := chainTurns_fault_eq intact ho
    rw [turned]
    have reads : Reads (turnedTo .fault (counted false cyc inputs s)) _
        { turnedTo .fault (counted false cyc inputs s) with choices := cs, drawn := n, owed := reqs } := Reads.refl _
    have after := reads.settle.nodeCheck.finish
    refine ⟨_, rfl, after.chain, finish_check_settle_active ha, finish_owed _, ?_, after.tables, fun k => ?_, fun a => ?_⟩
    · exact after.chainLatch.trans (latchOf_latch ..)
    · exact haltReaches_chain.1 (faultReqs_notUnderWay perm k)
    · exact faultReqs_notHoming perm a

/-- Settles O57: each receiver's event writes its own readings from the tables and the debounced inputs, which no event touches, so
every order of the receivers leaves the same. -/
theorem goodChainCycle : Obligations.GoodChainCycle := by
  intro inputs cyc s hc ho raw
  refine ⟨fun hs => ?_, fun hs hg ha => ?_⟩
  · have after := completeCycle_reads (inputs := inputs) hc hs
    have chain := after.chain
    rw [handedFrom_chain] at chain
    refine ⟨_, exec_chainCycleComplete .., ?_⟩
    have owed := finish_owed (completeCycle 0xA5 inputs s)
    generalize finish (completeCycle 0xA5 inputs s) = t at after chain owed
    rw [chain]
    refine ⟨rfl, rfl, rfl, rfl, rfl, rfl, after.tables.trans handedFrom_tables, owed, ?_, fun k => ?_, fun n => ?_, fun k => ?_,
      fun a => ⟨?_, ?_⟩, fun w => ?_⟩
    · exact after.chainLatch.trans (latchOf_chainTurns_ok _)
    · exact tab_get _ k
    · rw [after.roleValue_eq]
      exact after.occ n
    · rw [after.roleValue_eq]
      exact after.overload k
    · rw [after.roleValue_eq]
      exact after.home a
    · rw [after.roleValue_eq]
      exact after.fault a
    · rw [after.inputValues_eq]
      exact handedOn_watch w
  · rw [exec_chainCycleComplete, completeCycle_good_fault hc hs hg]
    exact congrArg Host.Outcome.next (finish_check_settle ho ha)

end Sys2Proof.Machine
end

section
/-! The frame check and the classes of a downstream frame, and what the frames that bring no content do (R139 to R141, R143,
R153). -/

namespace Sys2Proof.Machine

/-! ## The frame check (R139) -/

/-- Bytes taken into the check one after another. -/
theorem crc_append_singleton (bs : List Byte) (b : Byte) : crc (bs ++ [b]) = crcByte (crc bs) b := by
  simp only [crc, List.foldl_append, List.foldl_cons, List.foldl_nil]

/-- A check taken into itself leaves the remainder 0. -/
theorem crcByte_self (c : Byte) : crcByte c c = 0 := by
  simp only [crcByte, BitVec.xor_self]
  decide

/-- A frame with the damaged flag is damaged (R139). -/
theorem classify_damaged {f : Byte} (h : f.getLsbD 1 = true) (c l y v : Byte) :
    classify (withCheck [f, c, l, y, v]) = .damaged := by
  simp only [classify, checkMatches_withCheck, if_true]
  simp only [withCheck, List.cons_append, List.getD_cons_zero, h, if_true]

/-- A frame with the orphan flag and without the damaged flag is orphan (R139). -/
theorem classify_orphan {f : Byte} (h1 : f.getLsbD 1 = false) (h2 : f.getLsbD 2 = true) (c l y v : Byte) :
    classify (withCheck [f, c, l, y, v]) = .orphan := by
  simp only [classify, checkMatches_withCheck, if_true]
  simp only [withCheck, List.cons_append, List.getD_cons_zero, h1, h2, Bool.false_eq_true, if_false, if_true]

/-- Settles O12: the remainder by the check of the last byte, the classes one by one. -/
theorem frameCheckAndClasses : Obligations.FrameCheckAndClasses := by
  refine ⟨fun bs => ?_, by decide, by decide, by decide, fun bs h => classify_failed h, fun f c l y v => ?_⟩
  · rw [crc_append_singleton, crcByte_self]
  · exact ⟨fun h => classify_damaged h .., fun h1 h2 => classify_orphan h1 h2 .., fun h1 h2 => classify_valid h1 h2 ..⟩

/-! ## Forwarding (R143) -/

/-- The downstream port after a frame is forwarded: in LOST the own frame of the period stays. -/
def sentDown (bs : List Byte) (l : Link) : Option (List Byte) :=
  match l.state with
  | .lost => l.downOut
  | .searching | .locked => some bs

theorem forward_eq (bs : List Byte) (s : State) :
    forward bs s = setLink { s.link with downOut := sentDown bs s.link } s := by
  unfold forward sentDown
  cases h : s.link.state <;> rfl

theorem sentDown_of_not_lost {l : Link} (h : l.state ≠ .lost) (bs : List Byte) : sentDown bs l = some bs := by
  unfold sentDown
  split
  · next lost => exact absurd lost h
  · rfl
  · rfl

/-- A frame discards an open transfer with DAMAGED, and is forwarded (R140, R141, R153). -/
theorem forward_discardOpen_of_open {s : State} {via : Opened} (h : s.xfer.opened = some via) (bs : List Byte) :
    forward bs (discardOpen .damaged s) = outcome via (s.xfer.buf.head?.getD 0) .damaged []
      (closeUnit (setLink { s.link with downOut := sentDown bs s.link } s)) := by
  rw [discardOpen_of_open h, forward_eq, outcome_link, ← outcome_setLink]
  rfl

/-! ## The command (R139) -/

/-- A downstream frame that leaves nothing owed. -/
theorem exec_downstreamFrame {bs : List Byte} {s t : State} (h : arrive6 bs s = t) (ho : t.owed = []) :
    exec (.downstreamFrame bs) s = .next t := by
  subst h
  exact congrArg Host.Outcome.next (finish_of_nothing_owed ho)

/-- A failed frame (R140). -/
theorem arrive6_failed {bs : List Byte} (h : ¬ (bs.length = 6 ∧ crc (bs.take 5) = bs.getD 5 0)) (s : State) :
    arrive6 bs s = forward (failedForward bs) (discardOpen .damaged (countDamaged false s)) := by
  rw [arrive6, classify_failed h]

/-- A damaged or an orphan frame (R141). -/
theorem arrive6_damaged_or_orphan {f : Byte} (h : f.getLsbD 1 = true ∨ f.getLsbD 2 = true) (c l y v : Byte) (s : State) :
    arrive6 (withCheck [f, c, l, y, v]) s = forward (withCheck [f, c, l, y, v]) (discardOpen .damaged s) := by
  cases h1 : f.getLsbD 1
  · rw [arrive6, classify_orphan h1 (h.resolve_left (by rw [h1]; exact Bool.false_ne_true))]
  · rw [arrive6, classify_damaged h1]

/-- Settles O13: the count and the notice come before the discard and the forwarding, which leave both. -/
theorem failedFrame : Obligations.FailedFrame := by
  intro bs s hf ho sent link
  refine ⟨fun closed => ?_, fun via opened => ?_⟩
  · refine exec_downstreamFrame ?_ ho
    rw [arrive6_failed hf, discardOpen_of_closed (s := countDamaged false s) closed, forward_eq]
    rfl
  · refine exec_downstreamFrame ?_ (by rw [outcome_owed]; exact ho)
    rw [arrive6_failed hf, forward_discardOpen_of_open (s := countDamaged false s) opened]
    rfl

/-- Settles O14: the discard and the forwarding are all there is. -/
theorem damagedOrOrphanFrame : Obligations.DamagedOrOrphanFrame := by
  intro f c l y v s hf ho bs link
  refine ⟨fun closed => ?_, fun via opened => ?_⟩
  · refine exec_downstreamFrame ?_ ho
    rw [arrive6_damaged_or_orphan hf, discardOpen_of_closed closed, forward_eq]
    rfl
  · refine exec_downstreamFrame ?_ (by rw [outcome_owed]; exact ho)
    rw [arrive6_damaged_or_orphan hf, forward_discardOpen_of_open opened]
    rfl

end Sys2Proof.Machine
end

section
/-! Valid frames without a step mark: the lines, a cue, an ENUM and a GRANT (R142, R143, R147, R148, R150, R164, R166). -/

namespace Sys2Proof.Machine

/-! ## The frame and its parts (R142) -/

/-- The state with the lines of a frame taken (R147). -/
def withLines (l : Byte) (s : State) : State := setLink { s.link with lines := l } s

/-- A valid frame without a step mark: its parts in some order, and the forwarding. -/
theorem arrive6_unmarked {f : Byte} (h0 : f.getLsbD 0 = false) (h1 : f.getLsbD 1 = false) (h2 : f.getLsbD 2 = false)
    (c l y v : Byte) (s : State) :
    arrive6 (withCheck [f, c, l, y, v]) s = forward (validForward (withCheck [f, c, l, y, v]))
      (anyOrder (contentParts s.link.state (withCheck [f, c, l, y, v])) (withLines l s)) := by
  simp only [arrive6, classify_valid h1 h2, validFrame, frameParts, hasMark_withCheck, h0, Bool.false_eq_true, if_false]
  rfl

/-- Outside LOST a cue code alone is one part, or none for code 0 (R2, R142). -/
theorem anyOrder_cue {st : LinkState} (hl : st ≠ .lost) {y v : Byte} (hi : symbolActs y v = false) {s : State}
    (ho : s.owed = []) (f c l : Byte) :
    anyOrder (contentParts st (withCheck [f, c, l, y, v])) s = appendCue c.toNat .link s := by
  rw [contentParts_withCheck hl, hi]
  by_cases hc : c.toNat = 0
  · simp [hc]
  · simp [hc, partEvent_cue ho]

/-- Outside LOST an acting symbol with cue code 0 is the one part (R142). -/
theorem anyOrder_symbol {st : LinkState} (hl : st ≠ .lost) {y v : Byte} (ha : symbolActs y v = true) {s : State}
    (ho : s.owed = []) (f l : Byte) :
    anyOrder (contentParts st (withCheck [f, 0, l, y, v])) s = takeSymbol y v s := by
  simp [contentParts_withCheck hl, ha, partEvent_symbol ho]

/-- A cue leaves the link. -/
@[simp] theorem appendCue_link (code : Nat) (source : Source) (s : State) : (appendCue code source s).link = s.link := by
  obtain ⟨-, -, h⟩ := Fixed.append (c := code) (src := source) (fixed_refl s)
  exact h

/-- A cue and a change of the link do not meet. -/
theorem appendCue_setLink (code : Nat) (source : Source) (l : Link) (s : State) :
    appendCue code source (setLink l s) = setLink l (appendCue code source s) := by
  by_cases hc : code = 0
  · subst hc
    rw [appendCue_zero, appendCue_zero]
  · obtain room | full := Nat.lt_or_ge s.cue.queue.length 32
    · rw [appendCue_of_room hc room, appendCue_of_room (s := setLink l s) hc room]
      rfl
    · rw [appendCue_of_full hc full, appendCue_of_full (s := setLink l s) hc full]
      rfl

/-- A frame with an IDLE symbol outside LOST: lines, cue, forwarding (R142, R143, R147). -/
theorem arrive6_idle {f y v : Byte} (h0 : f.getLsbD 0 = false) (h1 : f.getLsbD 1 = false) (h2 : f.getLsbD 2 = false)
    (hi : symbolActs y v = false) {s : State} (hl : s.link.state ≠ .lost) (ho : s.owed = []) (c l : Byte) :
    arrive6 (withCheck [f, c, l, y, v]) s = appendCue c.toNat .link
      (setLink { s.link with lines := l, downOut := some (withCheck [f, c, l, y, v]) } s) := by
  rw [arrive6_unmarked h0 h1 h2, anyOrder_cue hl hi (s := withLines l s) ho, validForward_of_idle hi, forward_eq,
    appendCue_link, ← appendCue_setLink, sentDown_of_not_lost (l := (withLines l s).link) hl]
  rfl

/-- A frame in LOST brings its lines alone (R142, R143, R147). -/
theorem arrive6_lost {f : Byte} (h0 : f.getLsbD 0 = false) (h1 : f.getLsbD 1 = false) (h2 : f.getLsbD 2 = false)
    {s : State} (hl : s.link.state = .lost) (c l y v : Byte) :
    arrive6 (withCheck [f, c, l, y, v]) s = withLines l s := by
  rw [arrive6_unmarked h0 h1 h2, hl, contentParts_lost, anyOrder_nil, forward_eq]
  simp only [sentDown, withLines, setLink_link, hl]
  rfl

/-- Settles O15: the cue is one part or none, by the room in the queue. -/
theorem validFrameBringsLinesAndCue : Obligations.ValidFrameBringsLinesAndCue := by
  intro f c l y v s h0 h1 h2 hi ho bs u
  have code : c ≠ 0 → c.toNat ≠ 0 := fun hc e => hc (BitVec.eq_of_toNat_eq e)
  refine ⟨fun hl => exec_downstreamFrame (arrive6_lost h0 h1 h2 hl ..) ho, fun hl hc => ?_, fun hl hc room => ?_,
    fun hl hc full => ?_⟩
  · subst hc
    exact exec_downstreamFrame ((arrive6_idle h0 h1 h2 hi hl ho 0 l).trans (appendCue_zero ..)) ho
  · exact exec_downstreamFrame ((arrive6_idle h0 h1 h2 hi hl ho c l).trans (appendCue_of_room (s := u) (code hc) room .link)) ho
  · exact exec_downstreamFrame ((arrive6_idle h0 h1 h2 hi hl ho c l).trans (appendCue_of_full (s := u) (code hc) full .link)) ho

/-! ## Symbols that act (R142) -/

/-- A frame with cue code 0 and an acting symbol outside LOST: lines, symbol, forwarding. -/
theorem arrive6_symbol {f y v : Byte} (h0 : f.getLsbD 0 = false) (h1 : f.getLsbD 1 = false) (h2 : f.getLsbD 2 = false)
    (ha : symbolActs y v = true) {s : State} (hl : s.link.state ≠ .lost) (ho : s.owed = []) (l : Byte) :
    arrive6 (withCheck [f, 0, l, y, v]) s =
      forward (validForward (withCheck [f, 0, l, y, v])) (takeSymbol y v (withLines l s)) := by
  rw [arrive6_unmarked h0 h1 h2, anyOrder_symbol hl ha (s := withLines l s) ho]

/-- An ENUM goes on one higher, or as 63 (R148). -/
theorem validForward_enum {h : Byte} (hh : h.toNat < 64) (f l : Byte) :
    validForward (withCheck [f, 0, l, 5, h]) =
      withCheck [f, 0, l, 5, if 1 ≤ h.toNat ∧ h.toNat ≤ 62 then h + 1 else 63] := by
  have enum : isEnum (withCheck [f, 0, l, 5, h]) = true := by simp [isEnum, withCheck, at_, hh]
  have hop : byte (nextHop (at_ (withCheck [f, 0, l, 5, h]) 4)) =
      if 1 ≤ h.toNat ∧ h.toNat ≤ 62 then h + 1 else 63 := by
    simp only [at_, withCheck, List.cons_append, List.getD_cons_succ, List.getD_cons_zero, nextHop]
    split
    · exact BitVec.eq_of_toNat_eq (by simp [byte])
    · rfl
  rw [validForward, if_pos enum, hop]
  rfl

/-- Settles O16: the ENUM is the one part of the frame. -/
theorem enumGivesAddress : Obligations.EnumGivesAddress := by
  intro f l h s h0 h1 h2 hh hl ho
  refine exec_downstreamFrame ?_ ho
  have acts : symbolActs 5 h = true := decide_eq_true hh
  rw [arrive6_symbol h0 h1 h2 acts hl ho, validForward_enum hh, forward_eq,
    sentDown_of_not_lost (l := (takeSymbol 5 h (withLines l s)).link) hl]
  rfl

/-! ## Answers at a GRANT (R150, R164, R166) -/

/-- The node begins to talk. -/
def talks (address : Nat) (a : AnswerKind × List Byte × State) : State :=
  setLink { a.2.2.link with talk := some ⟨a.1, answerSymbols address a.2.1⟩ } a.2.2

/-- A GRANT to the own address of a node that is not talking is answered (R150). -/
theorem takeGrant_own {s : State} (h1 : 1 ≤ s.link.address) (h62 : s.link.address ≤ 62) (hn : s.link.talk = none) :
    takeGrant s.link.address s = talks s.link.address (giveAnswer s) := by
  have quiet : talking s = false := by rw [talking, hn]; rfl
  rw [takeGrant, if_pos ⟨h1, h62, rfl, by rw [quiet]; rfl⟩]
  rfl

/-- The oldest reply is lent (R164). -/
theorem giveAnswer_reply {s : State} {r : Reply} {more : List Reply} (h : s.xfer.replies = r :: more) :
    giveAnswer s = (.reply, [1, r.kind, byte r.result.code] ++ r.data, setXfer { s.xfer with lent := true } s) := by
  rw [giveAnswer, h]

/-- A latch is reported where it is reportable. -/
theorem mem_reported {n : Notices} {k : Fin 13} : k ∈ reported n ↔ reportable n k = true := by
  simp [reported, every]

/-- With no reply and nothing to report the answer is EMPTY (R164). -/
theorem giveAnswer_empty {s : State} (h : s.xfer.replies = [])
    (hn : ∀ k : Fin 13, s.notices.master = true → reportable s.notices k = false) : giveAnswer s = (.empty, [3], s) := by
  have none : (s.notices.master && !(reported s.notices).isEmpty) = false := by
    cases hm : s.notices.master
    · rfl
    · have nil : reported s.notices = [] := List.eq_nil_iff_forall_not_mem.2 fun k mem => by
        rw [mem_reported, hn k hm] at mem
        cases mem
      rw [nil]
      rfl
  rw [giveAnswer, h]
  simp only [none, Bool.false_eq_true, if_false]

/-- With no reply, the master enable on and a latch to report, the answer is a report (R164, R166). -/
theorem giveAnswer_notice {s : State} (h : s.xfer.replies = []) (hm : s.notices.master = true)
    (hr : ∃ k : Fin 13, reportable s.notices k = true) : giveAnswer s = (.notice, reportBytes s.notices,
      { s with notices := mapLatches (fun k l => if reportable s.notices k then l.report else l) s.notices }) := by
  obtain ⟨k, hk⟩ := hr
  have some : (reported s.notices).isEmpty = false :=
    List.isEmpty_eq_false_iff.2 (List.ne_nil_of_mem (mem_reported.2 hk))
  rw [giveAnswer, h]
  simp only [hm, some, Bool.not_false, Bool.and_self, if_true]

/-- A latch as a report leaves it (R166). -/
def reportedLatch (enabled : Bool) : Latch → Latch
  | .set d => if enabled then .reporting d none else .set d
  | x => x

/-- The latches that are reported turn from SET to REPORTING, the others stay (R166). -/
theorem mapLatches_report (n : Notices) : mapLatches (fun k l => if reportable n k then l.report else l) n =
    { n with latches := tab fun k => reportedLatch (n.enables.getLsbD k.val) n.latches[k] } := by
  refine congrArg (fun f => { n with latches := tab f }) (funext fun k => ?_)
  unfold reportable kindEnabled
  cases h : n.latches[k] with
  | set d => simp only [h, Latch.report, reportedLatch, Bool.and_true]
  | clear | reporting => simp only [h, reportedLatch, Bool.and_false, Bool.false_eq_true, if_false]

/-- The symbols of the EMPTY answer (R150). -/
theorem answerSymbols_empty {g : Byte} {address : Nat} (h : g.toNat = address) :
    answerSymbols address [3] = [⟨1, g⟩, ⟨2, 3⟩, ⟨2, 3⟩, ⟨2, 3⟩, ⟨3, 0⟩] := by
  have own : byte address = g := by rw [← h, byte, BitVec.ofNat_toNat, BitVec.setWidth_eq]
  rw [answerSymbols, own]
  rfl

/-- Settles O17: the GRANT is the one part of the frame, and the answer is the first of the three that there is. -/
theorem grantStartsAnswer : Obligations.GrantStartsAnswer := by
  intro f l g s h0 h1 h2 hg hlow hhigh hn hl ho bs link
  have acts : symbolActs 4 g = true := decide_eq_true (by omega)
  have granted : arrive6 bs s = forward bs (talks s.link.address (giveAnswer (withLines l s))) := by
    have grant : takeSymbol 4 g (withLines l s) = takeGrant g.toNat (withLines l s) := rfl
    rw [arrive6_symbol h0 h1 h2 acts hl ho, grant, hg]
    exact congrArg _ (takeGrant_own (s := withLines l s) hlow hhigh hn)
  refine ⟨fun r more hr => ?_, fun hr none => ?_, fun hr hm some => ?_⟩
  · refine exec_downstreamFrame (granted.trans ?_) ho
    rw [giveAnswer_reply (s := withLines l s) hr, forward_eq, sentDown_of_not_lost (by exact hl)]
    rfl
  · refine exec_downstreamFrame (granted.trans ?_) ho
    rw [giveAnswer_empty (s := withLines l s) hr none, forward_eq, sentDown_of_not_lost (by exact hl), talks,
      answerSymbols_empty hg]
    rfl
  · refine exec_downstreamFrame (granted.trans ?_) ho
    rw [giveAnswer_notice (s := withLines l s) hr hm some, forward_eq, sentDown_of_not_lost (by exact hl), talks, mapLatches_report]
    rfl

end Sys2Proof.Machine
end

section
/-! The return lane: a return frame is sent on, replaced by IDLE, or replaced by the own symbol of a node that talks (R140, R149 to
R151). -/

namespace Sys2Proof.Machine

/-- A return frame that is no three bytes with their check fails (R149). -/
theorem retMatches_failed {bs : List Byte} (h : ¬ (bs.length = 3 ∧ crc (bs.take 2) = bs.getD 2 0)) :
    retMatches bs = false := by
  refine Bool.eq_false_of_not_eq_true fun e => h ?_
  simpa [retMatches] using e

section
variable {s : State} {bs : List Byte}

/-! ## A node that is not talking (R149) -/

theorem arrive3_passed (hm : retMatches bs = true) (hn : s.link.talk = none) : arrive3 bs s = passReturn bs s := by
  have quiet : talking s = false := by rw [talking, hn]; rfl
  simp only [arrive3, hm, quiet, if_true, Bool.false_eq_true, if_false]

theorem arrive3_damaged (hm : retMatches bs = false) (hn : s.link.talk = none) :
    arrive3 bs s = passReturn idleFrame (countDamaged true s) := by
  have quiet : talking (countDamaged true s) = false := by
    show s.link.talk.isSome = false
    rw [hn]
    rfl
  simp only [arrive3, hm, quiet, Bool.false_eq_true, if_false]

theorem passReturn_free (h : s.link.retOwn = false) (bs : List Byte) :
    passReturn bs s = setLink { s.link with retOut := some bs } s := by
  rw [passReturn, h, if_neg Bool.false_ne_true]

/-! ## A node that talks (R150, R151) -/

variable {k : AnswerKind} {mine : RetSymbol} {rest : List RetSymbol}

/-- The link with the own symbol on the lane, unless the frame of this period is fixed already (log entry 12). -/
def ownSent (k : AnswerKind) (mine : RetSymbol) (rest : List RetSymbol) (l : Link) : Link :=
  if l.retOwn then l else
    { l with talk := some ⟨k, rest⟩, retOut := some (withCheck [mine.type, mine.value]), retOwn := true }

theorem placeOwn_talking (h : s.link.talk = some ⟨k, mine :: rest⟩) :
    placeOwn s = setLink (ownSent k mine rest s.link) s := by
  rw [placeOwn, h]
  cases fixed : s.link.retOwn
  · simp only [ownSent, fixed, Bool.false_eq_true, if_false]
    rfl
  · simp only [ownSent, fixed, if_true]
    rfl

/-- The own symbol and the damaged count do not meet. -/
theorem ownSent_damaged (n : Nat) (l : Link) :
    ownSent k mine rest { l with damaged := n } = { ownSent k mine rest l with damaged := n } := by
  unfold ownSent
  dsimp only
  split <;> rfl

theorem talking_of_some {t : Talk} (h : s.link.talk = some t) : talking s = true := by
  rw [talking, h]
  rfl

/-- An IDLE is replaced by the own symbol without a notice (R151). -/
theorem arrive3_idle (h : s.link.talk = some ⟨k, mine :: rest⟩) (v : Byte) :
    arrive3 (withCheck [0, v]) s = setLink (ownSent k mine rest s.link) s := by
  rw [arrive3, if_pos (retMatches_withCheck ..), if_pos (talking_of_some h), ← placeOwn_talking h]
  rfl

/-- Another symbol is a COLLISION (R151). -/
theorem arrive3_collides (h : s.link.talk = some ⟨k, mine :: rest⟩) {y : Byte} (hy : y ≠ 0) (v : Byte) :
    arrive3 (withCheck [y, v]) s = collide y v (setLink (ownSent k mine rest s.link) s) := by
  have symbol : (withCheck [y, v]).getD 0 0 ≠ 0 := hy
  rw [arrive3, if_pos (retMatches_withCheck ..), if_pos (talking_of_some h), if_neg symbol]
  exact placeOwn_talking (s := collide y v s) h

/-- A failed frame is counted, and is no collision (R140, log entry 13). -/
theorem arrive3_talking_damaged (hm : retMatches bs = false) (h : s.link.talk = some ⟨k, mine :: rest⟩) :
    arrive3 bs s = latch .damaged (.lane true)
      (setLink { ownSent k mine rest s.link with damaged := min 65535 (s.link.damaged + 1) } s) := by
  have after : (countDamaged true s).link.talk = some ⟨k, mine :: rest⟩ := h
  rw [arrive3, hm, if_neg Bool.false_ne_true]
  dsimp only
  rw [if_pos (talking_of_some after), placeOwn_talking after, ← ownSent_damaged]
  rfl

end

/-- Settles O24: a RETURN_FRAME by whether the node talks and whether the check matches. -/
theorem returnFrames : Obligations.ReturnFrames := by
  refine ⟨fun s hn free => ⟨fun y v => ?_, fun bs hf => ?_⟩, fun k mine rest s h => ?_⟩
  · refine congrArg Host.Outcome.next ?_
    rw [arrive3_passed (retMatches_withCheck ..) hn, passReturn_free free]
    rfl
  · refine congrArg Host.Outcome.next ?_
    rw [arrive3_damaged (retMatches_failed hf) hn, passReturn_free (s := countDamaged true s) free]
    rfl
  · intro sent
    refine ⟨fun v => ?_, fun y v hy => ?_, fun bs hf => ?_⟩
    · exact congrArg Host.Outcome.next (arrive3_idle h v)
    · exact congrArg Host.Outcome.next (arrive3_collides h hy v)
    · exact congrArg Host.Outcome.next (arrive3_talking_damaged (retMatches_failed hf) h)

end Sys2Proof.Machine
end

section
/-! FRAME_PERIOD: what the start of a frame period and the Axis Unit's event leave, and what the ports and counts become (R6, R138,
R143, R146, R149, log entries 1, 7, 8, 12 and 31). -/

namespace Sys2Proof.Machine

/-! ## What the Axis Unit's event leaves (R107) -/

/-- What the Axis Unit's frame period does not touch: `s` has it as `z`. -/
structure PeriodLeaves (z s : State) : Prop where
  link : s.link = z.link
  tables : s.tables = z.tables
  takes : s.cue.takes = z.cue.takes
  flags : s.cue.flags = z.cue.flags
  clock : s.clock = z.clock
  players : s.players = z.players
  lamp : s.lamp = z.lamp
  pts : s.pts = z.pts
  owed : s.owed = z.owed

theorem PeriodLeaves.refl (s : State) : PeriodLeaves s s := ⟨rfl, rfl, rfl, rfl, rfl, rfl, rfl, rfl, rfl⟩

theorem ButRails.pts {z s : State} (h : ButRails z s) : s.pts = z.pts := by
  obtain ⟨v, w, n, rfl⟩ := h
  rfl

@[simp] theorem draw_pts (s : State) : (draw s).2.pts = s.pts := by
  obtain ⟨cs, n, e⟩ := draw_snd s
  rw [e]

@[simp] theorem arrange_pts {α : Type} (xs : List α) (s : State) : (arrange xs s).2.pts = s.pts := by
  obtain ⟨cs, n, e⟩ := arrange_snd xs s
  rw [e]

@[simp] theorem axisStandTold_pts (a : AxisId) (s : State) : (axisStandTold a s).pts = s.pts :=
  (ButRails.refl s).axisStandTold.pts

@[simp] theorem axisFaultTold_pts (a : AxisId) (s : State) : (axisFaultTold a s).pts = s.pts :=
  (ButRails.refl s).axisFaultTold.pts

@[simp] theorem haltOwners_pts (a : AxisId) (s : State) : (haltOwners a s).pts = s.pts := by
  have halts := foldl_keeps (P := ButRails (arrange (axisLockers s a).dedup s).2) (fun u t => halt .guard t u)
    (arrange (axisLockers s a).dedup s).1 (fun _ _ _ hu => hu.halt) _ (ButRails.refl _)
  exact halts.pts.trans (arrange_pts _ s)

@[simp] theorem faultAxis_pts (reason : AxisFault) (a : AxisId) (s : State) : (faultAxis reason a s).pts = s.pts := by
  unfold faultAxis
  dsimp only
  split
  · split <;> simp
  · simp

@[simp] theorem periodEvent_pts (e : AxisId × PeriodEvent) (s : State) : (periodEvent e s).pts = s.pts := by
  unfold periodEvent
  split <;> simp

/-- The stands and faults of a frame period throw no point (R81, R118). -/
@[simp] theorem axisPeriod_pts (s : State) : (axisPeriod s).pts = s.pts := by
  rw [axisPeriod_eq]
  exact foldl_keeps (P := fun u => u.pts = s.pts) _ _ (fun u e _ hu => (periodEvent_pts e u).trans hu) _ (arrange_pts _ _)

theorem axisPeriod_leaves (s : State) : PeriodLeaves s (axisPeriod s) := by
  have others {α : Type} (f : State → α) : f (othersOf (axisPeriod s)) = f (othersOf { s with axisDue := false }) :=
    congrArg f (axisPeriod_others s)
  exact {
    link := others State.link
    tables := others State.tables
    takes := others fun t => t.cue.takes
    flags := others fun t => t.cue.flags
    clock := others State.clock
    players := others State.players
    lamp := others State.lamp
    pts := axisPeriod_pts s
    owed := others State.owed }

/-- With nothing owed the Axis Unit's event leaves all these. -/
theorem partEvent_period_leaves {s : State} (ho : s.owed = []) : PeriodLeaves s (partEvent .period s) := by
  obtain ⟨k, n, e⟩ := partEvent_period ho
  have after := axisPeriod_leaves s
  rw [e]
  exact ⟨after.link, after.tables, after.takes, after.flags, after.clock, after.players, after.lamp, after.pts, after.owed⟩

theorem flushPeriod_leaves {s : State} (ho : s.owed = []) : PeriodLeaves s (flushPeriod s) := by
  unfold flushPeriod
  split
  · exact partEvent_period_leaves ho
  · exact PeriodLeaves.refl s

theorem axisFramePeriod_leaves {s : State} (ho : s.owed = []) : PeriodLeaves s (axisFramePeriod s) := by
  obtain ⟨cs, n, e⟩ := draw_snd s
  unfold axisFramePeriod
  dsimp only
  rw [e]
  split
  · have after := partEvent_period_leaves (s := { s with choices := cs, drawn := n }) ho
    exact ⟨after.link, after.tables, after.takes, after.flags, after.clock, after.players, after.lamp, after.pts, after.owed⟩
  · exact ⟨rfl, rfl, rfl, rfl, rfl, rfl, rfl, rfl, rfl⟩

/-! ## The start of a frame period (R138) -/

/-- An answer done changes the talk state, the transfers and the notices alone (R163, R166). -/
theorem answerDone_talk (s : State) :
    ∃ k x n, answerDone s = { s with link := { s.link with talk := k }, xfer := x, notices := n } := by
  unfold answerDone
  split
  · next k _ => cases k <;> exact ⟨_, _, _, rfl⟩
  all_goals exact ⟨_, _, _, rfl⟩

/-- The own symbol changes the talk state and the return port alone (R150). -/
theorem placeOwn_port (s : State) :
    ∃ k r o, placeOwn s = setLink { s.link with talk := k, retOut := r, retOwn := o } s := by
  unfold placeOwn
  split
  · split <;> exact ⟨_, _, _, rfl⟩
  all_goals exact ⟨_, _, _, rfl⟩

/-- The link at the start of a frame period, but for the talk state and the return port; the takes start anew (R6, R138). -/
theorem periodBegun_port (s : State) : ∃ k r o x n, periodBegun s = { turnPulses s with
    link := { periodLink s.tables.node.timeout s.link with talk := k, retOut := r, retOwn := o }
    xfer := x, notices := n, cue := { s.cue with takes := 0 } } := by
  obtain ⟨k, x, n, e⟩ := answerDone_talk (turnPulses s)
  obtain ⟨k', r, o, f⟩ := placeOwn_port (setLink (periodLink s.tables.node.timeout { s.link with talk := k })
    (freshTakes (answerDone (turnPulses s))))
  refine ⟨k', r, o, x, n, ?_⟩
  unfold periodBegun
  rw [e] at f ⊢
  exact f

/-- What every FRAME_PERIOD does to the gaps, the timeout and the takes, and what it leaves (R6, R138, R146). -/
theorem beginPeriod_counts {s : State} (ho : s.owed = []) : ∃ k r o, PeriodLeaves { s with
    link := { periodLink s.tables.node.timeout s.link with talk := k, retOut := r, retOwn := o }
    cue := { s.cue with takes := 0 } } (beginPeriod s) := by
  have flushed := flushPeriod_leaves ho
  obtain ⟨k, r, o, x, n, begun⟩ := periodBegun_port (flushPeriod s)
  have owed : (periodBegun (flushPeriod s)).owed = [] := by
    rw [begun]
    exact flushed.owed.trans ho
  have after := axisFramePeriod_leaves owed
  rw [begun] at after
  refine ⟨k, r, o, ?_⟩
  rw [beginPeriod_eq, begun]
  exact {
    link := by rw [after.link, flushed.tables, flushed.link]
    tables := after.tables.trans flushed.tables
    takes := after.takes
    flags := after.flags.trans flushed.flags
    clock := after.clock.trans flushed.clock
    players := after.players.trans flushed.players
    lamp := after.lamp.trans flushed.lamp
    pts := after.pts.trans flushed.pts
    owed := after.owed.trans flushed.owed }

/-! ## A frame period in which nothing moves (R138, R143, R149) -/

/-- With no answer being sent the ports and counts alone change. -/
theorem periodBegun_quiet {s : State} (hn : s.link.talk = none) :
    periodBegun s = setLink (periodLink s.tables.node.timeout s.link) (freshTakes (turnPulses s)) := by
  have noAnswer : answerDone (turnPulses s) = turnPulses s := by
    unfold answerDone
    rw [show (turnPulses s).link.talk = none from hn]
  unfold periodBegun
  rw [noAnswer]
  dsimp only
  unfold placeOwn
  rw [show (setLink (periodLink (turnPulses s).tables.node.timeout (turnPulses s).link)
    (freshTakes (turnPulses s))).link.talk = none from hn]
  rfl

/-- An axis whose step generator is at rest, with no pulse given, has nothing to do in a frame period (R107). -/
theorem frameOf_quiet {s : State} {a : AxisId} (h : s.tables.axes[a].inUse = true → generates s.axes[a] = false)
    (hp : s.axes[a].pulses = 0) : frameOf s a = (s.axes[a], .none) := by
  unfold frameOf
  split
  · next used =>
    simp only [axisFrame, h used, Bool.false_eq_true, if_false, quiet, Prod.mk.injEq, and_true]
    split
    · rw [← hp]
    · rfl
  · rfl

/-- Where every axis is so, the frame period of the Axis Unit changes its mark alone. -/
theorem axisPeriod_quiet {s : State} (h : ∀ a : AxisId, s.tables.axes[a].inUse = true → generates s.axes[a] = false)
    (hp : ∀ a : AxisId, s.axes[a].pulses = 0) : axisPeriod s = { s with axisDue := false } := by
  have none : periodEvents s = [] := by
    rw [periodEvents, List.filterMap_eq_nil_iff]
    exact fun a _ => if_pos (by rw [frameOf_quiet (h a) (hp a)])
  have axes : (tab fun a => (frameOf s a).1) = s.axes := by
    refine Vector.ext fun i hi => ?_
    rw [tab_getElem, frameOf_quiet (h ⟨i, hi⟩) (hp ⟨i, hi⟩)]
    rfl
  rw [axisPeriod_eq, none, arrange_short _ (Nat.zero_le _), framesTaken, axes]
  rfl

/-- A draw reads the two fields of the choices alone. -/
theorem draw_congr {s u : State} (hc : u.choices = s.choices) (hd : u.drawn = s.drawn) :
    draw u = ((draw s).1, { u with choices := (draw s).2.choices, drawn := (draw s).2.drawn }) := by
  unfold draw
  rw [hc, hd]
  cases s.choices <;> simp only [← hd]

/-- The state of a frame period in which nothing moves and no answer is being sent, but for the choice. -/
def quietPeriod (s : State) : State :=
  { s with
    link := periodLink s.tables.node.timeout s.link
    cue := { s.cue with takes := 0 }
    axes := tab fun a => nextPulses s.axes[a] }

/-- Where no axis moves and no answer is being sent, the choice only says whether the Axis Unit still has the period to take. -/
theorem beginPeriod_quiet {s : State} (ho : s.owed = []) (hd : s.axisDue = false) (hn : s.link.talk = none)
    (h : ∀ a : AxisId, s.tables.axes[a].inUse = true → generates s.axes[a] = false) :
    beginPeriod s = { quietPeriod s with
      choices := (draw s).2.choices, drawn := (draw s).2.drawn, axisDue := decide ((draw s).1 % 2 = 1) } := by
  have begun : beginPeriod s = axisFramePeriod (quietPeriod s) := by
    rw [beginPeriod_eq, flushPeriod_of_none hd, periodBegun_quiet hn]
    rfl
  have drawn := draw_congr (s := s) (u := quietPeriod s) rfl rfl
  rw [begun, axisFramePeriod, drawn]
  dsimp only
  obtain even | odd := Nat.mod_two_eq_zero_or_one (draw s).1
  · let u : State := { quietPeriod s with choices := (draw s).2.choices, drawn := (draw s).2.drawn }
    have axis : ∀ a : AxisId, u.axes[a] = nextPulses s.axes[a] := fun a => tab_get _ a
    have still : axisPeriod u = { u with axisDue := false } := axisPeriod_quiet
      (fun a used => by rw [axis a]; exact h a used) (fun a => by rw [axis a]; rfl)
    have taken : partEvent .period u = { u with axisDue := false } := by
      simp only [partEvent, checksItself, settle_of_nothing_owed (s := u) ho, runPart, Bool.false_eq_true, if_false, still]
      exact afterEvent_of_same rfl rfl rfl
    rw [if_pos even, even]
    exact taken
  · rw [odd, if_neg Nat.one_ne_zero]
    rfl

/-- Settles O9: the Axis Unit's event leaves the link, the counts and the other blocks, and does nothing where no axis moves. -/
theorem framePeriodCountsAndPorts : Obligations.FramePeriodCountsAndPorts := by
  intro s ho
  refine ⟨?_, fun hd hn still => ?_⟩
  · obtain ⟨k, r, o, after⟩ := beginPeriod_counts ho
    have owed : (beginPeriod s).owed = [] := after.owed.trans ho
    refine ⟨_, exec_framePeriod owed, ?_⟩
    rw [after.link]
    exact ⟨rfl, rfl, rfl, rfl, rfl, rfl, rfl, rfl, after.takes, after.flags, after.tables, after.clock, after.players,
      after.lamp, after.pts, owed⟩
  · have quiet := beginPeriod_quiet ho hd hn still
    have drawn := draw_congr (s := s) (u := s) rfl rfl
    have owed : (beginPeriod s).owed = [] := by
      rw [quiet]
      exact ho
    rw [exec_framePeriod owed, quiet, drawn]
    rfl

end Sys2Proof.Machine
end

section
/-! LINK_LOST with the wake in the same scene step: an axis it brought to rest may follow again (R120, R122, R146). -/

namespace Sys2Proof.Machine

/-! ## A wake that comes with the link loss -/

/-- A QUIESCING node in LOCKED at its link-loss timeout, with one alarm of wake a second ahead of a clock that runs, and an axis RUNNING
at its start speed that still has the mark by which a wake makes it follow. The first choice lays the clock's part last. -/
def runningToFollow : State := { State.reset with
  choices := 12 :: List.replicate 40 0
  tables := { Tables.reset with
    alarms := Tables.reset.alarms.set 0 ⟨true, 1, 0, true⟩
    axes := Tables.reset.axes.set 2 { Tables.reset.axes[2] with inUse := true, holdSteps := 1000 } }
  link := { State.reset.link with state := .locked, stepGap := 800 }
  clock := { Clock.reset with rate := 1000, run := .running }
  axes := State.reset.axes.set 2 { Axis.reset with state := .running, known := true, follow := true, runSpeed := some 0 }
  node := .quiescing }

/-- The states of the axes after LINK_LOST, where it ends. -/
def axesAfterLoss (s : State) : Option (List AxisState) :=
  match exec .linkLost s with
  | .next t => some (t.axes.toList.map Axis.state)
  | _ => none

/-- What comes of the axis: the loss stops it, to HOLDING, and the wake of the alarm then makes it follow. -/
theorem axesAfterLoss_runningToFollow :
    axesAfterLoss runningToFollow = some [.idle, .idle, .following, .idle, .idle, .idle] := by
  decide +kernel

theorem runningToFollow_locked : runningToFollow.link.state = .locked ∧
    40 * runningToFollow.link.timeout ≤ runningToFollow.link.stepGap := by
  decide +kernel

theorem runningToFollow_running : runningToFollow.axes[(2 : AxisId)].state = .running := by
  decide +kernel

theorem runningToFollow_guards_none : ∀ n : SectionId, runningToFollow.tables.sections[n].guardAxis ≠ some 2 := by
  decide +kernel

/-- The axis after a loss that ends. -/
theorem state_of_axesAfterLoss {s t : State} {xs : List AxisState} (h : axesAfterLoss s = some xs)
    (e : exec .linkLost s = .next t) (a : AxisId) : xs[a.val]? = some t.axes[a].state := by
  unfold axesAfterLoss at h
  rw [e] at h
  obtain rfl := Option.some.inj h
  simp

/-- Refutes O23 in its last clause. An axis that was RUNNING and guards nothing can be FOLLOWING after the loss: where the clock
takes the scene step last, the alarm it fires wakes a QUIESCING node, and an axis with the mark of a hold, stopped to HOLDING by the loss
before that, follows again (R122). The clause lacks the premise that no RUNNING axis carries that mark. -/
theorem not_linkLostEntersLost : ¬ Obligations.LinkLostEntersLost := by
  intro h
  obtain ⟨locked, timedOut⟩ := runningToFollow_locked
  obtain ⟨t, ends, -, -, -, -, -, -, -, -, -, -, -, -, -, -, -, -, -, axes⟩ := (h runningToFollow rfl).2 locked timedOut
  have follows : t.axes[(2 : AxisId)].state = .following :=
    (Option.some.inj (state_of_axesAfterLoss axesAfterLoss_runningToFollow ends 2)).symm
  have rests := (axes 2).2 runningToFollow_running runningToFollow_guards_none
  rw [follows] at rests
  simp only [reduceCtorEq, or_self] at rests

end Sys2Proof.Machine
end

section
/-! What a scene step and a cue spare (R144): the tables, the link with its LINK latch, the flags and the masters are changed by the
Link Port, the Cue Engine's flags and the Lamp Unit alone. No event of another block and no request to a block touches them. -/

namespace Sys2Proof.Machine

/-- `s` has the tables, the link, the LINK latch, the flags and the masters of `z`. -/
def Spared (z s : State) : Prop :=
  s.tables = z.tables ∧ s.link = z.link ∧ latchOf s .link = latchOf z .link ∧ s.cue.flags = z.cue.flags ∧
    s.lamp.masters = z.lamp.masters

namespace Spared

variable {z s : State}

theorem refl (s : State) : Spared s s := ⟨rfl, rfl, rfl, rfl, rfl⟩

theorem tables (h : Spared z s) : s.tables = z.tables := h.1

theorem link (h : Spared z s) : s.link = z.link := h.2.1

theorem linkLatch (h : Spared z s) : latchOf s .link = latchOf z .link := h.2.2.1

theorem flags (h : Spared z s) : s.cue.flags = z.cue.flags := h.2.2.2.1

theorem masters (h : Spared z s) : s.lamp.masters = z.lamp.masters := h.2.2.2.2

/-! ## Updates -/

theorem setSec (h : Spared z s) {n : SectionId} {x : Section} : Spared z (setSec n x s) := h

theorem setTrain (h : Spared z s) {t : TrainId} {x : Train} : Spared z (setTrain t x s) := h

theorem setAxis (h : Spared z s) {a : AxisId} {x : Axis} : Spared z (setAxis a x s) := h

theorem setPlayer (h : Spared z s) {p : PlayerId} {x : Player} : Spared z (setPlayer p x s) := h

/-- A notice of another kind. -/
theorem latch (h : Spared z s) {k : NoticeKind} {d : Detail} (hk : k.idx ≠ NoticeKind.link.idx := by decide) :
    Spared z (latch k d s) :=
  ⟨h.tables, h.link, (latchOf_latch_ne hk d s).trans h.linkLatch, h.flags, h.masters⟩

theorem append (h : Spared z s) {c : Nat} {src : Source} : Spared z (appendCue c src s) := by
  unfold appendCue
  split
  · exact h
  · split
    · exact h
    · exact h.latch

theorem draw (h : Spared z s) : Spared z (draw s).2 := by
  obtain ⟨cs, n, e⟩ := draw_snd s
  rw [e]
  exact h

theorem arrange {α : Type} (h : Spared z s) {xs : List α} : Spared z (arrange xs s).2 := by
  obtain ⟨cs, n, e⟩ := arrange_snd xs s
  rw [e]
  exact h

theorem handOn (h : Spared z s) {qs : List Req} : Spared z (handOn qs s) := h.arrange (xs := qs)

/-! ## Halts and tellings (R73, R81, R96, R98) -/

theorem dequeue (h : Spared z s) {t : TrainId} : Spared z (dequeue t s) := by
  unfold Machine.dequeue
  split <;> exact h

theorem halt (h : Spared z s) {reason : HaltReason} {t : TrainId} : Spared z (halt reason t s) := by
  unfold Machine.halt
  split
  · exact h.dequeue.setTrain.latch
  · exact h

theorem haltAll (h : Spared z s) {reason : HaltReason} : Spared z (haltAll reason s) :=
  foldl_keeps (P := Spared z) _ _ (fun _ _ _ hu => halt hu) _ h.arrange

theorem tellSet (h : Spared z s) {t : TrainId} : Spared z (tellSet t s) := by
  unfold Machine.tellSet
  dsimp only
  split
  · exact h
  · split <;> exact h

theorem tellSetting (h : Spared z s) {t : TrainId} : Spared z (tellSetting t s) := by
  unfold Machine.tellSetting
  dsimp only
  split
  · exact h
  · split
    iterate 2 exact h.setTrain.halt
    all_goals exact h

theorem checkSetting (h : Spared z s) {n : SectionId} : Spared z (checkSetting n s) := by
  unfold Machine.checkSetting
  split
  · split
    · exact h.setSec.tellSet
    · exact h
  all_goals exact h

theorem axisStandTold (h : Spared z s) {a : AxisId} : Spared z (axisStandTold a s) := by
  refine foldl_keeps (P := Spared z) _ _ (fun u n _ hu => ?_) _ h
  split
  · exact hu.checkSetting
  · exact hu

theorem axisFaultTold (h : Spared z s) {a : AxisId} : Spared z (axisFaultTold a s) := by
  refine foldl_keeps (P := Spared z) _ _ (fun u n _ hu => ?_) _ h
  split
  · split
    · exact hu.setSec.tellSetting
    · exact hu
  · exact hu

/-! ## Grants, requests and cancels (R66 to R77, R95) -/

theorem throwRequest (h : Spared z s) {q : PointNeed} : Spared z (throwRequest q s) := by
  unfold Machine.throwRequest
  dsimp only
  split
  · exact h
  · split <;> exact h

theorem orderGuard (h : Spared z s) {n : SectionId} : Spared z (orderGuard n s) := by
  unfold Machine.orderGuard guardSeek
  dsimp only
  split
  · exact h
  · split
    · exact h
    · split <;> exact h

theorem grant (h : Spared z s) {t : TrainId} {f n : SectionId} : Spared z (grant t f n s).2 := by
  have thrown := foldl_keeps (P := Spared z) (fun u q => if pointStands u q then u else Machine.throwRequest q u)
    (pointNeeds s.tables.sections f n) (fun u q _ hu => by
      split
      · exact hu
      · exact hu.throwRequest) _ (h.setSec (n := n)
        (x := { s.secs[n] with state := .reserved t .setting f, queue := s.secs[n].queue.filter (· != t) }))
  unfold Machine.grant
  dsimp only
  split
  · exact thrown.orderGuard.setSec
  · exact thrown.orderGuard

theorem takeAnswer (h : Spared z s) {how : Approach} {t : TrainId} {n : SectionId} {a : Answer} :
    Spared z (takeAnswer how t n a s) := h

theorem sendRequest (h : Spared z s) {how : Approach} {t : TrainId} : Spared z (sendRequest how t s) := by
  unfold Machine.sendRequest request
  split
  · split
    · exact h.grant.takeAnswer
    · split <;> exact h
  · exact h

theorem examineQueue (h : Spared z s) {n : SectionId} : Spared z (examineQueue n s) := by
  unfold Machine.examineQueue
  split
  · split
    · exact h.grant.takeAnswer
    · exact h
  all_goals exact h

theorem reevaluate (h : Spared z s) {o : Option SectionId} : Spared z (reevaluate o s) :=
  foldl_keeps (P := Spared z) _ _ (fun _ _ _ hu => examineQueue hu) _ h

theorem cancel (h : Spared z s) {t : TrainId} : Spared z (cancel t s) := by
  have dropped : Spared z (Machine.setTrain t { (Machine.dequeue t s).trains[t] with res := none, arrival := none }
      (Machine.dequeue t s)) := h.dequeue.setTrain
  unfold Machine.cancel
  dsimp only
  split
  · exact dropped
  · exact dropped.setSec.reevaluate

theorem stopCancelled (h : Spared z s) {t : TrainId} : Spared z (stopCancelled t s) := h.cancel.setTrain

theorem trainStop (h : Spared z s) {t : TrainId} : Spared z (trainStop t s).2 := by
  unfold Machine.trainStop
  dsimp only
  split
  iterate 3 exact h
  · exact h.stopCancelled
  · exact h
  · exact h.dequeue.setTrain
  · split
    · exact h.stopCancelled
    · exact h

/-! ## Points and trains on a scene step (R67, R87 to R89) -/

theorem pointIdle (h : Spared z s) {p : PointId} : Spared z (pointIdle p s) := by
  refine foldl_keeps (P := Spared z) _ _ (fun u n _ hu => ?_) _ h
  split
  · split
    · exact hu.checkSetting
    · exact hu
  · exact hu

theorem throwEnds (h : Spared z s) {p : PointId} : Spared z (throwEnds p s) := by
  unfold Machine.throwEnds
  dsimp only
  split
  · exact h
  · split
    · split
      · exact pointIdle (s := setPt p _ s) h
      · exact h
    · exact h

theorem stepPoints (h : Spared z s) : Spared z (stepPoints s) := by
  refine foldl_keeps (P := Spared z) _ _ (fun u p _ hu => ?_) _ h
  unfold stepPoint
  dsimp only
  split
  · exact hu
  · split
    · exact throwEnds (s := setPt p _ u) hu
    · exact hu

theorem arrivalStep (h : Spared z s) {t : TrainId} : Spared z (arrivalStep t s) := by
  unfold Machine.arrivalStep arrivalTimesOut
  split
  · exact h.setTrain.halt
  · split <;> exact h

theorem standStill (h : Spared z s) {t : TrainId} : Spared z (standStill t s) := by
  unfold Machine.standStill
  dsimp only
  split
  · split <;> exact h
  · split
    · exact h.stopCancelled
    · exact h
  all_goals exact h

theorem retryStep (h : Spared z s) {t : TrainId} : Spared z (retryStep t s) := by
  unfold Machine.retryStep
  extract_lets x waits
  split
  · exact h.sendRequest
  · exact h

theorem trainWork (h : Spared z s) {t : TrainId} : Spared z (trainWork t s) := by
  unfold Machine.trainWork
  split
  · exact h
  all_goals exact h.setTrain.arrivalStep.standStill.retryStep

theorem rampTrain (h : Spared z s) {t : TrainId} : Spared z (rampTrain t s) := h

theorem rampsFirst (h : Spared z s) : Spared z (rampsFirst s) :=
  foldl_keeps (P := Spared z) _ _ (fun _ _ _ hu => trainWork hu) _
    (foldl_keeps (P := Spared z) _ _ (fun _ _ _ hu => rampTrain hu) _ h)

theorem trainByTrain (h : Spared z s) : Spared z (trainByTrain s) :=
  foldl_keeps (P := Spared z) _ _ (fun _ _ _ hu => hu.rampTrain.trainWork) _ h

theorem stepTrains (h : Spared z s) : Spared z (stepTrains s) := by
  unfold Machine.stepTrains
  dsimp only
  split
  · exact h.rampsFirst
  · split
    · exact h.draw.rampsFirst
    · exact h.draw.trainByTrain

theorem restTrains (h : Spared z s) : Spared z (restTrains s) := by
  refine foldl_keeps (P := Spared z) _ _ (fun u t _ hu => ?_) _ h.arrange
  unfold restTrain
  split
  · exact hu.trainStop
  · exact hu

/-! ## Axes (R107, R114 to R122) -/

theorem putAxis (h : Spared z s) {a : AxisId} {y : Axis × Bool} : Spared z (putAxis a y s) := by
  unfold Machine.putAxis
  dsimp only
  split
  · exact h.setAxis.axisStandTold
  · exact h

theorem haltOwners (h : Spared z s) {a : AxisId} : Spared z (haltOwners a s) :=
  foldl_keeps (P := Spared z) _ _ (fun _ _ _ hu => halt hu) _ h.arrange

theorem faultAxis (h : Spared z s) {why : AxisFault} {a : AxisId} : Spared z (faultAxis why a s) := by
  have faulted : Spared z (Machine.latch .axisFault (.axis a why)
      (Machine.setAxis a (faultedAxis why s.axes[a]) s)) := h.setAxis.latch
  unfold Machine.faultAxis
  dsimp only
  split
  · split
    · exact faulted.draw.axisFaultTold.haltOwners
    · exact faulted.draw.haltOwners.axisFaultTold
  · exact faulted.haltOwners

theorem chainFaultAxes (h : Spared z s) : Spared z (chainFaultAxes s) :=
  foldl_keeps (P := Spared z) _ _ (fun _ _ _ hu => faultAxis hu) _ h.arrange

theorem stepAxes (h : Spared z s) : Spared z (stepAxes s) := by
  refine foldl_keeps (P := Spared z) _ _ (fun u a _ hu => ?_) _ h
  unfold stepAxis
  split
  · exact hu.putAxis
  · exact hu

theorem axisPeriod (h : Spared z s) : Spared z (axisPeriod s) := by
  rw [axisPeriod_eq]
  refine foldl_keeps (P := Spared z) _ _ (fun u e _ hu => ?_) _ (arrange (s := framesTaken s) h)
  unfold periodEvent
  split
  · exact hu
  · exact hu.axisStandTold
  · exact hu.faultAxis

theorem stopAxis (h : Spared z s) {a : AxisId} : Spared z (stopAxis a s) := h.putAxis

theorem linkLostAxes (h : Spared z s) : Spared z (linkLostAxes s) := by
  refine foldl_keeps (P := Spared z) _ _ (fun u a _ hu => ?_) _ h
  split
  · exact hu.stopAxis
  · exact hu

theorem allStopAxes (h : Spared z s) : Spared z (allStopAxes s) := by
  refine foldl_keeps (P := Spared z) _ _ (fun u a _ hu => ?_) _ h
  unfold allStopAxis
  split
  · split
    iterate 3 exact hu.stopAxis
    · exact hu.putAxis
    all_goals exact hu
  · exact hu

theorem restAxes (h : Spared z s) {hold : Bool} : Spared z (restAxes hold s) := by
  refine foldl_keeps (P := Spared z) _ _ (fun u a _ hu => ?_) _ h
  unfold restAxis
  dsimp only
  split
  · split
    · split
      · exact hu.putAxis
      · exact hu.stopAxis
    · split
      · exact hu.putAxis
      · exact hu
    all_goals exact hu
  · exact hu

/-! ## Node Control and its requests (R169 to R173) -/

theorem nodeCheck (h : Spared z s) : Spared z (nodeCheck s) := by
  obtain ⟨c, n, e⟩ := nodeCheck_eq s
  rw [e]
  exact h

theorem afterEvent (h : Spared z s) {u : State} : Spared z (afterEvent u s) := by
  obtain ⟨c, n, e⟩ := afterEvent_eq u s
  rw [e]
  exact h

theorem runReq (h : Spared z s) {q : Req} : Spared z (runReq q s) := by
  cases q with
  | restClock hold => cases hold <;> exact h
  | restLists | wakeClock | wakeLists | wakeAxes => exact h
  | restTrains => exact h.restTrains
  | restAxes => exact h.restAxes
  | stopTrains | faultTrains | linkTrains => exact h.haltAll
  | stopAxes => exact h.allStopAxes
  | faultAxes => exact h.chainFaultAxes
  | linkAxes => exact h.linkLostAxes

theorem reqEvent (h : Spared z s) {q : Req} : Spared z (reqEvent q s) := by
  obtain ⟨c, n, e⟩ := reqEvent_eq q s
  rw [e]
  exact h.runReq

theorem takeReqs {left qs : List Req} : ∀ {s : State}, Spared z s → Spared z (takeReqs left qs s) := by
  induction qs with
  | nil => exact fun h => h
  | cons q qs ih => exact fun {s} h => ih (reqEvent (s := { s with owed := qs ++ left }) h)

theorem settle (h : Spared z s) : Spared z (settle s) := by
  unfold Machine.settle
  split
  · exact h
  · exact h.draw.takeReqs

theorem finish (h : Spared z s) : Spared z (finish s) := h.takeReqs

theorem wake (h : Spared z s) {src : WakeSource} : Spared z (wake src s) := by
  have woken : Spared z (Machine.latch .wake (.wake src) { s with node := .active }) :=
    latch (s := { s with node := .active }) h (by decide)
  unfold Machine.wake
  split
  · exact h
  iterate 2 exact woken.handOn

/-! ## Clock, players and chain (R23, R30, R35, R130) -/

theorem fireAlarm (h : Spared z s) {i : AlarmId} : Spared z (fireAlarm i s) := by
  unfold Machine.fireAlarm
  dsimp only
  split
  · exact h.wake.append
  · exact h.append

theorem stepClock (h : Spared z s) : Spared z (stepClock s) := by
  unfold Machine.stepClock applyPendingSet
  split
  · split <;> exact h
  · split
    · exact foldl_keeps (P := Spared z) _ _ (fun _ _ _ hu => fireAlarm hu) _ h
    · exact h

theorem fireEnd (h : Spared z s) {p : PlayerId} : Spared z (fireEnd p s).2 := by
  unfold Machine.fireEnd
  dsimp only
  split
  · exact h.append.setPlayer
  iterate 2 exact h.setPlayer.append.latch

theorem fireEntry (h : Spared z s) {p : PlayerId} : Spared z (fireEntry p s).2.2 := by
  unfold Machine.fireEntry
  dsimp only
  split
  · exact h.fireEnd
  · split
    · exact h.append.setPlayer
    · exact h.append.fireEnd

theorem fireEntries {fuel left : Nat} {p : PlayerId} (h : Spared z s) : Spared z (fireEntries fuel left p s) := by
  induction fuel generalizing left s with
  | zero => exact h
  | succ fuel ih =>
    unfold Machine.fireEntries
    dsimp only
    split
    · split
      · exact h.fireEntry.setPlayer
      · exact ih h.fireEntry
    · exact h.fireEntry

theorem countdownEnds (h : Spared z s) {p : PlayerId} : Spared z (countdownEnds p s) := by
  unfold Machine.countdownEnds
  dsimp only
  split
  · split
    · exact h.setPlayer.fireEntries
    · exact h
  all_goals exact h

theorem stepLists (h : Spared z s) : Spared z (stepLists s) := by
  refine foldl_keeps (P := Spared z) _ _ (fun u p _ hu => ?_) _ h
  unfold stepPlayer
  dsimp only
  split
  · split
    · exact hu.countdownEnds
    · exact hu
  all_goals exact hu

theorem stepChain (h : Spared z s) : Spared z (stepChain s) := by
  unfold Machine.stepChain startCycle
  dsimp only
  split
  · split
    · split <;> exact h
    · exact h
  · exact h

end Spared

end Sys2Proof.Machine
end

section
/-! A scene step and a valid step mark in every order of the blocks (R144, R145): a value that one part alone changes is changed as
often as that part stands among the parts. -/

namespace Sys2Proof.Machine

/-! ## Values that one part changes -/

/-- A value that one item of a list alone changes is changed once for each time the item stands in the list. -/
theorem foldl_counts {σ α β : Type} [DecidableEq α] {P : σ → Prop} {f : σ → α → σ} {obs : σ → β} {g : β → β} {a : α}
    (counts : ∀ u, P u → obs (f u a) = g (obs u)) {xs : List α} (keeps : ∀ x ∈ xs, ∀ u, P u → P (f u x))
    (others : ∀ x ∈ xs, x ≠ a → ∀ u, P u → obs (f u x) = obs u) :
    ∀ s, P s → obs (xs.foldl f s) = g^[xs.count a] (obs s) := by
  induction xs with
  | nil => exact fun _ _ => rfl
  | cons x xs ih =>
    intro s hs
    have rest := ih (fun y hy => keeps y (List.mem_cons_of_mem _ hy)) (fun y hy => others y (List.mem_cons_of_mem _ hy))
      _ (keeps x List.mem_cons_self s hs)
    rw [List.foldl_cons, rest]
    by_cases e : x = a
    · subst e
      rw [counts s hs, List.count_cons_self, Function.iterate_succ_apply]
    · rw [others x List.mem_cons_self e s hs, List.count_cons_of_ne e]

/-- Neither a property of states nor a value of them depends on the free choices. -/
def Unchosen {β : Type} (P : State → Prop) (obs : State → β) : Prop :=
  ∀ s cs n, P s → P { s with choices := cs, drawn := n } ∧ obs { s with choices := cs, drawn := n } = obs s

/-- In every order of the parts, a value that one of them alone changes is changed as often as it stands among them. -/
theorem anyOrder_counts {β : Type} {P : State → Prop} {obs : State → β} {g : β → β} {p : Part}
    (unchosen : Unchosen P obs) (counts : ∀ u, P u → obs (partEvent p u) = g (obs u)) {ps : List Part}
    (keeps : ∀ q ∈ ps, ∀ u, P u → P (partEvent q u))
    (others : ∀ q ∈ ps, q ≠ p → ∀ u, P u → obs (partEvent q u) = obs u) {s : State} (hs : P s) :
    obs (anyOrder ps s) = g^[ps.count p] (obs s) := by
  obtain ⟨cs, n, e⟩ := arrange_snd ps s
  obtain ⟨chosen, same⟩ := unchosen s cs n hs
  rw [← e] at chosen same
  rw [← same, ← (arrange_perm ps s).count_eq p]
  exact foldl_counts (f := fun u q => partEvent q u) counts (fun q hq => keeps q (mem_arrange.1 hq)) (fun q hq => others q (mem_arrange.1 hq)) _ chosen

/-! ## The parts (R144, R145) -/

/-- The parts that may come with a scene step of a frame with an IDLE symbol: a cue and the lock. -/
def joins : Part → Bool
  | .cue _ | .lock => true
  | .clock | .lists | .flags | .lamps | .points | .trains | .axes | .chain | .node | .period | .symbol _ _ | .req _ | .drop _
  | .abandon => false

/-- The parts that spare the tables, the link with its latch, the flags and the masters. -/
def spares : Part → Bool
  | .clock | .lists | .points | .trains | .axes | .chain | .node | .period | .cue _ => true
  | .flags | .lamps | .symbol _ _ | .lock | .req _ | .drop _ | .abandon => false

/-- The link LOCKED (R145). -/
def lockedLink (l : Link) : Link := { l with state := .locked, lockRun := 0 }

namespace Spared

variable {z s : State}

theorem runPart {p : Part} (hp : spares p = true) (h : Spared z s) : Spared z (runPart p s) := by
  cases p with
  | clock => exact h.stepClock
  | lists => exact h.stepLists
  | points => exact h.stepPoints
  | trains => exact h.stepTrains
  | axes => exact h.stepAxes
  | chain => exact h.stepChain
  | node => exact h.nodeCheck
  | period => exact h.axisPeriod
  | cue => exact h.append
  | flags | lamps | symbol | lock | req | drop | abandon => cases hp

theorem stepFlags (h : Spared z s) : Spared (stepFlags z) (stepFlags s) :=
  ⟨h.tables, h.link, h.linkLatch, congrArg (fun v : Vector Flag 32 => tab fun f => flagStep v[f]) h.flags, h.masters⟩

theorem stepLamps (h : Spared z s) : Spared (stepLamps z) (stepLamps s) :=
  ⟨h.tables, h.link, h.linkLatch, h.flags, congrArg (fun v : Vector Level 8 => tab fun g => fadeStep v[g]) h.masters⟩

theorem goLocked (h : Spared z s) : Spared (goLocked z) (goLocked s) := by
  refine ⟨h.tables, congrArg lockedLink h.link, ?_, h.flags, h.masters⟩
  unfold Machine.goLocked
  rw [latchOf_latch, latchOf_latch]
  exact congrArg (Latch.take (.link false)) h.linkLatch

/-- A part that makes no checks of its own, with what is settled before it and the check after it. -/
theorem partEvent {p : Part} (hc : checksItself p = false) (h : ∀ {u}, Spared s u → Spared z (Machine.runPart p u)) :
    Spared z (partEvent p s) := by
  unfold Machine.partEvent
  dsimp only
  rw [hc]
  exact (h (refl s).settle).afterEvent

end Spared

/-- What a part itself does to the values that the other parts spare. -/
def ownChange (p : Part) (s : State) : State :=
  match p with
  | .flags => stepFlags s
  | .lamps => stepLamps s
  | .lock => goLocked s
  | .clock | .lists | .points | .trains | .axes | .chain | .node | .period | .cue _ | .symbol _ _ | .req _ | .drop _
  | .abandon => s

/-- A part of a scene step, or one that joins it, changes of these values what its own block changes. -/
theorem spared_partEvent {p : Part} (hp : p = .flags ∨ p = .lamps ∨ p = .lock ∨ spares p = true) (s : State) :
    Spared (ownChange p s) (partEvent p s) := by
  obtain rfl | rfl | rfl | hp := hp
  · exact Spared.partEvent rfl Spared.stepFlags
  · exact Spared.partEvent rfl Spared.stepLamps
  · exact Spared.partEvent rfl Spared.goLocked
  · have unchecked : checksItself p = false := by
      cases p with
      | symbol => cases hp
      | _ => rfl
    have unchanged : ownChange p s = s := by
      cases p with
      | flags | lamps | lock => cases hp
      | _ => rfl
    rw [unchanged]
    exact Spared.partEvent unchecked fun h => h.runPart hp

/-! ## A scene step in every order (R144) -/

/-- The parts of a scene step that comes with a cue or the lock at most. -/
theorem mem_sceneParts {s : State} {extra : List Part} (h : ∀ p ∈ extra, joins p = true) {p : Part}
    (hp : p ∈ sceneParts s ++ extra) : p = .flags ∨ p = .lamps ∨ p = .lock ∨ spares p = true := by
  have all : ∀ q ∈ stepParts ++ [.period], q = .flags ∨ q = .lamps ∨ q = .lock ∨ spares q = true := by decide
  rw [List.mem_append] at hp
  obtain scene | joined := hp
  · refine all p ?_
    unfold sceneParts at scene
    split at scene
    · exact scene
    · exact List.mem_append_left _ (by rwa [List.append_nil] at scene)
  · have := h p joined
    cases p with
    | cue => exact .inr (.inr (.inr rfl))
    | lock => exact .inr (.inr (.inl rfl))
    | _ => cases this

/-- How often a part of the scene step itself, or another that is not the period, stands among the parts. -/
theorem count_sceneParts {p : Part} (hp : p ≠ .period) (s : State) (extra : List Part) :
    (sceneParts s ++ extra).count p = stepParts.count p + extra.count p := by
  unfold sceneParts
  split
  · rw [List.count_append, List.count_append, List.count_cons_of_ne (Ne.symm hp), List.count_nil, Nat.add_zero]
  · rw [List.append_nil, List.count_append]

theorem count_of_joins {extra : List Part} (h : ∀ p ∈ extra, joins p = true) {p : Part} (hp : joins p = false) :
    extra.count p = 0 :=
  List.count_eq_zero.2 fun mem => by
    have := h p mem
    rw [hp] at this
    cases this

section
variable {extra : List Part} (h : ∀ p ∈ extra, joins p = true) (s : State)
include h

/-- A value among those that the parts spare is changed by a scene step as often as the part stands in
it that changes the value. -/
theorem sceneStep_counts {β : Type} {obs : State → β} {g : β → β} {p : Part} (hp : p = .flags ∨ p = .lamps ∨ p = .lock)
    (spared : ∀ {z u}, Spared z u → obs u = obs z) (counts : ∀ u, obs (ownChange p u) = g (obs u))
    (others : ∀ q, q ≠ p → ∀ u, obs (ownChange q u) = obs u) :
    obs (sceneStep extra s) = g^[stepParts.count p + extra.count p] (obs (stepMade s)) := by
  have event {q : Part} (hq : q = .flags ∨ q = .lamps ∨ q = .lock ∨ spares q = true) (u : State) :
      obs (partEvent q u) = obs (ownChange q u) := spared (spared_partEvent hq u)
  have special : p = .flags ∨ p = .lamps ∨ p = .lock ∨ spares p = true := hp.imp_right fun e => e.imp_right .inl
  have noPeriod : p ≠ .period := by rcases hp with rfl | rfl | rfl <;> exact nofun
  rw [← count_sceneParts noPeriod s extra]
  exact anyOrder_counts (P := fun _ => True) (fun u cs n _ => ⟨trivial, spared (Spared.refl u)⟩)
    (fun u _ => (event special u).trans (counts u)) (fun _ _ _ _ => trivial)
    (fun q hq ne u _ => (event (mem_sceneParts h hq) u).trans (others q ne u)) trivial

/-- Every pulse count takes one step (R21). -/
theorem sceneStep_flags : (sceneStep extra s).cue.flags = tab fun f => flagStep s.cue.flags[f] := by
  have once := sceneStep_counts h s (obs := fun u => u.cue.flags) (p := .flags) (g := fun v => tab fun f => flagStep v[f])
    (.inl rfl) Spared.flags (fun _ => rfl) fun q ne u => by
      cases q with
      | flags => exact absurd rfl ne
      | _ => rfl
  rwa [count_of_joins h rfl] at once

/-- Every master fade takes one step (R50). -/
theorem sceneStep_masters : (sceneStep extra s).lamp.masters = tab fun g => fadeStep s.lamp.masters[g] := by
  have once := sceneStep_counts h s (obs := fun u => u.lamp.masters) (p := .lamps)
    (g := fun v => tab fun g => fadeStep v[g]) (.inr (.inl rfl)) Spared.masters (fun _ => rfl) fun q ne u => by
      cases q with
      | lamps => exact absurd rfl ne
      | _ => rfl
  rwa [count_of_joins h rfl] at once

theorem sceneStep_tables : (sceneStep extra s).tables = s.tables := by
  have none := sceneStep_counts h s (obs := State.tables) (p := .lock) (g := id) (.inr (.inr rfl)) Spared.tables
    (fun _ => rfl) fun q _ u => by cases q <;> rfl
  rwa [Function.iterate_id] at none

/-- The lock that comes with a scene step takes the link to LOCKED; otherwise the step gap alone is set (R144, R145). -/
theorem sceneStep_link :
    (sceneStep extra s).link = lockedLink^[extra.count .lock] { s.link with stepGap := 0 } := by
  have locks := sceneStep_counts h s (obs := State.link) (p := .lock) (g := lockedLink) (.inr (.inr rfl))
    Spared.link (fun _ => rfl) fun q ne u => by
      cases q with
      | lock => exact absurd rfl ne
      | _ => rfl
  rwa [show stepParts.count .lock = 0 by decide, Nat.zero_add] at locks

/-- The lock that comes with a scene step latches LINK (R145). -/
theorem sceneStep_linkLatch :
    latchOf (sceneStep extra s) .link = (Latch.take (.link false))^[extra.count .lock] (latchOf s .link) := by
  have locks := sceneStep_counts h s (obs := fun u => latchOf u .link) (p := .lock) (g := Latch.take (.link false))
    (.inr (.inr rfl)) Spared.linkLatch (fun _ => latchOf_latch ..) fun q ne u => by
      cases q with
      | lock => exact absurd rfl ne
      | _ => rfl
  rwa [show stepParts.count .lock = 0 by decide, Nat.zero_add] at locks

end

end Sys2Proof.Machine
end

section
/-! Valid frames with a step mark: the scene step they make and the lock they complete (R142 to R145, R147). -/

namespace Sys2Proof.Machine

/-! ## The frame and its parts (R142, R145) -/

/-- A valid frame with a step mark: the lines, the mark's own counts, the scene step with the other parts where it makes one, and the
forwarding. -/
theorem arrive6_marked {f : Byte} (h0 : f.getLsbD 0 = true) (h1 : f.getLsbD 1 = false) (h2 : f.getLsbD 2 = false)
    (c l y v : Byte) (s : State) :
    arrive6 (withCheck [f, c, l, y, v]) s = forward (validForward (withCheck [f, c, l, y, v])) (markOwn
      (if markSteps s.link then
        sceneStep (contentParts s.link.state (withCheck [f, c, l, y, v]) ++ lockPart s.link)
          (setLink { afterMark s.link with lines := l } s)
      else anyOrder (contentParts s.link.state (withCheck [f, c, l, y, v]))
        (setLink { afterMark s.link with lines := l } s))) := by
  have marked : setLink (afterMark { s.link with lines := l }) (withLines l s) =
      setLink { afterMark s.link with lines := l } s := by
    unfold afterMark
    cases e : s.link.state <;> simp only [e] <;> rfl
  simp only [arrive6, classify_valid h1 h2, validFrame, frameParts, hasMark_withCheck, h0, if_true]
  rw [← marked]
  rfl

/-- With an IDLE symbol a frame brings a cue alone, or nothing. -/
theorem joins_contentParts {y v : Byte} (hi : symbolActs y v = false) (st : LinkState) (f c l : Byte) :
    ∀ p ∈ contentParts st (withCheck [f, c, l, y, v]), joins p = true := by
  intro p hp
  by_cases hl : st = .lost
  · rw [hl, contentParts_lost] at hp
    cases hp
  · rw [contentParts_withCheck hl, hi] at hp
    split at hp
    · cases hp
    · obtain rfl := List.mem_singleton.1 (show p ∈ [Part.cue c.toNat] by simpa using hp)
      rfl

theorem count_lock_contentParts {y v : Byte} (hi : symbolActs y v = false) (st : LinkState) (f c l : Byte) :
    (contentParts st (withCheck [f, c, l, y, v])).count .lock = 0 := by
  by_cases hl : st = .lost
  · rw [hl, contentParts_lost]
    rfl
  · rw [contentParts_withCheck hl, hi]
    split <;> rfl

theorem joins_lockPart (k : Link) : ∀ p ∈ lockPart k, joins p = true := by
  intro p hp
  unfold lockPart at hp
  split at hp
  · obtain rfl := List.mem_singleton.1 hp
    rfl
  · cases hp

theorem count_lock_lockPart (k : Link) : (lockPart k).count .lock = if locks k then 1 else 0 := by
  unfold lockPart
  split <;> rfl

/-! ## The own frame and the forwarding (R143) -/

/-- A mark in the own frame is a change of the downstream port alone. -/
theorem markOwn_eq (s : State) : ∃ d, markOwn s = setLink { s.link with downOut := d } s := by
  unfold markOwn
  split
  · exact ⟨_, rfl⟩
  · exact ⟨s.link.downOut, rfl⟩

/-- What a marked frame sends downstream, outside LOST the frame itself, is all that follows its parts. -/
theorem forward_markOwn (bs : List Byte) (s : State) :
    ∃ d, forward bs (markOwn s) = setLink { s.link with downOut := d } s ∧ (s.link.state ≠ .lost → d = some bs) := by
  obtain ⟨d, e⟩ := markOwn_eq s
  rw [e, forward_eq]
  exact ⟨_, rfl, fun notLost => sentDown_of_not_lost (l := { s.link with downOut := d }) notLost bs⟩

/-- Outside LOST the port sends no own frame that could take a mark. -/
theorem markOwn_of_not_lost {s : State} (h : s.link.state ≠ .lost) : markOwn s = s := if_neg fun own => h own.1

/-! ## The scene step of a mark (R144, R145) -/

/-- The link after a mark and the lock it may complete (R145). -/
def markedLink (k : Link) : Link := if locks k then lockedLink (afterMark k) else afterMark k

/-- What `t` is after the frame `bs` with a step mark, the lines `l` and an IDLE symbol has made a scene step in `s`. -/
structure MarkStep (bs : List Byte) (l : Byte) (s t : State) : Prop where
  link : ∃ d, t.link = { markedLink s.link with lines := l, stepGap := 0, downOut := d } ∧
    (t.link.state ≠ .lost → d = some bs)
  linkLatch : latchOf t .link = if locks s.link then (latchOf s .link).take (.link false) else latchOf s .link
  tables : t.tables = s.tables
  flags : t.cue.flags = tab fun k => flagStep s.cue.flags[k]
  masters : t.lamp.masters = tab fun g => fadeStep s.lamp.masters[g]

/-- A mark that makes a scene step makes it in every order of the blocks (R142, R144, R145). -/
theorem exec_markStep {f y v : Byte} (h0 : f.getLsbD 0 = true) (h1 : f.getLsbD 1 = false) (h2 : f.getLsbD 2 = false)
    (hi : symbolActs y v = false) {s : State} (hm : markSteps s.link = true) (c l : Byte) :
    ∃ t, exec (.downstreamFrame (withCheck [f, c, l, y, v])) s = .next t ∧ MarkStep (withCheck [f, c, l, y, v]) l s t := by
  have frame := arrive6_marked h0 h1 h2 c l y v s
  rw [if_pos hm, validForward_of_idle hi] at frame
  set extra := contentParts s.link.state (withCheck [f, c, l, y, v]) ++ lockPart s.link with hextra
  set m := setLink { afterMark s.link with lines := l } s with hm
  have joined : ∀ p ∈ extra, joins p = true := fun p hp =>
    (List.mem_append.1 hp).elim (joins_contentParts hi _ f c l p) (joins_lockPart _ p)
  have lock : extra.count .lock = if locks s.link then 1 else 0 := by
    rw [hextra, List.count_append, count_lock_contentParts hi, count_lock_lockPart, Nat.zero_add]
  have link := sceneStep_link joined m
  have latch := sceneStep_linkLatch joined m
  rw [lock] at link latch
  obtain ⟨d, sent, own⟩ := forward_markOwn (withCheck [f, c, l, y, v]) (sceneStep extra m)
  have spared := (Spared.refl (setLink { (sceneStep extra m).link with downOut := d } (sceneStep extra m))).finish
  refine ⟨_, congrArg (fun u => Host.Outcome.next (finish u)) (frame.trans sent), ?_⟩
  exact {
    link := ⟨d, by
      rw [spared.link, setLink_link, link]
      unfold markedLink
      split <;> rfl, by rw [spared.link]; exact own⟩
    linkLatch := by
      rw [spared.linkLatch]
      refine latch.trans ?_
      split <;> rfl
    tables := spared.tables.trans (sceneStep_tables joined m)
    flags := spared.flags.trans (sceneStep_flags joined m)
    masters := spared.masters.trans (sceneStep_masters joined m) }

/-! ## The link after a mark (R145) -/

section
variable {k : Link}

theorem markSteps_of_not_locked (h : k.state ≠ .locked) : markSteps k = true := by
  unfold markSteps
  split
  · next locked => exact absurd locked h
  all_goals rfl

theorem markSteps_of_locked (h : k.state = .locked) : markSteps k = decide (30 ≤ k.stepGap) := by
  rw [markSteps, h]

/-- A mark in LOCKED changes no count (log entry 16). -/
theorem markedLink_of_locked (h : k.state = .locked) : markedLink k = k := by
  rw [markedLink, locks, afterMark, h]
  rfl

theorem locks_of_not_locked (h : k.state ≠ .locked) : locks k = (lengthens k && k.lockRun == 2) := by
  unfold locks
  split
  · next locked => exact absurd locked h
  all_goals rfl

/-- In SEARCHING and LOST a mark sets the mark gap to 0 and counts in the run. -/
theorem afterMark_of_not_locked (h : k.state ≠ .locked) : afterMark k = { k with
    markGap := 0
    lockRun := if lengthens k then (if k.lockRun = 2 then k.lockRun else k.lockRun + 1) else 1 } := by
  unfold afterMark
  split
  · next locked => exact absurd locked h
  all_goals rfl

/-- A mark that does not lengthen the run begins a new one. -/
theorem markedLink_new (h : k.state ≠ .locked) (gap : ¬ (30 ≤ k.markGap ∧ k.markGap ≤ 50)) :
    locks k = false ∧ markedLink k = { k with markGap := 0, lockRun := 1 } := by
  have short : lengthens k = false := decide_eq_false gap
  have lock : locks k = false := by rw [locks_of_not_locked h, short, Bool.false_and]
  exact ⟨lock, by rw [markedLink, lock, afterMark_of_not_locked h, short]; rfl⟩

/-- A mark that lengthens a run below two counts one more. -/
theorem markedLink_run (h : k.state ≠ .locked) (gap : 30 ≤ k.markGap ∧ k.markGap ≤ 50) (run : k.lockRun < 2) :
    locks k = false ∧ markedLink k = { k with markGap := 0, lockRun := k.lockRun + 1 } := by
  have long : lengthens k = true := decide_eq_true gap
  have lock : locks k = false := by
    rw [locks_of_not_locked h, long, Bool.true_and, beq_eq_false_iff_ne]
    omega
  have below : k.lockRun ≠ 2 := by omega
  exact ⟨lock, by rw [markedLink, lock, afterMark_of_not_locked h, long, if_neg below]; rfl⟩

/-- The third mark in time takes the link to LOCKED. -/
theorem markedLink_third (h : k.state ≠ .locked) (gap : 30 ≤ k.markGap ∧ k.markGap ≤ 50) (run : k.lockRun = 2) :
    locks k = true ∧ markedLink k = { k with markGap := 0, state := .locked, lockRun := 0 } := by
  have long : lengthens k = true := decide_eq_true gap
  have lock : locks k = true := by
    rw [locks_of_not_locked h, long, run]
    rfl
  exact ⟨lock, by rw [markedLink, lock, afterMark_of_not_locked h]; rfl⟩

end

/-! ## A flag's scene step (R21) -/

theorem flagStep_of_none {x : Flag} (h : x.pulse = none) : flagStep x = x := by rw [flagStep, h]

theorem flagStep_of_some {x : Flag} {n : Nat} (h : x.pulse = some n) :
    flagStep x = if n ≤ 1 then ⟨false, none⟩ else ⟨x.on, some (n - 1)⟩ := by
  rw [flagStep, h]
  by_cases last : n ≤ 1
  · simp only [flagPulseEnds_last h last, if_pos last]
  · simp only [if_neg last]

/-! ## The two statements -/

/-- In LOCKED a mark at a step gap below 30, with cue code 0, is ignored (R144). -/
theorem arrive6_early {f y v : Byte} (h0 : f.getLsbD 0 = true) (h1 : f.getLsbD 1 = false) (h2 : f.getLsbD 2 = false)
    (hi : symbolActs y v = false) {s : State} (locked : s.link.state = .locked) (early : s.link.stepGap < 30) (l : Byte) :
    arrive6 (withCheck [f, 0, l, y, v]) s =
      setLink { s.link with lines := l, downOut := some (withCheck [f, 0, l, y, v]) } s := by
  have notLost : s.link.state ≠ .lost := by
    rw [locked]
    exact nofun
  have ignored : markSteps s.link = false := by
    rw [markSteps_of_locked locked]
    exact decide_eq_false (Nat.not_le.2 early)
  have kept : afterMark s.link = s.link := by rw [afterMark, locked]
  have content : contentParts s.link.state (withCheck [f, 0, l, y, v]) = [] := by
    rw [contentParts_withCheck notLost, hi]
    rfl
  rw [arrive6_marked h0 h1 h2, validForward_of_idle hi, ignored, kept, content, if_neg Bool.false_ne_true, anyOrder_nil,
    markOwn_of_not_lost (by exact notLost), forward_eq, sentDown_of_not_lost (by exact notLost)]
  rfl

theorem markedLink_address_damaged (k : Link) : (markedLink k).address = k.address ∧ (markedLink k).damaged = k.damaged := by
  unfold markedLink afterMark
  split <;> split <;> exact ⟨rfl, rfl⟩

/-- Settles O20: the scene step of a mark in every order of the blocks, and the mark that is too early. -/
theorem stepMarksMakeSceneSteps : Obligations.StepMarksMakeSceneSteps := by
  intro f c l y v s h0 h1 h2 hi ho bs
  refine ⟨fun steps => ?_, fun locked early hc => ?_⟩
  · have makes : markSteps s.link = true := by
      by_cases locked : s.link.state = .locked
      · rw [markSteps_of_locked locked]
        exact decide_eq_true (steps locked)
      · exact markSteps_of_not_locked locked
    obtain ⟨t, run, after⟩ := exec_markStep h0 h1 h2 hi makes c l
    obtain ⟨d, link, sent⟩ := after.link
    obtain ⟨address, damaged⟩ := markedLink_address_damaged s.link
    refine ⟨t, run, by rw [link], by rw [link], by rw [link]; exact address, by rw [link]; exact damaged, fun notLost => ?_,
      after.tables, fun k => ?_, fun g => ?_, fun locked => ?_⟩
    · rw [link]
      exact sent notLost
    · rw [after.flags]
      refine (tab_get _ k).trans ?_
      cases e : s.cue.flags[k].pulse with
      | none => exact flagStep_of_none e
      | some n => exact flagStep_of_some e
    · rw [after.masters]
      exact tab_get _ g
    · rw [link, markedLink_of_locked locked]
      exact ⟨locked, rfl⟩
  · subst hc
    exact exec_downstreamFrame (arrive6_early h0 h1 h2 hi locked early l) ho

/-- Settles O21: the mark's counts and the lock, by the gap and the run. -/
theorem thirdMarkLocks : Obligations.ThirdMarkLocks := by
  intro f c l y v s h0 h1 h2 hi ho unlocked run
  obtain ⟨t, runs, after⟩ := exec_markStep h0 h1 h2 hi (markSteps_of_not_locked unlocked) c l
  obtain ⟨d, link, -⟩ := after.link
  have latch := after.linkLatch
  have markGap : (markedLink s.link).markGap = 0 := by
    rw [markedLink, afterMark_of_not_locked unlocked]
    split <;> rfl
  refine ⟨t, runs, by rw [link]; exact markGap, fun gap => ?_, fun low high below => ?_, fun low high two => ?_⟩
  · obtain ⟨lock, marked⟩ := markedLink_new unlocked gap
    rw [latch, lock, link, marked]
    exact ⟨rfl, rfl, rfl⟩
  · obtain ⟨lock, marked⟩ := markedLink_run unlocked ⟨low, high⟩ below
    rw [latch, lock, link, marked]
    exact ⟨rfl, rfl, rfl⟩
  · obtain ⟨lock, marked⟩ := markedLink_third unlocked ⟨low, high⟩ two
    rw [latch, lock, link, marked]
    exact ⟨rfl, rfl, rfl, rfl⟩

end Sys2Proof.Machine
end

section
/-! The fallback step of an ACTIVE node (R144): clock and players take it once in every order of the blocks, because nothing is owed and
no wake is asked for while the node is ACTIVE (R171, R172). -/

namespace Sys2Proof.Machine

/-! ## What the other blocks leave -/

/-- `s` has the node state, the owed requests, the tables, the clock and the players of `z`. -/
structure Paced (z s : State) : Prop where
  node : s.node = z.node
  owed : s.owed = z.owed
  tables : s.tables = z.tables
  clock : s.clock = z.clock
  players : s.players = z.players

theorem Paced.refl (s : State) : Paced s s := ⟨rfl, rfl, rfl, rfl, rfl⟩

theorem Paced.trans {y z s : State} (h : Paced z y) (h' : Paced y s) : Paced z s where
  node := h'.node.trans h.node
  owed := h'.owed.trans h.owed
  tables := h'.tables.trans h.tables
  clock := h'.clock.trans h.clock
  players := h'.players.trans h.players

/-- The updates of the Reservation, Train and Axis Units leave all these. -/
theorem Paced.of_others {z s : State} (h : othersOf s = othersOf z) : Paced z s :=
  have others {α : Type} (f : State → α) : f (othersOf s) = f (othersOf z) := congrArg f h
  ⟨others State.node, others State.owed, others State.tables, others State.clock, others State.players⟩

theorem paced_appendCue (code : Nat) (source : Source) (s : State) : Paced s (appendCue code source s) :=
  .of_others ((closed_others s).cue _ _ _ rfl)

theorem paced_stepChain (s : State) : Paced s (stepChain s) := by
  unfold stepChain startCycle
  dsimp only
  split
  · split
    · split <;> exact ⟨rfl, rfl, rfl, rfl, rfl⟩
    · exact ⟨rfl, rfl, rfl, rfl, rfl⟩
  · exact ⟨rfl, rfl, rfl, rfl, rfl⟩

/-- In an ACTIVE node every part but the clock and the players leaves all these. -/
theorem paced_runPart {p : Part} (hp : p = .flags ∨ p = .lamps ∨ p = .lock ∨ spares p = true) (hc : p ≠ .clock)
    (hl : p ≠ .lists) {s : State} (active : s.node = .active) : Paced s (runPart p s) := by
  cases p with
  | clock => exact absurd rfl hc
  | lists => exact absurd rfl hl
  | flags | lamps | lock => exact ⟨rfl, rfl, rfl, rfl, rfl⟩
  | points => exact .of_others ((closed_others s).stepPoints rfl)
  | trains => exact .of_others ((closed_others s).stepTrains rfl)
  | axes => exact .of_others ((closed_others s).stepAxes rfl)
  | chain => exact paced_stepChain s
  | node =>
    rw [runPart, nodeCheck_of_active active]
    exact .refl s
  | period =>
    have after := Paced.of_others (axisPeriod_others s)
    exact ⟨after.node, after.owed, after.tables, after.clock, after.players⟩
  | cue => exact paced_appendCue ..
  | symbol | req | drop | abandon => simp [spares] at hp

/-! ## The clock's step (R23, R27, R30) -/

/-- The clock after a scene step (R23). -/
def clockAfter (c : Clock) : Clock :=
  match c.pendingSet with
  | some p => applySet p c
  | none => if c.run = .running ∧ c.dormantHold = false then advanced c else c

/-- An alarm finds an ACTIVE node awake, so its cue is all that it brings (R30, R172). -/
theorem fireAlarm_of_active {s : State} (h : s.node = .active) (i : AlarmId) :
    fireAlarm i s = appendCue s.tables.alarms[i].code .alarm s := by
  have awake : wake (.alarm i) s = s := by rw [wake, h]
  simp only [fireAlarm, awake, ite_self]

theorem paced_advanceClock {s : State} (h : s.node = .active) :
    Paced (setClock (advanced s.clock) s) (advanceClock s) := by
  refine foldl_keeps (P := Paced (setClock (advanced s.clock) s)) _ _ (fun u i _ hu => ?_) _ (.refl _)
  rw [fireAlarm_of_active (hu.node.trans h)]
  exact hu.trans (paced_appendCue ..)

/-- The clock's step changes the clock of an ACTIVE node and leaves the rest of these. -/
theorem paced_stepClock {s : State} (h : s.node = .active) : Paced (setClock (clockAfter s.clock) s) (stepClock s) := by
  unfold stepClock clockAfter applyPendingSet
  cases e : s.clock.pendingSet with
  | some p => exact .refl _
  | none =>
    dsimp only
    split
    · next advances =>
      obtain ⟨running, held⟩ := advances
      rw [running, held]
      exact paced_advanceClock h
    · next stands =>
      split
      · next running held => exact absurd ⟨running, held⟩ stands
      · exact .refl s

/-- A clock in range passes midnight at most once in an advance (R22, R23). -/
theorem advanced_of_inRange {c : Clock} (h : ClockInRange c) : advanced c = { c with
    time := (c.time + c.rate) % 86400000
    day := if c.time + c.rate < 86400000 then c.day else (c.day + 1) % 65536 } := by
  obtain ⟨time, -, rate, -⟩ := h
  simp only [dayMs] at time
  unfold advanced
  by_cases day : c.time + c.rate < 86400000
  · have before : passesMidnight c = false := decide_eq_false (Nat.not_le.2 day)
    rw [before, if_pos day, Nat.mod_eq_of_lt day]
    rfl
  · have passes : passesMidnight c = true := decide_eq_true (Nat.not_lt.1 day)
    have once : (c.time + c.rate) % 86400000 = c.time + c.rate - 86400000 := by omega
    rw [passes, if_neg day, once]
    rfl

/-! ## The players' step (R35, R36) -/

/-- The same players with the same tables. -/
def SamePlay (u v : State) : Prop := u.players = v.players ∧ u.tables = v.tables

namespace SamePlay

variable {u v : State}

theorem setPlayer (h : SamePlay u v) {p : PlayerId} {x : Player} : SamePlay (setPlayer p x u) (setPlayer p x v) :=
  ⟨congrArg (fun w : Vector Player 4 => w.set p x) h.1, h.2⟩

theorem append (h : SamePlay u v) {code : Nat} {source : Source} :
    SamePlay (appendCue code source u) (appendCue code source v) :=
  have left := paced_appendCue code source u
  have right := paced_appendCue code source v
  ⟨(left.players.trans h.1).trans right.players.symm, (left.tables.trans h.2).trans right.tables.symm⟩

theorem entryAt (h : SamePlay u v) (i : Nat) : entryAt u i = entryAt v i := by
  simp only [Machine.entryAt, h.2]

theorem arrive (h : SamePlay u v) (p : PlayerId) (i : Nat) :
    (arrive p i u).1 = (arrive p i v).1 ∧ SamePlay (arrive p i u).2 (arrive p i v).2 := by
  unfold Machine.arrive
  rw [h.entryAt, h.1]
  exact ⟨rfl, h.setPlayer⟩

theorem fireEnd (h : SamePlay u v) (p : PlayerId) :
    (fireEnd p u).1 = (fireEnd p v).1 ∧ SamePlay (fireEnd p u).2 (fireEnd p v).2 := by
  have stops : SamePlay (Machine.setPlayer p { u.players[p] with state := .stopped } u)
      (Machine.setPlayer p { v.players[p] with state := .stopped } v) := by
    rw [h.1]
    exact h.setPlayer
  unfold Machine.fireEnd
  rw [h.2]
  dsimp only
  cases v.tables.listDir[p].mode with
  | loop => exact h.append.arrive ..
  | once | restart => exact ⟨rfl, stops.append⟩

theorem fireEntry (h : SamePlay u v) (p : PlayerId) : (fireEntry p u).1 = (fireEntry p v).1 ∧
    (fireEntry p u).2.1 = (fireEntry p v).2.1 ∧ SamePlay (fireEntry p u).2.2 (fireEntry p v).2.2 := by
  unfold Machine.fireEntry
  dsimp only
  rw [h.1, h.entryAt]
  split
  · obtain ⟨next, same⟩ := h.fireEnd p
    exact ⟨next, rfl, same⟩
  · split
    · obtain ⟨next, same⟩ := h.append.arrive p (v.players[p].index + 1)
      exact ⟨next, rfl, same⟩
    · obtain ⟨next, same⟩ := h.append.fireEnd p
      exact ⟨next, rfl, same⟩

theorem fireEntries {fuel left : Nat} (h : SamePlay u v) (p : PlayerId) :
    SamePlay (fireEntries fuel left p u) (fireEntries fuel left p v) := by
  induction fuel generalizing left u v with
  | zero => exact h
  | succ fuel ih =>
    obtain ⟨next, count, same⟩ := h.fireEntry p
    unfold Machine.fireEntries
    dsimp only
    rw [next, count]
    split
    · split
      · rw [same.1]
        exact same.setPlayer
      · exact ih same
    · exact same

theorem countdownEnds (h : SamePlay u v) (p : PlayerId) : SamePlay (countdownEnds p u) (countdownEnds p v) := by
  unfold Machine.countdownEnds
  rw [h.1]
  dsimp only
  split
  · split
    · exact h.setPlayer.fireEntries p
    · exact h
  all_goals exact h

theorem stepPlayer (h : SamePlay u v) (p : PlayerId) : SamePlay (stepPlayer p u) (stepPlayer p v) := by
  unfold Machine.stepPlayer
  rw [h.1]
  dsimp only
  split
  · split
    · exact h.countdownEnds p
    · exact h.setPlayer
  all_goals exact h

/-- The players' step reads the players and the tables alone. -/
theorem stepLists (h : SamePlay u v) : SamePlay (stepLists u) (stepLists v) := by
  unfold Machine.stepLists
  induction every 4 generalizing u v with
  | nil => exact h
  | cons p ps ih => exact ih (h.stepPlayer p)

end SamePlay

/-- `s` has the node state, the owed requests, the tables and the clock of `z`. -/
def Plays (z s : State) : Prop := Paced { z with players := s.players } s

namespace Plays

variable {z s : State}

theorem setPlayer (h : Plays z s) {p : PlayerId} {x : Player} : Plays z (setPlayer p x s) :=
  ⟨h.node, h.owed, h.tables, h.clock, rfl⟩

theorem append (h : Plays z s) {code : Nat} {source : Source} : Plays z (appendCue code source s) :=
  have after := h.trans (paced_appendCue code source s)
  ⟨after.node, after.owed, after.tables, after.clock, rfl⟩

theorem latch (h : Plays z s) {k : NoticeKind} {d : Detail} : Plays z (latch k d s) :=
  ⟨h.node, h.owed, h.tables, h.clock, rfl⟩

theorem fireEnd (h : Plays z s) {p : PlayerId} : Plays z (fireEnd p s).2 := by
  unfold Machine.fireEnd
  dsimp only
  split
  · exact h.append.setPlayer
  iterate 2 exact h.setPlayer.append.latch

theorem fireEntry (h : Plays z s) {p : PlayerId} : Plays z (fireEntry p s).2.2 := by
  unfold Machine.fireEntry
  dsimp only
  split
  · exact h.fireEnd
  · split
    · exact h.append.setPlayer
    · exact h.append.fireEnd

theorem fireEntries {fuel left : Nat} {p : PlayerId} (h : Plays z s) : Plays z (fireEntries fuel left p s) := by
  induction fuel generalizing left s with
  | zero => exact h
  | succ fuel ih =>
    unfold Machine.fireEntries
    dsimp only
    split
    · split
      · exact h.fireEntry.setPlayer
      · exact ih h.fireEntry
    · exact h.fireEntry

theorem countdownEnds (h : Plays z s) {p : PlayerId} : Plays z (countdownEnds p s) := by
  unfold Machine.countdownEnds
  dsimp only
  split
  · split
    · exact h.setPlayer.fireEntries
    · exact h
  all_goals exact h

theorem stepLists (h : Plays z s) : Plays z (stepLists s) := by
  refine foldl_keeps (P := Plays z) _ _ (fun u p _ hu => ?_) _ h
  unfold stepPlayer
  dsimp only
  split
  · split
    · exact hu.countdownEnds
    · exact hu.setPlayer
  all_goals exact hu

end Plays

/-- The players' step leaves the rest of these. -/
theorem plays_stepLists (s : State) : Plays s (stepLists s) := Plays.stepLists (Paced.refl s)

/-! ## The parts of a scene step in an ACTIVE node (R144, R171) -/

/-- With nothing owed and the node ACTIVE before and after it, a part is taken as it is. -/
theorem partEvent_of_active {p : Part} (hc : checksItself p = false) {s : State} (ho : s.owed = [])
    (h : (runPart p s).node = .active) : partEvent p s = runPart p s := by
  unfold partEvent
  dsimp only
  rw [settle_of_nothing_owed ho, hc, if_neg Bool.false_ne_true, afterEvent_of_active h]

/-- `u` is ACTIVE with nothing owed and has the tables of `s`. -/
def Awake (s u : State) : Prop := u.node = .active ∧ u.owed = [] ∧ u.tables = s.tables

theorem Awake.of_paced {s u v : State} (h : Awake s u) (hp : Paced u v) : Awake s v := by
  obtain ⟨active, owed, tables⟩ := h
  exact ⟨hp.node.trans active, hp.owed.trans owed, hp.tables.trans tables⟩

section
variable {s u : State} (h : Awake s u)
include h

theorem partEvent_clock_of_awake : Paced (setClock (clockAfter u.clock) u) (partEvent .clock u) := by
  obtain ⟨active, owed, -⟩ := h
  have after := paced_stepClock active
  rwa [partEvent_of_active (p := .clock) rfl owed (after.node.trans active)]

theorem partEvent_lists_of_awake : partEvent .lists u = stepLists u := by
  obtain ⟨active, owed, -⟩ := h
  exact partEvent_of_active rfl owed ((plays_stepLists u).node.trans active)

/-- The players' step of an ACTIVE node, by the tables of `s`. -/
theorem partEvent_lists_players : (partEvent .lists u).players = (stepLists { s with players := u.players }).players := by
  obtain ⟨-, -, tables⟩ := id h
  have same : SamePlay u { s with players := u.players } := ⟨rfl, tables⟩
  obtain ⟨players, -⟩ := same.stepLists
  rw [partEvent_lists_of_awake h, players]

theorem partEvent_other_of_awake {p : Part} (hp : p = .flags ∨ p = .lamps ∨ p = .lock ∨ spares p = true)
    (hc : p ≠ .clock) (hl : p ≠ .lists) : Paced u (partEvent p u) := by
  obtain ⟨active, owed, -⟩ := h
  have after := paced_runPart hp hc hl active
  have unchecked : checksItself p = false := by
    cases p with
    | symbol => simp [spares] at hp
    | _ => rfl
  rwa [partEvent_of_active unchecked owed (after.node.trans active)]

/-- Each part leaves the node ACTIVE with nothing owed. -/
theorem awake_partEvent {p : Part} (hp : p = .flags ∨ p = .lamps ∨ p = .lock ∨ spares p = true) :
    Awake s (partEvent p u) := by
  by_cases hc : p = .clock
  · subst hc
    exact Awake.of_paced (u := setClock (clockAfter u.clock) u) h (partEvent_clock_of_awake h)
  · by_cases hl : p = .lists
    · subst hl
      rw [partEvent_lists_of_awake h]
      exact Awake.of_paced (u := { u with players := (stepLists u).players }) h (plays_stepLists u)
    · exact h.of_paced (partEvent_other_of_awake h hp hc hl)

end

/-! ## The scene step of an ACTIVE node (R144) -/

/-- The parts of a scene step alone. -/
theorem mem_sceneParts_alone {s : State} {p : Part} (hp : p ∈ sceneParts s ++ []) :
    p = .flags ∨ p = .lamps ∨ p = .lock ∨ spares p = true := mem_sceneParts (List.forall_mem_nil _) hp

section
variable {s : State} (active : s.node = .active) (owed : s.owed = [])
include active owed

theorem awake_stepMade : Awake s (stepMade s) := ⟨active, owed, rfl⟩

/-- A scene step leaves an ACTIVE node ACTIVE with nothing owed. -/
theorem sceneStep_awake : Awake s (sceneStep [] s) := by
  obtain ⟨cs, n, e⟩ := arrange_snd (sceneParts s ++ []) (stepMade s)
  refine foldl_keeps (P := Awake s) _ _ (fun u p hp hu => awake_partEvent hu (mem_sceneParts_alone (mem_arrange.1 hp))) _ ?_
  rw [e]
  exact awake_stepMade active owed

/-- The clock takes a scene step once. -/
theorem sceneStep_clock : (sceneStep [] s).clock = clockAfter s.clock := by
  have once := anyOrder_counts (P := Awake s) (obs := State.clock) (p := .clock) (g := clockAfter) (ps := sceneParts s ++ [])
    (fun _ _ _ hu => ⟨hu, rfl⟩) (fun _ hu => (partEvent_clock_of_awake hu).clock)
    (fun _ hq _ hu => awake_partEvent hu (mem_sceneParts_alone hq)) (fun q hq ne u hu => by
      by_cases hl : q = .lists
      · subst hl
        rw [partEvent_lists_of_awake hu]
        exact (plays_stepLists u).clock
      · exact (partEvent_other_of_awake hu (mem_sceneParts_alone hq) ne hl).clock) (awake_stepMade active owed)
  rwa [count_sceneParts (p := .clock) nofun] at once

/-- The players take a scene step once. -/
theorem sceneStep_players : (sceneStep [] s).players = (stepLists s).players := by
  have once := anyOrder_counts (P := Awake s) (obs := State.players) (p := .lists)
    (g := fun v => (stepLists { s with players := v }).players) (ps := sceneParts s ++ []) (fun _ _ _ hu => ⟨hu, rfl⟩)
    (fun _ hu => partEvent_lists_players hu)
    (fun _ hq _ hu => awake_partEvent hu (mem_sceneParts_alone hq)) (fun q hq ne u hu => by
      by_cases hc : q = .clock
      · subst hc
        exact (partEvent_clock_of_awake hu).players
      · exact (partEvent_other_of_awake hu (mem_sceneParts_alone hq) hc ne).players) (awake_stepMade active owed)
  rwa [count_sceneParts (p := .lists) nofun] at once

end

/-! ## The fallback timebase (R144) -/

/-- In LOCKED, and below step gap 40, there is no fallback step. -/
theorem fallback_of_none {s : State} (h : s.link.state = .locked ∨ s.link.stepGap < 40) : fallback s = s := by
  unfold fallback
  split
  · rfl
  all_goals
    next state => exact if_neg (Nat.not_le.2 (h.resolve_left (by rw [state]; exact nofun)))

theorem fallback_of_step {s : State} (hl : s.link.state ≠ .locked) (hg : 40 ≤ s.link.stepGap) :
    fallback s = markOwn (sceneStep [] s) := by
  unfold fallback
  split
  · next locked => exact absurd locked hl
  all_goals exact if_pos hg

/-- Settles O22: what the blocks of a scene step each do once, and what they leave. -/
theorem fallbackStepReachesBlocks : Obligations.FallbackStepReachesBlocks := by
  intro s ho
  refine ⟨fun none => ?_, fun unlocked gap active inRange => ?_⟩
  · have stays : exec .fallbackStep s = .next (finish s) :=
      congrArg (fun u => Host.Outcome.next (finish u)) (fallback_of_none none)
    rw [stays, finish_of_nothing_owed ho]
  · obtain ⟨awake, owed, tables⟩ := sceneStep_awake active ho
    obtain ⟨d, own⟩ := markOwn_eq (sceneStep [] s)
    have link := sceneStep_link (List.forall_mem_nil _) s
    have clock := sceneStep_clock active ho
    have flags := sceneStep_flags (List.forall_mem_nil _) s
    have masters := sceneStep_masters (List.forall_mem_nil _) s
    have ends : exec .fallbackStep s = .next (setLink { (sceneStep [] s).link with downOut := d } (sceneStep [] s)) :=
      calc exec .fallbackStep s
        _ = .next (finish (markOwn (sceneStep [] s))) :=
          congrArg (fun u => Host.Outcome.next (finish u)) (fallback_of_step unlocked gap)
        _ = .next (setLink { (sceneStep [] s).link with downOut := d } (sceneStep [] s)) := by
          rw [own, finish_of_nothing_owed (by exact owed)]
    refine ⟨_, ends, awake, owed, tables, ?_⟩
    simp only [setLink_link, setLink_clock, setLink_players, setLink_cue, setLink_lamp, link, clock, flags, masters]
    refine ⟨rfl, rfl, rfl, rfl, rfl, rfl, ?_, sceneStep_players active ho, fun k => tab_get _ k, fun g => tab_get _ g⟩
    cases e : s.clock.pendingSet with
    | some p => simp only [clockAfter, e]
    | none => simp only [clockAfter, e, advanced_of_inRange inRange]

end Sys2Proof.Machine
end

section
/-! What becomes of an outcome and of a latched notice, and how an answer ends (R150, R155, R163 to R166). -/

namespace Sys2Proof.Machine

/-! ## Outcomes (R155, R163) -/

section
variable {kind : Byte} {r : Result} {d : List Byte} {s : State}

/-- An addressed outcome joins a reply queue with room. -/
theorem outcome_own_of_room (h : s.xfer.replies.length < 4) :
    outcome .own kind r d s = setXfer { s.xfer with replies := s.xfer.replies ++ [⟨kind, r, d⟩] } s := if_pos h

/-- A full reply queue drops it. -/
theorem outcome_own_of_full (h : 4 ≤ s.xfer.replies.length) :
    outcome .own kind r d s = latch .replyOverrun (.result kind r) s := if_neg (Nat.not_lt.2 h)

theorem outcome_broadcast_ok : outcome .broadcast kind .ok d s = s := by
  rw [outcome, if_pos rfl]

theorem outcome_broadcast_rejected (h : r ≠ .ok) :
    outcome .broadcast kind r d s = latch .bcastReject (.result kind r) s := if_neg h

end

/-! ## Latches (R165) -/

/-- A kind is read back from its position in Table 9-3. -/
theorem noticeKinds_idx (k : NoticeKind) : noticeKinds[k.idx.val]? = some k := by cases k <;> rfl

theorem idx_ne {k l : NoticeKind} (h : k ≠ l) : k.idx ≠ l.idx := fun e =>
  h (Option.some.inj (by rw [← noticeKinds_idx k, e, noticeKinds_idx l]))

/-- A latch that a detail does not change is left, and with it the state. -/
theorem latch_of_take_same {k : NoticeKind} {d : Detail} {s : State} (h : (latchOf s k).take d = latchOf s k) :
    latch k d s = s := by
  have same : s.notices.latches.set k.idx (latchOf s k) = s.notices.latches := Vector.set_getElem_self _
  rw [latch, h, same]

/-- Settles O29: the outcome by the opening and the room in the queue, the latch by its state. -/
theorem outcomesAndLatches : Obligations.OutcomesAndLatches := by
  refine ⟨fun kind r d s => ⟨fun room => outcome_own_of_room room, fun full => outcome_own_of_full full, ?_,
    fun rejected => outcome_broadcast_rejected rejected⟩, fun k d s => ⟨fun h => ?_, fun d0 h => ?_, fun d0 h => ?_,
    fun d0 l h => ?_, fun k' other => latchOf_latch_ne (idx_ne other.symm) d s, rfl, rfl, rfl⟩⟩
  · rintro rfl
    exact outcome_broadcast_ok
  · rw [latchOf_latch, h, Latch.take]
  · exact latch_of_take_same (by rw [h, Latch.take])
  · rw [latchOf_latch, h, Latch.take]
  · exact latch_of_take_same (by rw [h, Latch.take])

/-! ## The end of an answer (R150, R163, R164, R166) -/

/-- While symbols are still to be put on the lane, or no answer is given, there is no end to report. -/
theorem answerDone_of_unsent {s : State} (h : ∀ k, s.link.talk ≠ some ⟨k, []⟩) : answerDone s = s := by
  unfold answerDone
  split
  · next k sent => exact absurd sent (h k)
  · rfl
  · rfl

theorem answerDone_of_sent {s : State} {k : AnswerKind} (h : s.link.talk = some ⟨k, []⟩) :
    answerDone s = reportSent k (setLink { s.link with talk := none } s) := by
  rw [answerDone, h]

/-- Settles O26: the end of each of the three answers is what is reported to the Transfer Unit. -/
theorem answerSentEndsAnswer : Obligations.AnswerSentEndsAnswer := by
  intro s
  refine ⟨fun unsent => ?_, fun sent => ?_, fun sent => ?_, fun sent => ?_⟩
  · exact congrArg Host.Outcome.next (answerDone_of_unsent unsent)
  · exact congrArg Host.Outcome.next (answerDone_of_sent sent)
  · exact congrArg Host.Outcome.next (answerDone_of_sent sent)
  · exact congrArg Host.Outcome.next (answerDone_of_sent sent)

/-! ## NOTICES (R167) -/

/-- An outcome that joins no full reply queue and is no failed broadcast leaves the notices. -/
theorem outcome_notices {via : Opened} {kind : Byte} {d : List Byte} {s : State}
    (h : via = .broadcast ∨ s.xfer.replies.length < 4) : (outcome via kind .ok d s).notices = s.notices := by
  cases via with
  | own => rw [outcome_own_of_room (h.resolve_left Opened.noConfusion), setXfer_notices]
  | broadcast => rw [outcome_broadcast_ok]

/-- An outcome OK latches REPLY_OVERRUN or nothing. -/
theorem latchOf_outcome_ok {k : NoticeKind} (h : k ≠ .replyOverrun) (via : Opened) (kind : Byte) (d : List Byte)
    (s : State) : latchOf (outcome via kind .ok d s) k = latchOf s k := by
  obtain full | room := Nat.lt_or_ge 3 s.xfer.replies.length
  · cases via with
    | own => rw [outcome_own_of_full full, latchOf_latch_ne (idx_ne h.symm)]
    | broadcast => rw [outcome_broadcast_ok]
  · rw [latchOf, outcome_notices (.inr (Nat.lt_succ_of_le room)), latchOf]

/-- A CLEAR latch is none of those that a sent report carried. -/
theorem latchOf_reportSent_of_clear {k : NoticeKind} {s : State} (h : latchOf s k = .clear) (a : AnswerKind) :
    latchOf (reportSent a s) k = .clear := by
  cases a with
  | reply | empty => exact h
  | notice => exact (tab_get _ k.idx).trans (congrArg Latch.sent h)

theorem latchOf_reportAbandoned_of_clear {k : NoticeKind} {s : State} (h : latchOf s k = .clear) (a : AnswerKind) :
    latchOf (reportAbandoned a s) k = .clear := by
  cases a with
  | reply | empty => exact h
  | notice => exact (tab_get _ k.idx).trans (congrArg Latch.abandoned h)

/-- A CLEAR latch stays so when the answer in progress ends. -/
theorem latchOf_answerDone_of_clear {k : NoticeKind} {s : State} (h : latchOf s k = .clear) :
    latchOf (answerDone s) k = .clear := by
  unfold answerDone
  split
  · next a _ => exact latchOf_reportSent_of_clear (s := setLink { s.link with talk := none } s) h a
  · exact h
  · exact h

/-- Nor is it touched when the answer in progress is abandoned. -/
theorem latchOf_abandonAnswer_of_clear {k : NoticeKind} {s : State} (h : latchOf s k = .clear) :
    latchOf (abandonAnswer s) k = .clear := by
  unfold abandonAnswer
  split
  · next a _ _ _ =>
    exact latchOf_reportAbandoned_of_clear (s := setLink { s.link with talk := none, retOwn := true } s) h a
  · exact latchOf_answerDone_of_clear h
  · exact h

/-- The latches named in the clear mask are CLEAR after the commit. -/
theorem latchOf_commitNotices {clear : BitVec 16} {k : NoticeKind} (h : clear.getLsbD k.idx.val = true) (master : Byte)
    (enables : BitVec 16) (s : State) : latchOf (commitNotices master enables clear s) k = .clear :=
  (tab_get _ k.idx).trans (if_pos h)

theorem exec_notices (via : Opened) (master : Byte) (enables clear : BitVec 16) (s : State) :
    exec (.notices via master enables clear) s = .next (noticesTransfer via master enables clear (closeUnit s)) := rfl

/-- Settles O45: the commit sets and clears, its outcome latches REPLY_OVERRUN at most, and the end of the answer in progress
turns no CLEAR latch. -/
theorem noticesTransferSetsAndClears : Obligations.NoticesTransferSetsAndClears := by
  intro via master enables clear s
  refine ⟨rfl, fun k named spared => ⟨_, exec_notices via master enables clear s, ?_⟩⟩
  have cleared : latchOf (noticesTransfer via master enables clear (closeUnit s)) k = .clear := by
    have committed := latchOf_commitNotices named master enables (closeUnit s)
    obtain other | kept := spared
    · exact (latchOf_outcome_ok other ..).trans committed
    · have same := outcome_notices (kind := 7) (d := []) (s := commitNotices master enables clear (closeUnit s)) kept
      exact (congrArg (fun n : Notices => n.latches[k.idx]) same).trans committed
  exact ⟨cleared, ⟨_, rfl, latchOf_answerDone_of_clear cleared⟩, latchOf_abandonAnswer_of_clear cleared⟩

end Sys2Proof.Machine
end

section
/-! The transfers that read, and SET CLOCK, CUE and EXECUTE: what each answers on the closed unit (R154, R158 to R161). -/

namespace Sys2Proof.Machine

/-! ## Reads (R158, R159) -/

/-- A read opened to broadcast (R154 item 3). -/
theorem readTransfer_broadcast (table first count : Nat) (s : State) :
    readTransfer .broadcast table first count s = outcome .broadcast 2 .badKind [] s := rfl

theorem viewTransfer_broadcast (view index : Byte) (s : State) :
    viewTransfer .broadcast view index s = outcome .broadcast 3 .badKind [] s := rfl

/-- An addressed read has the outcome of its commit. -/
theorem readTransfer_own (table first count : Nat) (s : State) :
    readTransfer .own table first count s = conclude .own 2 (commitRead table first count s) := rfl

section
variable {table first : Nat} (count : Nat) (s : State)

theorem commitRead_badTable (h : 15 < table) : commitRead table first count s = plain .badTable s := if_pos h

theorem commitRead_range (ht : table ≤ 15) (h : recordCount table ≤ first) :
    commitRead table first count s = plain .range s := by
  rw [commitRead, if_neg (Nat.not_lt.2 ht), if_pos h]

theorem commitRead_ok (ht : table ≤ 15) (h : first < recordCount table) : commitRead table first count s =
    (.ok, byte table :: bytes2 first ++ [byte (readCount table first count)] ++
      (List.range (readCount table first count)).flatMap (fun i => readRecord s.tables table (first + i)), s) := by
  rw [commitRead, if_neg (Nat.not_lt.2 ht), if_neg (Nat.not_le.2 h)]

end

/-- A byte is the byte of its number. -/
@[simp] theorem byte_toNat (b : Byte) : byte b.toNat = b := by rw [byte, BitVec.ofNat_toNat, BitVec.setWidth_eq]

/-- Settles O34: the read is refused in the order of R158, and otherwise carries its records. -/
theorem readTableReply : Obligations.ReadTableReply := by
  intro table first count s u n
  have own : exec (.readTable .own table first count) s =
      .next (conclude .own 2 (commitRead table.toNat first.toNat count.toNat u)) := rfl
  refine ⟨rfl, fun above => ?_, fun inTables beyond => ?_, fun inTables within => ?_⟩
  · rw [own, commitRead_badTable _ _ above]
    rfl
  · rw [own, commitRead_range _ _ inTables beyond]
    rfl
  · rw [own, commitRead_ok _ _ inTables within, byte_toNat]
    rfl

/-! ### Views (R159, R180) -/

/-- An addressed READ STATE whose view there is. -/
theorem exec_readState_ok {view index : Byte} {s : State} {d : List Byte} (h : takeView view index (closeUnit s) = some d) :
    exec (.readState .own view index) s = .next (outcome .own 3 .ok d (closeUnit s)) := by
  show Host.Outcome.next (conclude .own 3 (commitView view index (closeUnit s))) = _
  rw [commitView, h]
  rfl

theorem exec_readState_range {view index : Byte} {s : State} (h : takeView view index (closeUnit s) = none) :
    exec (.readState .own view index) s = .next (outcome .own 3 .range [] (closeUnit s)) := by
  show Host.Outcome.next (conclude .own 3 (commitView view index (closeUnit s))) = _
  rw [commitView, h]
  rfl

@[simp] theorem length_bytes2 (n : Nat) : (bytes2 n).length = 2 := rfl
@[simp] theorem length_bytes4 (n : Nat) : (bytes4 n).length = 4 := rfl
@[simp] theorem length_bitBytes (count n : Nat) : (bitBytes count n).length = count := by simp [bitBytes]
@[simp] theorem length_threePlaces {n : Nat} (xs : List (Fin n)) : (threePlaces xs).length = 3 := rfl
@[simp] theorem length_every (n : Nat) : (every n).length = n := List.length_finRange

@[simp] theorem length_optBytes2 (v : Option Nat) : (optBytes2 v).length = 3 := by cases v <;> rfl

/-! The size of each view in Table 11-7. -/

theorem length_viewNode (s : State) : (viewNode s).length = 38 := by simp [viewNode]
theorem length_viewTrain (x : Train) : (viewTrain x).length = 19 := by simp [viewTrain]
theorem length_viewSection (x : Section) : (viewSection x).length = 9 := by simp [viewSection]
theorem length_viewAxis (x : Axis) : (viewAxis x).length = 18 := by simp [viewAxis]
theorem length_viewLamps (s : State) : (viewLamps s).length = 48 := by simp [viewLamps]
theorem length_viewCounts (s : State) : (viewCounts s).length = 6 := rfl

/-- A list of pieces of one length. -/
theorem length_flatMap_const {α β : Type} {n : Nat} {f : α → List β} (h : ∀ x, (f x).length = n) (xs : List α) :
    (xs.flatMap f).length = xs.length * n := by simp [List.length_flatMap, h]

theorem length_viewSections (s : State) : (viewSections s).length = 168 := by
  rw [viewSections, List.length_append, length_flatMap_const (fun _ => length_viewSection _),
    length_flatMap_const (n := 3) (fun _ => rfl), length_every, length_every]

/-- A view that R159 refuses: an unknown one, or a train or an axis beyond the last. -/
def viewRefused (view index : Byte) : Prop :=
  5 < view.toNat ∨ (view = 1 ∧ 3 < index.toNat) ∨ (view = 3 ∧ 5 < index.toNat)

theorem item_of_lt {n i : Nat} (h : i < n) : item n i = some ⟨i, h⟩ := dif_pos h

theorem item_of_ge {n i : Nat} (h : n ≤ i) : item n i = none := dif_neg (Nat.not_lt.2 h)

theorem takeView_refused {view index : Byte} (h : viewRefused view index) (s : State) : takeView view index s = none := by
  obtain unknown | ⟨rfl, beyond⟩ | ⟨rfl, beyond⟩ := h
  · unfold takeView
    split
    case h_7 => rfl
    all_goals omega
  · show (item 4 index.toNat).map _ = none
    rw [item_of_ge beyond, Option.map_none]
  · show (item 6 index.toNat).map _ = none
    rw [item_of_ge beyond, Option.map_none]

/-- Every other view is there, and fits a reply of 240 bytes. -/
theorem takeView_taken {view index : Byte} (h : ¬ viewRefused view index) (s : State) :
    ∃ d, d.length ≤ 240 ∧ takeView view index s = some d := by
  have named : ∀ n : Byte, view.toNat = n.toNat → view = n := fun n e => BitVec.eq_of_toNat_eq e
  unfold viewRefused at h
  rw [not_or, not_or] at h
  obtain ⟨known, train, axis⟩ := h
  unfold takeView
  split
  case h_1 => exact ⟨_, (length_viewNode s).trans_le (by decide), rfl⟩
  case h_2 e =>
    have inRange : index.toNat < 4 := by
      by_contra beyond
      exact train ⟨named 1 e, by omega⟩
    exact ⟨_, (length_viewTrain _).trans_le (by decide), by rw [item_of_lt inRange]; rfl⟩
  case h_3 => exact ⟨_, (length_viewSections s).trans_le (by decide), rfl⟩
  case h_4 e =>
    have inRange : index.toNat < 6 := by
      by_contra beyond
      exact axis ⟨named 3 e, by omega⟩
    exact ⟨_, (length_viewAxis _).trans_le (by decide), by rw [item_of_lt inRange]; rfl⟩
  case h_5 => exact ⟨_, (length_viewLamps s).trans_le (by decide), rfl⟩
  case h_6 => exact ⟨_, (length_viewCounts s).trans_le (by decide), rfl⟩
  case h_7 =>
    have views : view.toNat = 0 ∨ view.toNat = 1 ∨ view.toNat = 2 ∨ view.toNat = 3 ∨ view.toNat = 4 ∨ view.toNat = 5 := by
      omega
    obtain e | e | e | e | e | e := views
    all_goals contradiction

/-- The LAMPS view channel by channel (R57). -/
theorem viewLamps_eq (s : State) : viewLamps s =
    List.ofFn (fun c : ChannelId => byte (if s.tables.lamps[c].inUse then s.lamp.chans[c].out else 0)) :=
  List.ofFn_eq_map.symm

/-- Settles O35: the view is taken where R159 gives one. -/
theorem readStateReply : Obligations.ReadStateReply := by
  intro view index s u
  refine ⟨rfl, fun refused => exec_readState_range (takeView_refused refused _), fun taken => ?_, exec_readState_ok rfl,
    exec_readState_ok (congrArg some (viewLamps_eq _))⟩
  obtain ⟨d, small, e⟩ := takeView_taken taken (closeUnit s)
  exact ⟨d, small, exec_readState_ok e⟩

/-! ## SET CLOCK and CUE (R160) -/

/-- A CUE transfer of a cue appends it, with the outcome OK whether the queue has room or not. -/
theorem exec_cueTransfer {code : Byte} (h : code ≠ 0) (via : Opened) (s : State) :
    exec (.cueTransfer via code) s = .next (outcome via 5 .ok [] (appendCue code.toNat .request (closeUnit s))) := by
  have some : code.toNat ≠ 0 := fun e => h (BitVec.eq_of_toNat_eq e)
  show Host.Outcome.next (conclude via 5 (commitCue code.toNat (closeUnit s))) = _
  rw [commitCue, if_neg some]
  rfl

/-- Settles O36: the pending set is written whole; the cue is appended by the room in the queue. -/
theorem setClockAndCueTransfers : Obligations.SetClockAndCueTransfers := by
  intro via s u
  have number : ∀ {code : Byte}, code ≠ 0 → code.toNat ≠ 0 := fun h e => h (BitVec.eq_of_toNat_eq e)
  refine ⟨fun ms day rate runHold => rfl, rfl, fun code some room => ?_, fun code some full => ?_⟩
  · rw [exec_cueTransfer some, appendCue_of_room (s := closeUnit s) (number some) room]
    rfl
  · rw [exec_cueTransfer some, appendCue_of_full (s := closeUnit s) (number some) full]
    rfl

/-! ## The refusals of EXECUTE (R8, R9, R13, R16, R161) -/

/-- A number above the 29 kinds names no action (R5). -/
theorem decodeAction_unknown {r : ActionRec} (h : 28 < r.kind) : decodeAction r = none := by
  unfold decodeAction
  split
  case h_30 => rfl
  all_goals omega

/-- LIST START is refused DORMANT while the node rests (R13). -/
theorem runAction_listStart_resting {s : State} (h : s.node ≠ .active) (code : Nat) (p : PlayerId) :
    runAction code (.listStart p) s = (some .dormant, s) := by
  have rests : resting s = true := by
    unfold resting
    split
    · next active => exact absurd active h
    all_goals rfl
  rw [runAction, whenAwake, if_pos rests]

/-- EXECUTE of one action that is refused and changes nothing latches REFUSED at position 0 (R8, R161). -/
theorem exec_execute_refused {via : Opened} {k q r : Byte} {i : Nat} {act : Action} {reason : Reason} {s : State}
    (ho : s.owed = []) (hi : i < 256) (hd : decodeAction ⟨k.toNat, i, q.toNat, r.toNat⟩ = some act)
    (h : runAction 0 act (closeUnit s) = (some reason, closeUnit s)) :
    exec (.execute via [k, byte i, q, r]) s = .next (outcome via 6 .ok [1, byte reason.code]
      (latch .refused (.refused 0 0 reason) (closeUnit s))) :=
  exec_execute_one hi hd (runOne_refused (s := closeUnit s) ho h) ho

/-- EXECUTE of a wrong length (R161). -/
theorem exec_execute_badLength {records : List Byte} {s : State} (ho : s.owed = [])
    (h : ¬ (records.length % 4 = 0 ∧ 4 ≤ records.length ∧ records.length ≤ 32)) (via : Opened) :
    exec (.execute via records) s = .next (outcome via 6 .badLength [] (closeUnit s)) := by
  show Host.Outcome.next (finish (executeTransfer via records (closeUnit s))) = _
  rw [executeTransfer, if_neg h, finish_of_nothing_owed (by rw [conclude_owed]; exact ho)]
  rfl

/-- A second record that names no action, after a NONE (R5, R161). -/
theorem commitExecute_badRecord {k : Byte} (h : 28 < k.toNat) (p q r : Byte) (s : State) :
    commitExecute [0, 0, 0, 0, k, p, q, r] s = (.badRecord, [0, 1], s) := by
  have records : (pieces 4 2 [0, 0, 0, 0, k, p, q, r]).map (fun bs => decodeAction (actionRec bs)) = [some .none, none] := by
    have second : decodeAction (actionRec [k, p, q, r]) = none := decodeAction_unknown h
    show [decodeAction (actionRec [0, 0, 0, 0]), decodeAction (actionRec [k, p, q, r])] = _
    rw [second]
    rfl
  have two : ([0, 0, 0, 0, k, p, q, r] : List Byte).length / 4 = 2 := by simp
  rw [commitExecute, two, records]
  rfl

/-- Settles O37: the length, the records and then the one action, whose refusal changes nothing. -/
theorem executeRefusals : Obligations.ExecuteRefusals := by
  intro via s ho u
  refine ⟨fun records wrong => exec_execute_badLength ho wrong via, fun k p q r unknown => ?_, fun t q r unused => ?_,
    fun p q r rests => ?_⟩
  · have eight : ([0, 0, 0, 0, k, p, q, r] : List Byte).length = 8 := rfl
    show Host.Outcome.next (finish (executeTransfer via [0, 0, 0, 0, k, p, q, r] u)) = _
    rw [executeTransfer, if_pos (by rw [eight]; decide), commitExecute_badRecord unknown,
      finish_of_nothing_owed (by rw [conclude_owed]; exact ho)]
    rfl
  · exact exec_execute_refused (k := 10) ho (by omega) (decodeAction_trainRun t q.toNat r.toNat)
      (runAction_trainRun_unused (s := closeUnit s) unused 0)
  · exact exec_execute_refused (k := 7) (act := .listStart p) ho (by omega) (by simp [decodeAction])
      (runAction_listStart_resting (s := closeUnit s) rests 0 p)

end Sys2Proof.Machine
end

section
/-! WRITE TABLE: the refusals in their order, the owner's lock of trains and sections, and the record of a cue map (R4, R61, R84,
R154, R156). -/

namespace Sys2Proof.Machine

theorem exec_writeTable (via : Opened) (table : Byte) (first : BitVec 16) (count : Byte) (records : List Byte) (s : State) :
    exec (.writeTable via table first count records) s =
      .next (writeTransfer via table.toNat first.toNat count.toNat records (closeUnit s)) := rfl

/-! ## The refusals (R154, R156) -/

section
variable {via : Opened} {table first count : Nat} {records : List Byte} {s : State}

theorem writeTransfer_badLength (h : records.length ≠ count * recordSize table) :
    writeTransfer via table first count records s = outcome via 1 .badLength [] s := by
  rw [writeTransfer, if_neg h]
  rfl

/-- A write of the right length has the outcome of its commit. -/
theorem writeTransfer_commit (h : records.length = count * recordSize table) :
    writeTransfer via table first count records s = conclude via 1 (commitWrite table first count records s) := by
  rw [writeTransfer, if_pos h]

theorem commitWrite_badTable (h : 15 < table) : commitWrite table first count records s = plain .badTable s := if_pos h

theorem commitWrite_range (ht : table ≤ 15) (h : count = 0 ∨ recordCount table < first + count) :
    commitWrite table first count records s = plain .range s := by
  rw [commitWrite, if_neg (Nat.not_lt.2 ht), if_pos h]

/-- A commit that is not OK leaves the state. -/
theorem commitWrite_refused (h : (commitWrite table first count records s).1 ≠ .ok) :
    (commitWrite table first count records s).2.2 = s := by
  revert h
  unfold commitWrite
  split
  · exact fun _ => rfl
  · split
    · exact fun _ => rfl
    · split
      · exact fun _ => rfl
      · split
        · exact fun _ => rfl
        · exact fun committed => absurd rfl committed

end

/-- Settles O31: the length first, then the commit, which refuses in its own order and changes nothing where it refuses. -/
theorem writeTableRefusals : Obligations.WriteTableRefusals := by
  intro via table first count records s u c
  have run : exec c s = .next (writeTransfer via table.toNat first.toNat count.toNat records u) :=
    exec_writeTable via table first count records s
  refine ⟨fun wrong => ?_, fun length above => ?_, fun length inTables range => ?_, fun length => ⟨?_, commitWrite_refused⟩⟩
  · rw [run, writeTransfer_badLength wrong]
  · rw [run, writeTransfer_commit length, commitWrite_badTable above]
    rfl
  · have number : count.toNat = 0 ∨ recordCount table.toNat < first.toNat + count.toNat :=
      range.imp_left (congrArg BitVec.toNat)
    rw [run, writeTransfer_commit length, commitWrite_range inTables number]
    rfl
  · rw [run, writeTransfer_commit length]
    rfl

/-! ## The write of one record (R156) -/

/-- What the commit of an unlocked record gives. -/
def storedCommit (s : State) : Except Nat State → Commit
  | .error k => (.badRecord, bytes2 k, s)
  | .ok u => plain .ok u

section
variable {table i : Nat} {records : List Byte} {s : State}

/-- A locked record inside its table. -/
theorem commitWrite_locked (ht : table ≤ 15) (hi : i < recordCount table) (h : lockedAt s table i = true) :
    commitWrite table i 1 records s = (.locked, bytes2 i, s) := by
  have inTable : ¬ (1 = 0 ∨ recordCount table < i + 1) := by omega
  have locked : ((List.range 1).map (i + ·)).find? (lockedAt s table) = some i := List.find?_cons_of_pos h
  rw [commitWrite, if_neg (Nat.not_lt.2 ht), if_neg inTable, locked]

/-- An unlocked record of the right length. -/
theorem commitWrite_unlocked (hl : records.length = recordSize table) (ht : table ≤ 15) (hi : i < recordCount table)
    (h : lockedAt s table i = false) :
    commitWrite table i 1 records s = storedCommit s (storeRecords table i [records] s) := by
  have inTable : ¬ (1 = 0 ∨ recordCount table < i + 1) := by omega
  have unlocked : ((List.range 1).map (i + ·)).find? (lockedAt s table) = none :=
    List.find?_cons_of_neg (Bool.eq_false_iff.1 h)
  have whole : pieces (recordSize table) 1 records = [records] := by
    rw [pieces, pieces, List.take_of_length_le hl.le]
  rw [commitWrite, if_neg (Nat.not_lt.2 ht), if_neg inTable, unlocked, whole]
  cases storeRecords table i [records] s <;> rfl

end

/-- The WRITE TABLE of one record. -/
theorem exec_writeTable_one {via : Opened} {b : Byte} {table i : Nat} {records : List Byte} {s : State}
    (hb : b.toNat = table) (hi : i < 65536) (hl : records.length = recordSize table) :
    exec (.writeTable via b (BitVec.ofNat 16 i) 1 records) s =
      .next (conclude via 1 (commitWrite table i 1 records (closeUnit s))) := by
  have first : (BitVec.ofNat 16 i).toNat = i := by
    rw [BitVec.toNat_ofNat]
    exact Nat.mod_eq_of_lt hi
  have one : (1 : Byte).toNat = 1 := rfl
  rw [exec_writeTable, first, one, hb, writeTransfer_commit (by rw [hl, Nat.one_mul])]

/-- An index below 256 has high byte 0. -/
theorem bytes2_of_lt {n : Nat} (h : n < 256) : bytes2 n = [0, byte n] := by
  rw [bytes2, Nat.div_eq_of_lt h]
  rfl

/-! ## The owner's lock (R61, R84) -/

/-- A train that is not PARKED locks its own record. -/
theorem lockedAt_train {t : TrainId} {s : State} (h : s.trains[t].state ≠ .parked) : lockedAt s 9 t.val = true := by
  simp only [lockedAt, sourceOf, item_val, bne_iff_ne, ne_eq, h, not_false_eq_true]

/-- A train that is not PARKED locks every section record. -/
theorem lockedAt_section {t : TrainId} {s : State} (h : s.trains[t].state ≠ .parked) (i : Nat) : lockedAt s 8 i = true := by
  have locks : (every 4).all (fun t => s.trains[t].state == .parked) = false :=
    List.all_eq_false.2 ⟨t, List.mem_finRange t, by simpa using h⟩
  simp only [lockedAt, locks, Bool.not_false]

/-! ## The cue map (R4) -/

section
variable {hi lo n : Byte}

/-- A list that ends inside the pool, with its count clamped first (log entry 29). -/
theorem decCueMap_ok (h : hi.toNat * 256 + lo.toNat + min 4 n.toNat ≤ 512) :
    decCueMap [hi, lo, n] = some ⟨hi.toNat * 256 + lo.toNat, min 4 n.toNat⟩ := if_neg (Nat.not_lt.2 h)

theorem decCueMap_bad (h : 512 < hi.toNat * 256 + lo.toNat + min 4 n.toNat) : decCueMap [hi, lo, n] = none := if_pos h

end

section
variable {i : Fin 256} {bs : List Byte} {s : State}

theorem storeRecords_cueMap_ok {r : CueMapRec} (h : decCueMap bs = some r) : storeRecords 1 i.val [bs] s =
    .ok { s with tables := { s.tables with cueMap := s.tables.cueMap.set i r } } := by
  have e : storeRecords 1 i.val [bs] s = store s.tables.cueMap i.val [decCueMap bs] noBad
      (fun v => { s with tables := { s.tables with cueMap := v } }) := rfl
  rw [e, h, store_one rfl]

/-- A record that does not decode is bad at its own index. -/
theorem storeRecords_cueMap_bad (h : decCueMap bs = none) : storeRecords 1 i.val [bs] s = .error i.val := by
  have e : storeRecords 1 i.val [bs] s = store s.tables.cueMap i.val [decCueMap bs] noBad
      (fun v => { s with tables := { s.tables with cueMap := v } }) := rfl
  rw [e, h]
  rfl

end

/-- Settles O32: the lock is looked at before the record; the cue map has no owner and no check beyond the record's own. -/
theorem writeTableLocksAndStores : Obligations.WriteTableLocksAndStores := by
  intro via s u
  refine ⟨fun t records length moves => ?_, fun t n records length moves => ?_, fun i hi lo n => ?_⟩
  · rw [exec_writeTable_one (table := 9) rfl (by omega) length, commitWrite_locked (by decide) t.isLt
      (lockedAt_train (s := closeUnit s) moves), bytes2_of_lt (by omega)]
    rfl
  · rw [exec_writeTable_one (table := 8) rfl (by omega) length, commitWrite_locked (by decide) n.isLt
      (lockedAt_section (s := closeUnit s) moves _), bytes2_of_lt (by omega)]
    rfl
  · intro first
    refine ⟨fun fits => ?_, fun runsOver => ?_⟩
    · rw [exec_writeTable_one (table := 1) rfl (by omega) rfl, commitWrite_unlocked rfl (by decide) i.isLt rfl,
        storeRecords_cueMap_ok (decCueMap_ok fits)]
      rfl
    · rw [exec_writeTable_one (table := 1) rfl (by omega) rfl, commitWrite_unlocked rfl (by decide) i.isLt rfl,
        storeRecords_cueMap_bad (decCueMap_bad runsOver), storedCommit, bytes2_of_lt i.isLt]
      rfl

end Sys2Proof.Machine
end

section
/-! The records of the tables in stored form: what a decoder answers, its encoding answers again (R177, Table 11-4, Table 11-5). -/

namespace Sys2Proof.Machine

/-! ## Bytes of a record -/

theorem at_lt (bs : List Byte) (i : Nat) : at_ bs i < 256 := (bs.getD i 0).isLt

theorem at2_lt (bs : List Byte) (i : Nat) : at2 bs i < 65536 := Nat.lt_succ_of_le (HeldInRange.at2_le bs i)

@[simp] theorem at_cons_zero (b : Byte) (bs : List Byte) : at_ (b :: bs) 0 = b.toNat := rfl

@[simp] theorem at_cons_succ (b : Byte) (bs : List Byte) (i : Nat) : at_ (b :: bs) (i + 1) = at_ bs i := rfl

theorem byte_at (bs : List Byte) (i : Nat) : byte (at_ bs i) = bs.getD i 0 := byte_toNat _

/-- A byte taken from a record is read back as it stands. -/
@[simp] theorem toNat_byte_at (bs : List Byte) (i : Nat) : (byte (at_ bs i)).toNat = at_ bs i := toNat_byte (at_lt bs i)

/-- A number below 65536 is read back from its two bytes, high byte first (R177). -/
theorem toNat_bytes2 {n : Nat} (h : n < 65536) : (byte (n / 256)).toNat * 256 + (byte n).toNat = n := by
  simp only [byte, BitVec.toNat_ofNat]
  omega

/-- A number below 2^24 is read back from its three bytes. -/
theorem toNat_bytes3 {n : Nat} (h : n < 16777216) :
    (byte (n / 65536)).toNat * 65536 + ((byte (n / 256)).toNat * 256 + (byte n).toNat) = n := by
  simp only [byte, BitVec.toNat_ofNat]
  omega

@[simp] theorem yes_flagByte (b : Bool) : yes (flagByte b) = b := by cases b <;> rfl

/-- An item number that may be absent is read back (R177). -/
theorem optItem_optByte {n : Nat} (hn : n ≤ 255) (o : Option (Fin n)) : optItem n (optByte o) = some o := by
  cases o with
  | none => rfl
  | some i =>
    have number : (byte i.val).toNat = i.val := toNat_byte (by omega)
    have present : byte i.val ≠ 0xFF := fun e => by
      have := congrArg BitVec.toNat e
      rw [number] at this
      simp only [BitVec.reduceToNat] at this
      omega
    rw [optByte, optItem, if_neg present, number, item_val, Option.map_some]

/-! ## Named values (Table 11-5): a code that names a value is the value's code -/

theorem encPolicy_of_dec {n : Nat} {x : Policy} (h : decPolicy n = some x) : encPolicy x = n := by
  unfold decPolicy at h
  split at h <;> cases h <;> rfl

theorem encListMode_of_dec {n : Nat} {x : ListMode} (h : decListMode n = some x) : encListMode x = n := by
  unfold decListMode at h
  split at h <;> cases h <;> rfl

theorem encLampMode_of_dec {n : Nat} {x : LampMode} (h : decLampMode n = some x) : encLampMode x = n := by
  unfold decLampMode at h
  split at h <;> cases h <;> rfl

theorem encDir_of_dec {n : Nat} {x : Dir} (h : decDir n = some x) : encDir x = n := by
  unfold decDir at h
  split at h <;> cases h <;> rfl

theorem encKind_of_dec {n : Nat} {x : AxisKind} (h : decKind n = some x) : encKind x = n := by
  unfold decKind at h
  split at h <;> cases h <;> rfl

theorem encAxisPolicy_of_dec {n : Nat} {x : AxisPolicy} (h : decAxisPolicy n = some x) : encAxisPolicy x = n := by
  unfold decAxisPolicy at h
  split at h <;> cases h <;> rfl

theorem encDial_of_dec {n : Nat} {x : Dial} (h : decDial n = some x) : encDial x = n := by
  unfold decDial at h
  split at h <;> cases h <;> rfl

theorem encOutSource_of_dec {n : Nat} {x : OutSource} (h : decOutSource n = some x) : encOutSource x = n := by
  unfold decOutSource at h
  split at h <;> cases h <;> rfl

theorem encRole_of_dec {n : Nat} {x : InRole} (h : decRole n = some x) : encRole x = n := by
  unfold decRole at h
  split at h <;> cases h <;> rfl

theorem encDrive_of_dec {n : Nat} {x : Drive} (h : decDrive n = some x) : encDrive x = n := by
  unfold decDrive at h
  split at h
  · next chain =>
    cases h
    exact chain.symm
  · obtain ⟨p, e, rfl⟩ := Option.map_eq_some_iff.1 h
    unfold item at e
    split at e
    · cases e
      rfl
    · cases e

/-- A byte that only a ROTARY record reads is a named value, or in a LINEAR record an unread code (R103, R177). -/
theorem orUnread_eq_some {α : Type} {k : AxisKind} {unread : Nat → α} {n : Nat} {named : Option α} {x : α}
    (h : orUnread k unread n named = some x) : named = some x ∨ x = unread n := by
  unfold orUnread at h
  split at h
  · exact .inl h
  · exact .inr (Option.some.inj h).symm
  · cases h

/-- In a LINEAR record every byte is accepted. -/
theorem orUnread_linear {α : Type} (unread : Nat → α) (n : Nat) (named : Option α) :
    (orUnread .linear unread n named).isSome = true := by cases named <;> rfl

theorem encAxisPolicy_of_read {k : AxisKind} {n : Nat} {x : AxisPolicy}
    (h : orUnread k .unread n (decAxisPolicy n) = some x) : encAxisPolicy x = n := by
  obtain e | rfl := orUnread_eq_some h
  · exact encAxisPolicy_of_dec e
  · rfl

theorem encDial_of_read {k : AxisKind} {n : Nat} {x : Dial} (h : orUnread k .unread n (decDial n) = some x) :
    encDial x = n := by
  obtain e | rfl := orUnread_eq_some h
  · exact encDial_of_dec e
  · rfl

/-! ## Tables 0 to 5 -/

theorem decNode_encNode {bs : List Byte} {r : NodeSettings} (h : decNode bs = some r) : decNode (encNode r) = some r := by
  obtain ⟨p, hp, rfl⟩ := Option.map_eq_some_iff.1 h
  have timeout := at_lt bs 0
  have outRegs := at_lt bs 1
  have inRegs := at_lt bs 2
  simp (disch := omega) only [decNode, encNode, at_cons_zero, at_cons_succ, toNat_byte, toNat_byte_at, encPolicy_of_dec hp,
    hp, Option.map_some, Option.some.injEq, NodeSettings.mk.injEq, and_true]
  omega

theorem decCueMap_encCueMap {bs : List Byte} {r : CueMapRec} (h : decCueMap bs = some r) :
    decCueMap (encCueMap r) = some r := by
  unfold decCueMap at h
  dsimp only at h
  split at h
  · cases h
  · next fits =>
    obtain rfl := Option.some.inj h
    have first : at2 (encCueMap ⟨at2 bs 0, min 4 (at_ bs 2)⟩) 0 = at2 bs 0 := toNat_bytes2 (at2_lt bs 0)
    have count : at_ (encCueMap ⟨at2 bs 0, min 4 (at_ bs 2)⟩) 2 = min 4 (at_ bs 2) :=
      toNat_byte (show min 4 (at_ bs 2) < 256 by omega)
    rw [decCueMap, first, count, ← Nat.min_assoc, Nat.min_self, if_neg fits]

theorem actionRec_encPool (bs : List Byte) : actionRec (encPool (actionRec bs)) = actionRec bs := by
  simp only [encPool, actionRec, List.getD_cons_zero, List.getD_cons_succ, byte_toNat]

theorem decPool_encPool {bs : List Byte} {r : ActionRec} (h : decPool bs = some r) : decPool (encPool r) = some r := by
  unfold decPool at h
  split at h
  · next action =>
    obtain rfl := Option.some.inj h
    rw [decPool, actionRec_encPool, if_pos action]
  · cases h

theorem decListDir_encListDir {bs : List Byte} {r : ListDirRec} (h : decListDir bs = some r) :
    decListDir (encListDir r) = some r := by
  unfold decListDir at h
  split at h
  · cases h
  · next fits =>
    obtain ⟨m, hm, rfl⟩ := Option.map_eq_some_iff.1 h
    have start : at2 (encListDir ⟨at2 bs 0, m, at_ bs 3⟩) 0 = at2 bs 0 := toNat_bytes2 (at2_lt bs 0)
    have mode : at_ (encListDir ⟨at2 bs 0, m, at_ bs 3⟩) 2 = at_ bs 2 := by
      show (byte (encListMode m)).toNat = _
      rw [encListMode_of_dec hm, toNat_byte_at]
    have endCue : at_ (encListDir ⟨at2 bs 0, m, at_ bs 3⟩) 3 = at_ bs 3 := toNat_byte_at bs 3
    rw [decListDir, start, mode, endCue, if_neg fits, hm, Option.map_some]

/-- An entry of list memory is read back from its mark, its delay and its code. -/
theorem decListEntry_encListEntry_mk {delay code : Nat} (hd : delay < 65536) (hc : code < 256) (isEnd : Bool) :
    decListEntry (encListEntry ⟨isEnd, delay, code⟩) = some ⟨isEnd, delay, code⟩ := by
  have hdelay : at2 (encListEntry ⟨isEnd, delay, code⟩) 1 = delay := toNat_bytes2 hd
  have hcode : at_ (encListEntry ⟨isEnd, delay, code⟩) 3 = code := toNat_byte hc
  unfold decListEntry
  rw [hdelay, hcode]
  cases isEnd <;> rfl

theorem decListEntry_encListEntry {bs : List Byte} {r : ListEntry} (h : decListEntry bs = some r) :
    decListEntry (encListEntry r) = some r := by
  unfold decListEntry at h
  split at h
  · obtain rfl := Option.some.inj h
    exact decListEntry_encListEntry_mk (at2_lt ..) (at_lt ..) _
  · obtain rfl := Option.some.inj h
    exact decListEntry_encListEntry_mk (at2_lt ..) (at_lt ..) _
  · cases h

theorem decAlarm_encAlarm {bs : List Byte} {r : AlarmRec} (h : decAlarm bs = some r) : decAlarm (encAlarm r) = some r := by
  obtain rfl := Option.some.inj h
  generalize hs : min 86399 (at_ bs 1 * 65536 + at2 bs 2) = second
  have small : second ≤ 86399 := hs ▸ Nat.min_le_left ..
  have fits : second < 16777216 := Nat.lt_of_le_of_lt small (by decide)
  simp only [decAlarm, encAlarm, bytes2, List.cons_append, List.nil_append, yesAt, List.getD_cons_zero, List.getD_cons_succ,
    yes_flagByte, at2.eq_def (_ :: _), at_cons_succ, at_cons_zero, toNat_byte_at, toNat_bytes3 fits,
    Nat.min_eq_right small]

/-! ## Table 6: sixteen points of three bytes -/

/-- A byte of a list of pieces of one length stands in its piece. -/
theorem getD_flatMap_const {α β : Type} {n : Nat} {f : α → List β} (h : ∀ x, (f x).length = n) {xs : List α} {k j : Nat}
    (hk : k < xs.length) (hj : j < n) (d : β) : (xs.flatMap f).getD (n * k + j) d = (f xs[k]).getD j d := by
  induction xs generalizing k with
  | nil => exact absurd hk (Nat.not_lt_zero k)
  | cons x xs ih =>
    rw [List.flatMap_cons]
    cases k with
    | zero => rw [Nat.mul_zero, Nat.zero_add, List.getD_append _ _ _ _ (by rw [h]; exact hj), List.getElem_cons_zero]
    | succ k =>
      have skip : n * (k + 1) + j - (f x).length = n * k + j := by
        rw [h, Nat.mul_succ]
        omega
      rw [List.getD_append_right _ _ _ _ (by rw [h, Nat.mul_succ]; omega), skip, ih (Nat.lt_of_succ_lt_succ hk),
        List.getElem_cons_succ]

theorem tab_eq {α : Type} {n : Nat} {f : Fin n → α} {v : Vector α n} (h : ∀ k : Fin n, f k = v[k]) : tab f = v :=
  Vector.ext fun i hi => (tab_getElem f i hi).trans (h ⟨i, hi⟩)

/-- A byte of a point of a curve in stored form. -/
theorem at_encCurve {r : CurveRec} (k : Fin 16) {j : Nat} (hj : j < 3) :
    at_ (encCurve r) (3 * k.val + j + 1) = at_ (bytes2 r.points[k].minute ++ [byte r.points[k].level]) j := by
  have inList : k.val < r.points.toList.length := by simp
  have point : r.points.toList[k.val] = r.points[k] := by simp
  have piece := getD_flatMap_const (f := fun p : CurvePoint => bytes2 p.minute ++ [byte p.level]) (fun _ => rfl) inList hj 0
  rw [point] at piece
  exact congrArg BitVec.toNat piece

/-- The points of a curve are read back, and clamped no further. -/
theorem points_encCurve {r : CurveRec} (h : ∀ k : Fin 16, r.points[k].minute ≤ 1439 ∧ r.points[k].level < 256) :
    (tab fun k : Fin 16 => (⟨min 1439 (at2 (encCurve r) (1 + 3 * k.val)), at_ (encCurve r) (3 + 3 * k.val)⟩ : CurvePoint)) =
      r.points := by
  refine tab_eq fun k => ?_
  obtain ⟨minute, level⟩ := h k
  have hm : at2 (encCurve r) (1 + 3 * k.val) = r.points[k].minute := by
    have high := at_encCurve (r := r) k (j := 0) (by decide)
    have low := at_encCurve (r := r) k (j := 1) (by decide)
    rw [at2, show 1 + 3 * k.val = 3 * k.val + 0 + 1 by omega, show 3 * k.val + 0 + 1 + 1 = 3 * k.val + 1 + 1 by omega, high, low]
    exact toNat_bytes2 (by omega)
  have hl : at_ (encCurve r) (3 + 3 * k.val) = r.points[k].level := by
    rw [show 3 + 3 * k.val = 3 * k.val + 2 + 1 by omega, at_encCurve k (by decide)]
    exact toNat_byte level
  rw [hm, hl, Nat.min_eq_right minute]

theorem decCurve_encCurve {bs : List Byte} {r : CurveRec} (h : decCurve bs = some r) : decCurve (encCurve r) = some r := by
  unfold decCurve at h
  dsimp only at h
  split at h
  · next rises =>
    obtain rfl := Option.some.inj h
    generalize hp : (tab fun k : Fin 16 => (⟨min 1439 (at2 bs (1 + 3 * k.val)), at_ bs (3 + 3 * k.val)⟩ : CurvePoint)) = points
      at rises
    have bounds : ∀ k : Fin 16, points[k].minute ≤ 1439 ∧ points[k].level < 256 := fun k => by
      rw [← hp, tab_get]
      exact ⟨Nat.min_le_left .., at_lt ..⟩
    have count : min 16 (at_ (encCurve ⟨min 16 (at_ bs 0), points⟩) 0) = min 16 (at_ bs 0) := by
      have first : at_ (encCurve ⟨min 16 (at_ bs 0), points⟩) 0 = min 16 (at_ bs 0) :=
        toNat_byte (show min 16 (at_ bs 0) < 256 by omega)
      rw [first, ← Nat.min_assoc, Nat.min_self]
    have read := points_encCurve (r := ⟨min 16 (at_ bs 0), points⟩) bounds
    rw [decCurve]
    simp only [read, count, rises, if_true]
  · cases h

theorem length_encCurve (r : CurveRec) : (encCurve r).length = 49 := by
  rw [encCurve, List.length_cons, length_flatMap_const (n := 3) (fun _ => rfl), Vector.length_toList]

/-! ## Table 7 -/

theorem decLamp_eq_some_iff {bs : List Byte} {r : LampRec} : decLamp bs = some r ↔
    ∃ drive curve group mode line, decDrive (at_ bs 1) = some drive ∧ optItem 8 (bs.getD 2 0) = some curve ∧
      item 8 (at_ bs 3) = some group ∧ decLampMode (at_ bs 4) = some mode ∧ optItem 8 (bs.getD 8 0) = some line ∧
      r = ⟨yesAt bs 0, drive, curve, group, mode, min (at_ bs 5) (at_ bs 6), at_ bs 6, at_ bs 7, line, at_ bs 9,
        max 1 (at_ bs 10)⟩ := by
  unfold decLamp
  simp only [Option.bind_eq_bind, Option.bind_eq_some_iff, Option.pure_def, Option.some.injEq]
  constructor
  · rintro ⟨drive, hd, curve, hc, group, hg, mode, hm, line, hl, rfl⟩
    exact ⟨drive, curve, group, mode, line, hd, hc, hg, hm, hl, rfl⟩
  · rintro ⟨drive, curve, group, mode, line, hd, hc, hg, hm, hl, rfl⟩
    exact ⟨drive, hd, curve, hc, group, hg, mode, hm, line, hl, rfl⟩

theorem decLamp_encLamp {bs : List Byte} {r : LampRec} (h : decLamp bs = some r) : decLamp (encLamp r) = some r := by
  obtain ⟨drive, curve, group, mode, line, hd, hc, hg, hm, hl, rfl⟩ := decLamp_eq_some_iff.1 h
  have low := at_lt bs 5
  have high := at_lt bs 6
  have threshold := at_lt bs 10
  refine decLamp_eq_some_iff.2 ⟨drive, curve, group, mode, line, ?_, optItem_optByte (by decide) curve, ?_, ?_,
    optItem_optByte (by decide) line, ?_⟩
  · show decDrive (byte (encDrive drive)).toNat = _
    rw [encDrive_of_dec hd, toNat_byte_at, hd]
  · show item 8 (byte group.val).toNat = _
    rw [toNat_byte (by omega), item_val]
  · show decLampMode (byte (encLampMode mode)).toNat = _
    rw [encLampMode_of_dec hm, toNat_byte_at, hm]
  · simp (disch := omega) only [encLamp, yesAt, List.getD_cons_zero, yes_flagByte, at_cons_succ, at_cons_zero, toNat_byte,
      toNat_byte_at, LampRec.mk.injEq, true_and]
    omega

/-! ## Table 8 -/

theorem decSection_eq_some_iff {own : Nat} {bs : List Byte} {r : SectionRec} : decSection own bs = some r ↔
    ∃ exit entry guard_, optItem 8 (bs.getD 1 0) = some exit ∧ optItem 8 (bs.getD 4 0) = some entry ∧
      optItem 6 (bs.getD 7 0) = some guard_ ∧ branchesOk own exit (at_ bs 2) (at_ bs 3) = true ∧
      branchesOk own entry (at_ bs 5) (at_ bs 6) = true ∧
      r = ⟨yesAt bs 0, exit, at_ bs 2, at_ bs 3, entry, at_ bs 5, at_ bs 6, guard_, at2 bs 8, at_ bs 10, at_ bs 11,
        at_ bs 12⟩ := by
  unfold decSection
  simp only [Option.bind_eq_bind, Option.bind_eq_some_iff, Option.pure_def, Option.ite_none_right_eq_some, Bool.and_eq_true,
    Option.some.injEq]
  constructor
  · rintro ⟨exit, hx, entry, he, guard_, hg, ⟨bx, be⟩, rfl⟩
    exact ⟨exit, entry, guard_, hx, he, hg, bx, be, rfl⟩
  · rintro ⟨exit, entry, guard_, hx, he, hg, bx, be, rfl⟩
    exact ⟨exit, hx, entry, he, guard_, hg, ⟨bx, be⟩, rfl⟩

theorem decSection_encSection {own : Nat} {bs : List Byte} {r : SectionRec} (h : decSection own bs = some r) :
    decSection own (encSection r) = some r := by
  obtain ⟨exit, entry, guard_, hx, he, hg, bx, be, rfl⟩ := decSection_eq_some_iff.1 h
  refine decSection_eq_some_iff.2 ⟨exit, entry, guard_, optItem_optByte (by decide) exit, optItem_optByte (by decide) entry,
    optItem_optByte (by decide) guard_, ?_, ?_, ?_⟩
  · show branchesOk own exit (byte (at_ bs 2)).toNat (byte (at_ bs 3)).toNat = true
    rw [toNat_byte_at, toNat_byte_at, bx]
  · show branchesOk own entry (byte (at_ bs 5)).toNat (byte (at_ bs 6)).toNat = true
    rw [toNat_byte_at, toNat_byte_at, be]
  · simp (disch := exact at2_lt ..) only [encSection, bytes2, List.cons_append, List.nil_append, yesAt,
      List.getD_cons_zero, yes_flagByte,
      at2.eq_def (_ :: _), at_cons_succ, at_cons_zero, toNat_byte_at, toNat_bytes2]

/-- The bytes of a record but those that are written. -/
theorem getD_set_ne {bs : List Byte} {i j : Nat} (h : i ≠ j) (x d : Byte) : (bs.set i x).getD j d = bs.getD j d := by
  rw [List.getD_eq_getElem?_getD, List.getElem?_set_ne h, List.getD_eq_getElem?_getD]

theorem at_set_ne {bs : List Byte} {i j : Nat} (h : i ≠ j) (x : Byte) : at_ (bs.set i x) j = at_ bs j :=
  congrArg BitVec.toNat (getD_set_ne h x 0)

/-- The branches of an absent point are not checked (R59, R177). -/
theorem branchesOk_absent (own x y : Nat) : branchesOk own none x y = true := rfl

/-- FFh names no item. -/
theorem optItem_absent (n : Nat) : optItem n 0xFF = some none := rfl

/-! ## Tables 9 and 10 -/

theorem decTrain_eq_some_iff {bs : List Byte} {r : TrainRec} : decTrain bs = some r ↔
    ∃ dir, decDir (at_ bs 1) = some dir ∧
      (at_ bs 9 ≤ 32 ∧ ((tab fun k : Fin 32 => at_ bs (10 + k.val)).toList.take (at_ bs 9)).all
        (fun n => decide (n ≤ 15)) = true) ∧
      r = ⟨yesAt bs 0, dir, max 1 (at_ bs 2), max 1 (at_ bs 3), max 1 (at_ bs 4), max 1 (at_ bs 5), at_ bs 6,
        at2 bs 7, at_ bs 9, tab fun k => at_ bs (10 + k.val)⟩ := by
  unfold decTrain
  simp only [Option.bind_eq_bind, Option.bind_eq_some_iff, Option.pure_def, Option.ite_none_right_eq_some, Option.some.injEq]
  constructor
  · rintro ⟨dir, hd, ok, rfl⟩
    exact ⟨dir, hd, ok, rfl⟩
  · rintro ⟨dir, hd, ok, rfl⟩
    exact ⟨dir, hd, ok, rfl⟩

/-- A route entry of a train record in stored form. -/
theorem at_encTrain_route (r : TrainRec) (k : Fin 32) : at_ (encTrain r) (10 + k.val) = (byte r.route[k]).toNat := by
  have ten : (encTrain r).drop 10 = r.route.toList.map byte := rfl
  have entry : (encTrain r).getD (10 + k.val) 0 = ((encTrain r).drop 10).getD k.val 0 := by
    rw [List.getD_eq_getElem?_getD, List.getD_eq_getElem?_getD, List.getElem?_drop]
  have stored : (r.route.toList.map byte).getD k.val 0 = byte r.route[k] := by
    simp [List.getD_eq_getElem?_getD]
  rw [at_, entry, ten, stored]

theorem decTrain_encTrain {bs : List Byte} {r : TrainRec} (h : decTrain bs = some r) : decTrain (encTrain r) = some r := by
  obtain ⟨dir, hd, ok, rfl⟩ := decTrain_eq_some_iff.1 h
  generalize hr : (⟨yesAt bs 0, dir, max 1 (at_ bs 2), max 1 (at_ bs 3), max 1 (at_ bs 4), max 1 (at_ bs 5), at_ bs 6,
    at2 bs 7, at_ bs 9, tab fun k => at_ bs (10 + k.val)⟩ : TrainRec) = r
  have route : (tab fun k : Fin 32 => at_ (encTrain r) (10 + k.val)) = tab fun k => at_ bs (10 + k.val) := by
    refine congrArg tab (funext fun k => ?_)
    rw [at_encTrain_route, ← hr, tab_get, toNat_byte_at]
  have length : at_ (encTrain r) 9 = at_ bs 9 := by
    rw [← hr]
    exact toNat_byte_at bs 9
  refine decTrain_eq_some_iff.2 ⟨dir, ?_, by rwa [route, length], ?_⟩
  · rw [← hr]
    show decDir (byte (encDir dir)).toNat = _
    rw [encDir_of_dec hd, toNat_byte_at, hd]
  · have cruise := at_lt bs 2
    have accel := at_lt bs 3
    have brake := at_lt bs 4
    have emergency := at_lt bs 5
    rw [route, length, ← hr]
    simp (disch := first | omega | exact at2_lt ..) only [encTrain, bytes2, List.cons_append, List.nil_append,
      yesAt, List.getD_cons_zero, yes_flagByte,
      at2.eq_def (_ :: _), at_cons_succ, at_cons_zero, toNat_byte, toNat_byte_at, toNat_bytes2, TrainRec.mk.injEq,
      true_and, and_true]
    omega

theorem length_encTrain (r : TrainRec) : (encTrain r).length = 42 := by simp [encTrain]

theorem decPoint_encPoint {bs : List Byte} {r : PointRec} (h : decPoint bs = some r) : decPoint (encPoint r) = some r := by
  obtain rfl := Option.some.inj h
  have pulse := at_lt bs 1
  have throw := at_lt bs 2
  simp (disch := omega) only [clamp, decPoint, encPoint, yesAt, List.getD_cons_zero, yes_flagByte, at_cons_succ,
      at_cons_zero, toNat_byte,
    Option.some.injEq, PointRec.mk.injEq, true_and]
  omega

/-! ## Table 11 -/

theorem decAxis_eq_some_iff {bs : List Byte} {r : AxisRec} : decAxis bs = some r ↔
    ∃ kind dir policy dial, decKind (at_ bs 1) = some kind ∧ decDir (at_ bs 10) = some dir ∧
      orUnread kind .unread (at_ bs 16) (decAxisPolicy (at_ bs 16)) = some policy ∧
      orUnread kind .unread (at_ bs 17) (decDial (at_ bs 17)) = some dial ∧ ¬ (kind = .linear ∧ dir = .forward) ∧
      r = ⟨yesAt bs 0, kind, clampSteps kind (at2 bs 2), min (clamp 1 4000 (at2 bs 6)) (clamp 1 4000 (at2 bs 4)),
        clamp 1 4000 (at2 bs 6), clamp 1 4000 (at2 bs 8), dir, max 1 (at2 bs 11), at_ bs 13, at2 bs 14, policy, dial,
        at2 bs 18⟩ := by
  unfold decAxis
  simp only [Option.bind_eq_bind, Option.bind_eq_some_iff, Option.pure_def, Option.ite_none_left_eq_some, Option.some.injEq]
  constructor
  · rintro ⟨kind, hk, dir, hd, policy, hp, dial, hl, ends, rfl⟩
    exact ⟨kind, dir, policy, dial, hk, hd, hp, hl, ends, rfl⟩
  · rintro ⟨kind, dir, policy, dial, hk, hd, hp, hl, ends, rfl⟩
    exact ⟨kind, hk, dir, hd, policy, hp, dial, hl, ends, rfl⟩

/-- Steps once clamped are clamped no further, and fit two bytes. -/
theorem clampSteps_clampSteps (k : AxisKind) (n : Nat) : clampSteps k (clampSteps k n) = clampSteps k n := by
  cases k
  · exact (Nat.max_assoc ..).symm.trans (by rw [Nat.max_self]; rfl)
  · rfl

theorem clampSteps_lt {n : Nat} (h : n < 65536) (k : AxisKind) : clampSteps k n < 65536 := by
  cases k
  · exact Nat.max_lt.2 ⟨by decide, h⟩
  · exact h

theorem decAxis_encAxis {bs : List Byte} {r : AxisRec} (h : decAxis bs = some r) : decAxis (encAxis r) = some r := by
  obtain ⟨kind, dir, policy, dial, hk, hd, hp, hl, ends, rfl⟩ := decAxis_eq_some_iff.1 h
  refine decAxis_eq_some_iff.2 ⟨kind, dir, policy, dial, ?_, ?_, ?_, ?_, ends, ?_⟩
  · show decKind (byte (encKind kind)).toNat = _
    rw [encKind_of_dec hk, toNat_byte_at, hk]
  · show decDir (byte (encDir dir)).toNat = _
    rw [encDir_of_dec hd, toNat_byte_at, hd]
  · show orUnread kind .unread (byte (encAxisPolicy policy)).toNat (decAxisPolicy (byte (encAxisPolicy policy)).toNat) = _
    rw [encAxisPolicy_of_read hp, toNat_byte_at, hp]
  · show orUnread kind .unread (byte (encDial dial)).toNat (decDial (byte (encDial dial)).toNat) = _
    rw [encDial_of_read hl, toNat_byte_at, hl]
  · have steps := clampSteps_lt (at2_lt bs 2) kind
    have limit := at2_lt bs 11
    have park := at2_lt bs 14
    have offset := at2_lt bs 18
    simp (disch := first | exact steps | omega) only [encAxis, clamp, bytes2, List.cons_append, List.nil_append,
      yesAt, List.getD_cons_zero, yes_flagByte,
      at2.eq_def (_ :: _), at_cons_succ, at_cons_zero, toNat_byte_at, toNat_bytes2, clampSteps_clampSteps,
      AxisRec.mk.injEq, true_and, and_true]
    omega

/-! ## Tables 12 to 15 -/

theorem decOut_eq_some_iff {bs : List Byte} {r : OutEntry} : decOut bs = some r ↔
    ∃ src, decOutSource (at_ bs 0) = some src ∧
      ((sourceRange src).all (fun n => decide (at_ bs 1 < n)) && variantOk src (at_ bs 2)) = true ∧
      r = ⟨src, at_ bs 1, at_ bs 2, yesAt bs 3⟩ := by
  unfold decOut
  simp only [Option.bind_eq_bind, Option.bind_eq_some_iff, Option.pure_def, Option.ite_none_right_eq_some, Option.some.injEq,
    eq_comm (a := r)]

theorem decOut_encOut {bs : List Byte} {r : OutEntry} (h : decOut bs = some r) : decOut (encOut r) = some r := by
  obtain ⟨src, hs, ok, rfl⟩ := decOut_eq_some_iff.1 h
  refine decOut_eq_some_iff.2 ⟨src, ?_, ?_, ?_⟩
  · show decOutSource (byte (encOutSource src)).toNat = _
    rw [encOutSource_of_dec hs, toNat_byte_at, hs]
  · simpa only [encOut, at_cons_succ, at_cons_zero, toNat_byte_at] using ok
  · simp only [encOut, yesAt, List.getD_cons_succ, List.getD_cons_zero, yes_flagByte, at_cons_succ, at_cons_zero, toNat_byte_at]

theorem decIn_eq_some_iff {bs : List Byte} {r : InEntry} : decIn bs = some r ↔
    ∃ role, decRole (at_ bs 0) = some role ∧ (roleRange role).all (fun n => decide (at_ bs 1 < n)) = true ∧
      r = ⟨role, at_ bs 1, min 15 (at_ bs 2), yesAt bs 3⟩ := by
  unfold decIn
  simp only [Option.bind_eq_bind, Option.bind_eq_some_iff, Option.pure_def, Option.ite_none_right_eq_some, Option.some.injEq,
    eq_comm (a := r)]

theorem decIn_encIn {bs : List Byte} {r : InEntry} (h : decIn bs = some r) : decIn (encIn r) = some r := by
  obtain ⟨role, hs, ok, rfl⟩ := decIn_eq_some_iff.1 h
  refine decIn_eq_some_iff.2 ⟨role, ?_, ?_, ?_⟩
  · show decRole (byte (encRole role)).toNat = _
    rw [encRole_of_dec hs, toNat_byte_at, hs]
  · simpa only [encIn, at_cons_succ, at_cons_zero, toNat_byte_at] using ok
  · simp (disch := omega) only [encIn, yesAt, List.getD_cons_succ, List.getD_cons_zero, yes_flagByte, at_cons_succ, at_cons_zero,
      toNat_byte_at, toNat_byte, InEntry.mk.injEq, true_and, and_true]
    omega

theorem bitBytes_succ (count n : Nat) : bitBytes (count + 1) n = byte n :: bitBytes count (n / 256) := by
  rw [bitBytes, List.range_succ_eq_map, List.map_cons, List.map_map, Nat.pow_zero, Nat.div_one]
  refine congrArg (byte n :: ·) (List.map_congr_left fun j _ => ?_)
  show byte (n / 256 ^ (j + 1)) = byte (n / 256 / 256 ^ j)
  rw [Nat.pow_succ', Nat.div_div_eq_div_mul]

/-- The bits that bytes hold are read back (Table 11-4). -/
theorem bitNum_bitBytes (count n : Nat) : bitNum (bitBytes count n) = n % 256 ^ count := by
  induction count generalizing n with
  | zero => rw [Nat.pow_zero, Nat.mod_one]; rfl
  | succ count ih =>
    have low : (byte n).toNat = n % 256 := BitVec.toNat_ofNat ..
    rw [bitBytes_succ, bitNum, ih, low, Nat.pow_succ', Nat.mod_mul]

/-- A bit run that fits its bytes. -/
theorem ofNat_bitNum_bitBytes {w count : Nat} (h : 256 ^ count = 2 ^ w) (x : BitVec w) :
    BitVec.ofNat w (bitNum (bitBytes count x.toNat)) = x := by
  rw [bitNum_bitBytes, h, Nat.mod_eq_of_lt x.isLt, BitVec.ofNat_toNat, BitVec.setWidth_eq]

theorem decWatch_encWatch {bs : List Byte} {r : WatchRec} (h : decWatch bs = some r) : decWatch (encWatch r) = some r := by
  obtain rfl := Option.some.inj h
  generalize BitVec.ofNat 64 (bitNum ((bs.drop 1).take 8)) = mask
  generalize BitVec.ofNat 64 (bitNum ((bs.drop 9).take 8)) = pattern
  have read : decWatch (encWatch ⟨yesAt bs 0, mask, pattern, at_ bs 17, at_ bs 18, yesAt bs 19⟩) =
      some ⟨yes (flagByte (yesAt bs 0)), BitVec.ofNat 64 (bitNum (bitBytes 8 mask.toNat)),
        BitVec.ofNat 64 (bitNum (bitBytes 8 pattern.toNat)), (byte (at_ bs 17)).toNat, (byte (at_ bs 18)).toNat,
        yes (flagByte (yesAt bs 19))⟩ := rfl
  rw [read, yes_flagByte, yes_flagByte, toNat_byte_at, toNat_byte_at, ofNat_bitNum_bitBytes rfl, ofNat_bitNum_bitBytes rfl]

theorem decWakeSet_encWakeSet (w : BitVec 256) : decWakeSet (encWakeSet w) = w := by
  rw [decWakeSet, encWakeSet, List.take_of_length_le (length_bitBytes ..).le, ofNat_bitNum_bitBytes (by decide)]

/-! ## The bytes that a record does not read (R177, log entry 24) -/

/-- The exit branches of a section without an exit point. -/
theorem exitBranches_unread {own : Nat} {bs : List Byte} {r : SectionRec} (h : decSection own bs = some r)
    (absent : bs.getD 1 0 = 0xFF) : (encSection r).getD 2 0 = bs.getD 2 0 ∧ (encSection r).getD 3 0 = bs.getD 3 0 ∧
      ∀ x y : Byte, (decSection own ((bs.set 2 x).set 3 y)).isSome = true := by
  obtain ⟨exit, entry, guard_, hx, he, hg, bx, be, rfl⟩ := decSection_eq_some_iff.1 h
  refine ⟨byte_at bs 2, byte_at bs 3, fun x y => Option.isSome_iff_exists.2 ⟨_, decSection_eq_some_iff.2
    ⟨none, entry, guard_, ?_, ?_, ?_, rfl, ?_, rfl⟩⟩⟩
  · rw [getD_set_ne (by decide), getD_set_ne (by decide), absent, optItem_absent]
  · rw [getD_set_ne (by decide), getD_set_ne (by decide), he]
  · rw [getD_set_ne (by decide), getD_set_ne (by decide), hg]
  · simpa only [at_set_ne (show 3 ≠ 5 by decide), at_set_ne (show 2 ≠ 5 by decide), at_set_ne (show 3 ≠ 6 by decide),
      at_set_ne (show 2 ≠ 6 by decide)] using be

/-- The entry branches of a section without an entry point. -/
theorem entryBranches_unread {own : Nat} {bs : List Byte} {r : SectionRec} (h : decSection own bs = some r)
    (absent : bs.getD 4 0 = 0xFF) : (encSection r).getD 5 0 = bs.getD 5 0 ∧ (encSection r).getD 6 0 = bs.getD 6 0 ∧
      ∀ x y : Byte, (decSection own ((bs.set 5 x).set 6 y)).isSome = true := by
  obtain ⟨exit, entry, guard_, hx, he, hg, bx, be, rfl⟩ := decSection_eq_some_iff.1 h
  refine ⟨byte_at bs 5, byte_at bs 6, fun x y => Option.isSome_iff_exists.2 ⟨_, decSection_eq_some_iff.2
    ⟨exit, none, guard_, ?_, ?_, ?_, ?_, rfl, rfl⟩⟩⟩
  · rw [getD_set_ne (by decide), getD_set_ne (by decide), hx]
  · rw [getD_set_ne (by decide), getD_set_ne (by decide), absent, optItem_absent]
  · rw [getD_set_ne (by decide), getD_set_ne (by decide), hg]
  · simpa only [at_set_ne (show 6 ≠ 2 by decide), at_set_ne (show 5 ≠ 2 by decide), at_set_ne (show 6 ≠ 3 by decide),
      at_set_ne (show 5 ≠ 3 by decide)] using bx

/-- The policy and dial bytes of a LINEAR axis. -/
theorem policyAndDial_unread {bs : List Byte} {r : AxisRec} (h : decAxis bs = some r) (linear : r.kind = .linear) :
    (encAxis r).getD 16 0 = bs.getD 16 0 ∧ (encAxis r).getD 17 0 = bs.getD 17 0 ∧
      ∀ x y : Byte, (decAxis ((bs.set 16 x).set 17 y)).isSome = true := by
  obtain ⟨kind, dir, policy, dial, hk, hd, hp, hl, ends, rfl⟩ := decAxis_eq_some_iff.1 h
  obtain rfl : kind = .linear := linear
  refine ⟨?_, ?_, fun x y => ?_⟩
  · show byte (encAxisPolicy policy) = _
    rw [encAxisPolicy_of_read hp, byte_at]
  · show byte (encDial dial) = _
    rw [encDial_of_read hl, byte_at]
  · obtain ⟨policy', hp'⟩ := Option.isSome_iff_exists.1 (orUnread_linear AxisPolicy.unread
      (at_ ((bs.set 16 x).set 17 y) 16) (decAxisPolicy (at_ ((bs.set 16 x).set 17 y) 16)))
    obtain ⟨dial', hl'⟩ := Option.isSome_iff_exists.1 (orUnread_linear Dial.unread
      (at_ ((bs.set 16 x).set 17 y) 17) (decDial (at_ ((bs.set 16 x).set 17 y) 17)))
    refine Option.isSome_iff_exists.2 ⟨_, decAxis_eq_some_iff.2 ⟨.linear, dir, policy', dial', ?_, ?_, hp', hl', ends, rfl⟩⟩
    · rw [at_set_ne (by decide), at_set_ne (by decide), hk]
    · rw [at_set_ne (by decide), at_set_ne (by decide), hd]

/-- Settles O33: each table's record is read back from its own bytes, and the bytes that are not read stand as written. -/
theorem storedRecordsReadBack : Obligations.StoredRecordsReadBack :=
  ⟨fun _ _ h => ⟨decNode_encNode h, rfl⟩, fun _ _ h => ⟨decCueMap_encCueMap h, rfl⟩,
    fun _ _ h => ⟨decPool_encPool h, rfl⟩,
    fun _ _ h => ⟨decListDir_encListDir h, rfl⟩, fun _ _ h => ⟨decListEntry_encListEntry h, rfl⟩,
    fun _ _ h => ⟨decAlarm_encAlarm h, rfl⟩, fun _ r h => ⟨decCurve_encCurve h, length_encCurve r⟩,
    fun _ _ h => ⟨decLamp_encLamp h, rfl⟩, fun _ _ _ h => ⟨decSection_encSection h, rfl⟩,
    fun _ r h => ⟨decTrain_encTrain h, length_encTrain r⟩, fun _ _ h => ⟨decPoint_encPoint h, rfl⟩,
    fun _ _ h => ⟨decAxis_encAxis h, rfl⟩, fun _ _ h => ⟨decOut_encOut h, rfl⟩, fun _ _ h => ⟨decIn_encIn h, rfl⟩,
    fun _ _ h => ⟨decWatch_encWatch h, rfl⟩, fun w => ⟨decWakeSet_encWakeSet w, length_bitBytes ..⟩,
    fun _ _ _ h => ⟨exitBranches_unread h, entryBranches_unread h⟩, fun _ _ h linear => policyAndDial_unread h linear⟩

end Sys2Proof.Machine
end

section
/-! OPEN, BYTE and CLOSE symbols at the staging buffer (R152, R153). -/

namespace Sys2Proof.Machine

/-! ## The frame that carries the symbol (R142, R143) -/

/-- A frame without an ENUM is forwarded as it arrived (R143). -/
theorem validForward_of_no_enum {y : Byte} (h : y ≠ 5) (f c l v : Byte) :
    validForward (withCheck [f, c, l, y, v]) = withCheck [f, c, l, y, v] := by
  have other : (y == 5) = false := beq_eq_false_iff_ne.2 h
  have noEnum : isEnum (withCheck [f, c, l, y, v]) = false := by
    simp only [isEnum, withCheck, List.cons_append, List.getD_cons_succ, List.getD_cons_zero, other, Bool.false_and]
  rw [validForward, noEnum, if_neg Bool.false_ne_true]

/-- The link after a frame's lines are taken and the frame is forwarded. -/
def passedOn (l : Byte) (bs : List Byte) (k : Link) : Link := { k with lines := l, downOut := some bs }

/-- A frame whose one part is a symbol that leaves the link and owes nothing. -/
theorem exec_symbol {f l y v : Byte} {s t : State} (h0 : f.getLsbD 0 = false) (h1 : f.getLsbD 1 = false)
    (h2 : f.getLsbD 2 = false) (ha : symbolActs y v = true) (hy : y ≠ 5) (hl : s.link.state ≠ .lost) (ho : s.owed = [])
    (taken : takeSymbol y v (withLines l s) = t) (link : t.link = (withLines l s).link) (owed : t.owed = []) :
    exec (.downstreamFrame (withCheck [f, 0, l, y, v])) s =
      .next (setLink (passedOn l (withCheck [f, 0, l, y, v]) s.link) t) := by
  refine exec_downstreamFrame ?_ owed
  rw [arrive6_symbol h0 h1 h2 ha hl ho, validForward_of_no_enum hy, taken, forward_eq, link, sentDown_of_not_lost (by exact hl)]
  rfl

/-! ## The symbols (R152, R153) -/

theorem discardOpen_link (r : Result) (s : State) : (discardOpen r s).link = s.link := by
  obtain ⟨-, -, h⟩ := Fixed.discardOpen (r := r) (fixed_refl s)
  exact h

/-- The unit after an OPEN: open to broadcast or to the own address with the buffer empty, or as the discard left it. -/
def openedTo (address own : Nat) (x : Transfer) : Transfer :=
  if address = 63 then { x with opened := some .broadcast, buf := [] }
  else if 1 ≤ address ∧ address = own then { x with opened := some .own, buf := [] }
  else x

/-- An OPEN discards the transfer in hand and then acts on a closed unit. -/
theorem takeOpen_eq {address : Nat} (h : address < 64) (s : State) : takeOpen address s =
    setXfer (openedTo address s.link.address (discardOpen .interrupted s).xfer) (discardOpen .interrupted s) := by
  rw [takeOpen, discardOpen_link, openedTo]
  by_cases broadcast : address = 63
  · rw [if_pos broadcast, if_pos broadcast]
  · have own : (1 ≤ address ∧ address ≤ 62 ∧ address = s.link.address) ↔
        (1 ≤ address ∧ address = s.link.address) := by omega
    simp only [if_neg broadcast, own]
    split <;> rfl

section
variable {s : State} {via : Opened}

theorem takeByte_of_room (opened : s.xfer.opened = some via) (room : s.xfer.buf.length < 256) (v : Byte) :
    takeByte v s = setXfer { s.xfer with buf := s.xfer.buf ++ [v] } s := by
  rw [takeByte, opened]
  exact if_pos room

/-- A 257th byte discards the transfer. -/
theorem takeByte_of_full (opened : s.xfer.opened = some via) (full : 256 ≤ s.xfer.buf.length) (v : Byte) :
    takeByte v s = outcome via (s.xfer.buf.head?.getD 0) .tooLong [] (closeUnit s) := by
  rw [takeByte, opened, ← discardOpen_of_open opened]
  exact if_neg (Nat.not_lt.2 full)

theorem takeByte_of_closed (closed : s.xfer.opened = none) (v : Byte) : takeByte v s = s := by rw [takeByte, closed]

theorem takeClose_of_closed (closed : s.xfer.opened = none) : takeClose s = s := by rw [takeClose, closed]

end

/-- Settles O18: each symbol is the one part of its frame, and an outcome and the forwarding do not meet. -/
theorem transferSymbolsAreStaged : Obligations.TransferSymbolsAreStaged := by
  intro f l v s h0 h1 h2 hl ho frame u
  have opens : v.toNat < 64 → symbolActs 1 v = true := fun h => decide_eq_true h
  have passed : ∀ (w : State) (y : Byte) (via : Opened) (r : Result), w = outcome via (s.xfer.buf.head?.getD 0) r []
      { u y with xfer := { s.xfer with opened := none, buf := [] } } → w = setLink (passedOn l (frame y) s.link)
        (outcome via (s.xfer.buf.head?.getD 0) r [] (closeUnit (withLines l s))) := fun w y via r e =>
    e.trans (outcome_setLink via _ r [] (passedOn l (frame y) s.link) (closeUnit (withLines l s)))
  refine ⟨fun closed small => ?_, fun via opened small => ?_, fun via opened room => ?_, fun via opened full => ?_,
    fun y closed ignored => ?_⟩
  · have taken := takeOpen_eq small (withLines l s)
    rw [discardOpen_of_closed (s := withLines l s) closed] at taken
    exact exec_symbol (y := 1) (v := v) h0 h1 h2 (opens small) (by decide) hl ho taken rfl ho
  · intro w
    have taken := takeOpen_eq small (withLines l s)
    rw [discardOpen_of_open (s := withLines l s) opened] at taken
    rw [passed w 1 via .interrupted rfl]
    exact exec_symbol (y := 1) (v := v) h0 h1 h2 (opens small) (by decide) hl ho taken (outcome_link ..)
      ((outcome_owed ..).trans ho)
  · exact exec_symbol (y := 2) (v := v) h0 h1 h2 rfl (by decide) hl ho
      (takeByte_of_room (s := withLines l s) opened room v) rfl ho
  · rw [passed _ 2 via .tooLong rfl]
    exact exec_symbol (y := 2) (v := v) h0 h1 h2 rfl (by decide) hl ho
      (takeByte_of_full (s := withLines l s) opened full v) (outcome_link ..) ((outcome_owed ..).trans ho)
  · obtain rfl | rfl := ignored
    · exact exec_symbol (y := 2) (v := v) (t := withLines l s) h0 h1 h2 rfl (by decide) hl ho
        (takeByte_of_closed (s := withLines l s) closed v) rfl ho
    · exact exec_symbol (y := 3) (v := v) (t := withLines l s) h0 h1 h2 rfl (by decide) hl ho
        (takeClose_of_closed (s := withLines l s) closed) rfl ho

end Sys2Proof.Machine
end

section
/-! No command touches the queue of waiting commands, and the tables are changed by a WRITE TABLE and a hard reset alone (R156,
R174, R175). -/

namespace Sys2Proof.Machine

/-- `s` has the waiting commands of `z`, and its tables too where the command `spares` them. -/
def Kept (spares : Prop) (z s : State) : Prop := s.pending = z.pending ∧ (spares → s.tables = z.tables)

theorem kept_refl (spares : Prop) (s : State) : Kept spares s s := ⟨rfl, fun _ => rfl⟩

/-- What leaves commands, tables and link keeps these. -/
theorem Fixed.kept {spares : Prop} {z y s : State} (f : Fixed y s) (h : Kept spares z y) : Kept spares z s :=
  ⟨f.1.trans h.1, fun p => f.2.1.trans (h.2 p)⟩

namespace Kept

variable {spares : Prop} {z s : State}

/-! ## The parts of a frame and of a scene step -/

/-- Only a CLOSE may commit a write (R154). -/
theorem takeSymbol {type value : Byte} (ht : spares → type ≠ 3) (h : Kept spares z s) :
    Kept spares z (takeSymbol type value s) := by
  refine ⟨(Timed.takeSymbol (timed_refl s)).1.trans h.1, fun p => Eq.trans ?_ (h.2 p)⟩
  have hf := fixed_refl s
  unfold Machine.takeSymbol
  split
  · unfold takeOpen
    dsimp only
    repeat' split
    all_goals exact (hf.discardOpen (r := .interrupted)).2.1
  · unfold takeByte
    split
    · rfl
    · split
      · rfl
      · exact hf.discardOpen.2.1
  · next close => exact absurd (BitVec.eq_of_toNat_eq close) (ht p)
  · unfold takeGrant giveAnswer
    split
    · split
      · rfl
      · split <;> rfl
    · rfl
  · rfl
  · rfl

theorem reportSent {a : AnswerKind} (h : Kept spares z s) : Kept spares z (reportSent a s) := by cases a <;> exact h

theorem reportAbandoned {a : AnswerKind} (h : Kept spares z s) : Kept spares z (reportAbandoned a s) := by
  cases a <;> exact h

theorem answerDone (h : Kept spares z s) : Kept spares z (answerDone s) := by
  unfold Machine.answerDone
  split
  · exact reportSent (s := setLink { s.link with talk := none } s) h
  · exact h
  · exact h

theorem abandonAnswer (h : Kept spares z s) : Kept spares z (abandonAnswer s) := by
  unfold Machine.abandonAnswer
  split
  · exact reportAbandoned (s := setLink { s.link with talk := none, retOwn := true } s) h
  · exact h.answerDone
  · exact h

/-- Whether a part is a CLOSE. -/
def closes : Part → Bool
  | .symbol type _ => type == 3
  | .clock | .lists | .flags | .lamps | .points | .trains | .axes | .chain | .node | .period | .cue _ | .lock | .req _
  | .drop _ | .abandon => false

theorem runPart {p : Part} (hp : spares → closes p = false) (h : Kept spares z s) : Kept spares z (runPart p s) := by
  cases p
  case symbol => exact h.takeSymbol fun sp => beq_eq_false_iff_ne.1 (hp sp)
  case lock => exact h
  case abandon => exact h.abandonAnswer
  all_goals exact ((fixed_refl s).runPart rfl).kept h

theorem partEvent {p : Part} (hp : spares → closes p = false) (h : Kept spares z s) : Kept spares z (partEvent p s) := by
  have ran := runPart hp ((fixed_refl s).settle.kept h)
  unfold Machine.partEvent
  dsimp only
  split
  · exact ran
  · exact (fixed_refl _).afterEvent.kept ran

theorem anyOrder {ps : List Part} (hp : spares → ∀ p ∈ ps, closes p = false) (h : Kept spares z s) :
    Kept spares z (anyOrder ps s) :=
  foldl_keeps _ _ (fun _ _ hx hu => partEvent (fun sp => hp sp _ (mem_arrange.1 hx)) hu) _ ((fixed_refl s).arrange.kept h)

/-- No part of a scene step itself is a CLOSE. -/
theorem sceneStep {ps : List Part} (hp : spares → ∀ p ∈ ps, closes p = false) (h : Kept spares z s) :
    Kept spares z (sceneStep ps s) := by
  refine anyOrder (s := stepMade s) (fun sp p hm => ?_) h
  obtain step | extra := List.mem_append.1 hm
  · have parts : ∀ q ∈ sceneParts s, closes q = false := by
      unfold sceneParts stepParts
      split <;> simp [closes]
    exact parts p step
  · exact hp sp p extra

/-! ## Frames and frame periods -/

theorem forward {bs : List Byte} (h : Kept spares z s) : Kept spares z (forward bs s) := by
  rw [forward_eq]
  exact h

theorem markOwn (h : Kept spares z s) : Kept spares z (markOwn s) := by
  unfold Machine.markOwn
  split <;> exact h

/-- The parts that a frame brings are its cue and its symbol, and the lock. -/
theorem closes_content {bs : List Byte} (hb : bs.getD 3 0 ≠ 3) (l m : Link) :
    ∀ p ∈ contentParts l.state bs ++ lockPart m, closes p = false := by
  intro p hp
  obtain content | lock := List.mem_append.1 hp
  · unfold contentParts at content
    split at content
    case h_3 => cases content
    all_goals
      obtain cue | symbol := List.mem_append.1 content
      · split at cue
        · cases cue
        · rw [List.mem_singleton.1 cue]
          rfl
      · split at symbol
        · rw [List.mem_singleton.1 symbol]
          exact beq_eq_false_iff_ne.2 hb
        · cases symbol
  · unfold lockPart at lock
    split at lock
    · rw [List.mem_singleton.1 lock]
      rfl
    · cases lock

theorem frameParts {bs : List Byte} (hb : spares → bs.getD 3 0 ≠ 3) (h : Kept spares z s) :
    Kept spares z (frameParts bs s) := by
  have parts : ∀ m, spares → ∀ p ∈ contentParts s.link.state bs ++ lockPart m, closes p = false :=
    fun m sp => closes_content (hb sp) s.link m
  have content : spares → ∀ p ∈ contentParts s.link.state bs, closes p = false :=
    fun sp p hp => parts s.link sp p (List.mem_append_left _ hp)
  unfold Machine.frameParts
  dsimp only
  split
  · split
    · exact sceneStep (parts _) h
    · exact anyOrder content h
  · exact anyOrder content h

theorem validFrame {bs : List Byte} (hb : spares → bs.getD 3 0 ≠ 3) (h : Kept spares z s) :
    Kept spares z (validFrame bs s) := by
  unfold Machine.validFrame
  dsimp only
  split
  · exact forward (h.frameParts hb).markOwn
  · exact forward (h.frameParts hb)

theorem arrive6 {bs : List Byte} (hb : spares → bs.getD 3 0 ≠ 3) (h : Kept spares z s) : Kept spares z (arrive6 bs s) := by
  have dropped : ∀ {u}, Kept spares z u → Kept spares z (discardOpen .damaged u) := fun hu =>
    (fixed_refl _).discardOpen.kept hu
  unfold Machine.arrive6
  split
  · exact forward (dropped (u := countDamaged false s) h)
  · exact forward (dropped h)
  · exact forward (dropped h)
  · exact h.validFrame hb

theorem placeOwn (h : Kept spares z s) : Kept spares z (placeOwn s) := by
  unfold Machine.placeOwn
  split
  · split <;> exact h
  · exact h
  · exact h

theorem passReturn {bs : List Byte} (h : Kept spares z s) : Kept spares z (passReturn bs s) := by
  unfold Machine.passReturn
  split <;> exact h

theorem arrive3 {bs : List Byte} (h : Kept spares z s) : Kept spares z (arrive3 bs s) := by
  unfold Machine.arrive3
  dsimp only
  split
  · split
    · refine placeOwn ?_
      split <;> exact h
    · exact h.passReturn
  · split
    · exact placeOwn (s := countDamaged true s) h
    · exact passReturn (s := countDamaged true s) h

theorem beginPeriod (h : Kept spares z s) : Kept spares z (beginPeriod s) := by
  have flushed : Kept spares z (flushPeriod s) := by
    unfold flushPeriod
    split
    · exact h.partEvent fun _ => rfl
    · exact h
  have done : Kept spares z (Machine.answerDone (turnPulses (flushPeriod s))) :=
    answerDone (s := turnPulses (flushPeriod s)) flushed
  have placed : ∀ l, Kept spares z
      (Machine.placeOwn (setLink l (freshTakes (Machine.answerDone (turnPulses (flushPeriod s)))))) :=
    fun l => placeOwn (s := setLink l (freshTakes _)) done
  unfold Machine.beginPeriod axisFramePeriod
  dsimp only
  have drawn := (fixed_refl _).draw.kept (placed (periodLink (Machine.answerDone (turnPulses (flushPeriod s))).tables.node.timeout
    (Machine.answerDone (turnPulses (flushPeriod s))).link))
  split
  · exact drawn.partEvent fun _ => rfl
  · exact drawn

theorem fallback (h : Kept spares z s) : Kept spares z (fallback s) := by
  have stepped : Kept spares z (Machine.markOwn (Machine.sceneStep [] s)) :=
    (h.sceneStep fun _ _ hp => absurd hp List.not_mem_nil).markOwn
  unfold Machine.fallback
  split
  · exact h
  all_goals split
  all_goals first | exact stepped | exact h

theorem loseLink (h : Kept spares z s) : Kept spares z (loseLink s) := by
  unfold Machine.loseLink
  split
  · exact sceneStep (s := latch .link (.link true) (setLink { s.link with state := .lost, lockRun := 0 } s))
      (fun _ => by simp [closes]) h
  · exact h

theorem softReset {via : Opened} (h : Kept spares z s) : Kept spares z (resetTransfer via s) :=
  (Fixed.outcome (fixed_refl (softResetState s))).kept h

end Kept

/-! ## Every command -/

/-- Every command answers a next state with the waiting commands as they were, and the tables too where it writes none. -/
theorem exec_keeps (c : Instr) (s : State) : ∃ t, exec c s = .next t ∧ Kept (writesTables c = false) s t := by
  have hf := fixed_refl s
  have hc : Fixed s (closeUnit s) := hf
  have hu := closed_fixed s
  have h := kept_refl (writesTables c = false) s
  cases c with
  | powerOnReset | pinReset => exact ⟨_, rfl, rfl, fun spares => nomatch spares⟩
  | framePeriod => exact ⟨_, rfl, (fixed_refl _).finish.kept h.beginPeriod⟩
  | downstreamFrame bytes =>
    exact ⟨_, rfl, (fixed_refl _).finish.kept (h.arrive6 fun spares => beq_eq_false_iff_ne.1 spares)⟩
  | returnFrame bytes => exact ⟨_, rfl, h.arrive3⟩
  | answerSent => exact ⟨_, rfl, h.answerDone⟩
  | fallbackStep => exact ⟨_, rfl, (fixed_refl _).finish.kept h.fallback⟩
  | linkLost => exact ⟨_, rfl, (fixed_refl _).finish.kept h.loseLink⟩
  | cueTake => exact ⟨_, rfl, hf.takeCue.finish.kept h⟩
  | writeTable via table first count records =>
    exact ⟨_, rfl, (Timed.writeTransfer (timed_refl (closeUnit s))).1, fun spares => nomatch spares⟩
  | readTable via table first count => exact ⟨_, rfl, hc.readTransfer.kept h⟩
  | readState via view index => exact ⟨_, rfl, hc.viewTransfer.kept h⟩
  | setClock via ms day rate runHold => exact ⟨_, rfl, hc.clockTransfer.kept h⟩
  | cueTransfer via code => exact ⟨_, rfl, hc.codeTransfer.kept h⟩
  | execute via records => exact ⟨_, rfl, hc.executeTransfer.finish.kept h⟩
  | notices via master enables clear => exact ⟨_, rfl, hc.noticesTransfer.kept h⟩
  | dormantTransfer via => exact ⟨_, rfl, hc.restTransfer.finish.kept h⟩
  | wakeTransfer via => exact ⟨_, rfl, hc.awakeTransfer.finish.kept h⟩
  | allStopTransfer via => exact ⟨_, rfl, hc.haltTransfer.finish.kept h⟩
  | softReset via => exact ⟨_, rfl, h.softReset⟩
  | dormantComplete => exact ⟨_, rfl, hf.nodeCheck.kept h⟩
  | pendingSetApply => exact ⟨_, rfl, hf.applyPending.kept h⟩
  | listEntryFire player => exact ⟨_, rfl, hf.countdownEnds.kept h⟩
  | cueFadeEnd channel => exact ⟨_, rfl, h⟩
  | masterFadeEnd group => exact ⟨_, rfl, h⟩
  | flagPulseEnd flag => exact ⟨_, rfl, h⟩
  | coilEnd point => exact ⟨_, rfl, (hu.coilEnds hf).kept h⟩
  | throwComplete point => exact ⟨_, rfl, (hu.throwEnds hf).kept h⟩
  | chainCycleComplete ret inputs => exact ⟨_, rfl, hf.completeCycle.finish.kept h⟩
  | watchHoldoffEnd watch => exact ⟨_, rfl, h⟩
  | brakeDelayEnd train => exact ⟨_, rfl, h⟩
  | arrivalTimeout train => exact ⟨_, rfl, (hu.arrivalTimesOut hf).kept h⟩
  | holdTimerEnd axis => exact ⟨_, rfl, h⟩
  | homeLimit axis => exact ⟨_, rfl, (hu.homeLimitPasses hf).afterEvent.kept h⟩

/-- Settles O2: every command keeps the waiting commands (`exec_keeps`), by its own lemma. -/
theorem everyCommandAnswersNext : Obligations.EveryCommandAnswersNext := by
  intro c s
  obtain ⟨t, next, pending, -⟩ := exec_keeps c s
  exact ⟨t, next, pending⟩

/-- Settles O5: the commands that write no table keep all sixteen (`exec_keeps`). -/
theorem tablesChangeOnlyByWritesOrResets : Obligations.TablesChangeOnlyByWritesOrResets := by
  intro c s writes
  obtain ⟨t, next, -, tables⟩ := exec_keeps c s
  exact ⟨t, next, tables writes⟩

end Sys2Proof.Machine
end

section
/-! No block but the Link Port and the Transfer Unit reads the link: what the Reservation, Train and Axis Units, Node Control
and the Cue Engine do, and a change of the link, do not meet. A function that answers beside the state it leaves answers the
same. -/

namespace Sys2Proof.Machine

section
variable (l : Link) (s : State)

/-! ## The state's operations -/

/-- What the track, the axes and Node Control read of the state is not the link. -/
theorem setLink_unread : (setLink l s).tables = s.tables ∧ (setLink l s).secs = s.secs ∧ (setLink l s).pts = s.pts ∧
    (setLink l s).trains = s.trains ∧ (setLink l s).axes = s.axes ∧ (setLink l s).players = s.players ∧
    (setLink l s).node = s.node ∧ (setLink l s).owed = s.owed ∧ (setLink l s).checkDue = s.checkDue ∧
    (setLink l s).choices = s.choices ∧ (setLink l s).drawn = s.drawn ∧ (setLink l s).notices = s.notices :=
  ⟨rfl, rfl, rfl, rfl, rfl, rfl, rfl, rfl, rfl, rfl, rfl, rfl⟩

theorem latch_setLink (k : NoticeKind) (d : Detail) : latch k d (setLink l s) = setLink l (latch k d s) := rfl
theorem setSec_setLink (n : SectionId) (x : Section) : setSec n x (setLink l s) = setLink l (setSec n x s) := rfl
theorem setPt_setLink (p : PointId) (x : Point) : setPt p x (setLink l s) = setLink l (setPt p x s) := rfl
theorem setTrain_setLink (t : TrainId) (x : Train) : setTrain t x (setLink l s) = setLink l (setTrain t x s) := rfl
theorem setAxis_setLink (a : AxisId) (x : Axis) : setAxis a x (setLink l s) = setLink l (setAxis a x s) := rfl
theorem setPlayer_setLink (p : PlayerId) (x : Player) : setPlayer p x (setLink l s) = setLink l (setPlayer p x s) := rfl

/-- Events of one kind taken one after another. -/
theorem foldl_setLink {α : Type} {f : State → α → State} (h : ∀ u x, f (setLink l u) x = setLink l (f u x)) (xs : List α) :
    xs.foldl f (setLink l s) = setLink l (xs.foldl f s) := List.foldl_hom (setLink l) h

theorem draw_setLink : draw (setLink l s) = Prod.map id (setLink l) (draw s) := by
  unfold draw
  simp only [setLink_choices, setLink_drawn]
  split <;> rfl

theorem arrange_setLink {α : Type} (xs : List α) : arrange xs (setLink l s) = Prod.map id (setLink l) (arrange xs s) := by
  unfold arrange
  simp only [draw_setLink, Prod.map_fst, Prod.map_snd, id]
  split <;> rfl

theorem handOn_setLink (rs : List Req) : handOn rs (setLink l s) = setLink l (handOn rs s) := by
  unfold handOn
  rw [arrange_setLink]
  rfl

theorem wake_setLink (src : WakeSource) : wake src (setLink l s) = setLink l (wake src s) := by
  unfold wake
  simp only [setLink_node]
  split
  · rfl
  all_goals exact handOn_setLink l (latch .wake (.wake src) { s with node := .active }) _

/-! ## What is read of the track (R60 to R71) -/

theorem pointStands_setLink (q : PointNeed) : pointStands (setLink l s) q = pointStands s q := rfl
theorem guardStands_setLink (n : SectionId) : guardStands (setLink l s) n = guardStands s n := rfl
theorem needsReady_setLink (f n : SectionId) : needsReady (setLink l s) f n = needsReady s f n := rfl
theorem canMeet_setLink (t : TrainId) (f n : SectionId) : canMeet (setLink l s) t f n = canMeet s t f n := rfl
theorem pointLocked_setLink (p : PointId) : pointLocked (setLink l s) p = pointLocked s p := rfl
theorem axisLocked_setLink (a : AxisId) : axisLocked (setLink l s) a = axisLocked s a := rfl
theorem axisLockers_setLink (a : AxisId) : axisLockers (setLink l s) a = axisLockers s a := rfl
theorem nextSection_setLink (t : TrainId) : nextSection (setLink l s) t = nextSection s t := rfl
theorem firstWaiter_setLink (n : SectionId) : firstWaiter (setLink l s) n = firstWaiter s n := rfl
theorem reservedBy_setLink (t : TrainId) : reservedBy (setLink l s) t = reservedBy s t := rfl
theorem chainFaulted_setLink : chainFaulted (setLink l s) = chainFaulted s := rfl
theorem holdBack_setLink (how : Approach) (x : Train) : holdBack (setLink l s) how x = holdBack s how x := rfl
theorem guardsSet_setLink (a : AxisId) : guardsSet (setLink l s) a = guardsSet s a := rfl
theorem orderRefusal_setLink (a : AxisId) (o : AxisOrder) : orderRefusal a o (setLink l s) = orderRefusal a o s := rfl
theorem resting_setLink : resting (setLink l s) = resting s := rfl

theorem mayResume_setLink (t : TrainId) (r : HaltReason) : mayResume (setLink l s) t r = mayResume s t r := by
  cases r <;> rfl

/-! ## Points, guards, grants (R66 to R72) -/

theorem throwRequest_setLink (q : PointNeed) : throwRequest q (setLink l s) = setLink l (throwRequest q s) := by
  grind [throwRequest, setLink_unread, setPt_setLink]

theorem guardSeek_setLink (a : AxisId) (g : Nat) : guardSeek a g (setLink l s) = setLink l (guardSeek a g s) := by
  grind [guardSeek, setLink_unread, setAxis_setLink]

theorem orderGuard_setLink (n : SectionId) : orderGuard n (setLink l s) = setLink l (orderGuard n s) := by
  grind [orderGuard, setLink_unread, guardStands_setLink, guardSeek_setLink]

/-- A grant is its reservation, its throws, its guard, and the check whether all stand ready (R71). -/
theorem grant_setLink (t : TrainId) (f n : SectionId) : grant t f n (setLink l s) = Prod.map id (setLink l) (grant t f n s) := by
  have throws := fun u : State => foldl_setLink l u (f := fun u q => if pointStands u q then u else throwRequest q u)
    (fun u q => by simp only [pointStands_setLink, throwRequest_setLink, apply_ite (setLink l)])
  grind [grant, setLink_unread, setSec_setLink, orderGuard_setLink, needsReady_setLink]

theorem request_setLink (t : TrainId) (f n : SectionId) :
    request t f n (setLink l s) = Prod.map id (setLink l) (request t f n s) := by
  grind [request, setLink_unread, canMeet_setLink, grant_setLink, setSec_setLink]

theorem takeAnswer_setLink (how : Approach) (t : TrainId) (n : SectionId) (a : Answer) :
    takeAnswer how t n a (setLink l s) = setLink l (takeAnswer how t n a s) := rfl

theorem sendRequest_setLink (how : Approach) (t : TrainId) :
    sendRequest how t (setLink l s) = setLink l (sendRequest how t s) := by
  grind [sendRequest, setLink_unread, nextSection_setLink, request_setLink, takeAnswer_setLink]

/-! ## Halts and tellings (R73, R81, R96, R98) -/

theorem dequeue_setLink (t : TrainId) : dequeue t (setLink l s) = setLink l (dequeue t s) := by
  grind [dequeue, leaveQueue, setLink_unread, setSec_setLink, setTrain_setLink]

theorem halt_setLink (r : HaltReason) (t : TrainId) : halt r t (setLink l s) = setLink l (halt r t s) := by
  grind [halt, setLink_unread, dequeue_setLink, setTrain_setLink, latch_setLink]

theorem haltAll_setLink (r : HaltReason) : haltAll r (setLink l s) = setLink l (haltAll r s) := by
  unfold haltAll
  simp only [setLink_trains, arrange_setLink, Prod.map_fst, Prod.map_snd, id]
  exact foldl_setLink l _ (fun u t => halt_setLink l u r t) _

theorem tellSet_setLink (t : TrainId) : tellSet t (setLink l s) = setLink l (tellSet t s) := by
  grind [tellSet, setLink_unread, setTrain_setLink]

theorem tellSetting_setLink (t : TrainId) : tellSetting t (setLink l s) = setLink l (tellSetting t s) := by
  unfold tellSetting
  cases res : s.trains[t].res with
  | none => grind [setLink_unread]
  | some r => cases state : s.trains[t].state <;> grind [setLink_unread, setTrain_setLink, halt_setLink]

theorem checkSetting_setLink (n : SectionId) : checkSetting n (setLink l s) = setLink l (checkSetting n s) := by
  grind [checkSetting, setLink_unread, needsReady_setLink, setSec_setLink, tellSet_setLink]

theorem axisStandTold_setLink (a : AxisId) : axisStandTold a (setLink l s) = setLink l (axisStandTold a s) :=
  foldl_setLink l s (fun u n => by simp only [setLink_tables, checkSetting_setLink, apply_ite (setLink l)]) _

theorem axisFaultTold_setLink (a : AxisId) : axisFaultTold a (setLink l s) = setLink l (axisFaultTold a s) :=
  foldl_setLink l s (fun u n => by
    by_cases guarded : u.tables.sections[n].guardAxis = some a
    · cases state : u.secs[n].state with
      | reserved t phase kept => cases phase <;> grind [setLink_unread, setSec_setLink, tellSetting_setLink]
      | free | blocked | held => grind [setLink_unread]
    · simp only [setLink_tables, guarded, if_false]) _

/-! ## Queues, cancels, releases (R74 to R76, R80) -/

theorem examineQueue_setLink (n : SectionId) : examineQueue n (setLink l s) = setLink l (examineQueue n s) := by
  grind [examineQueue, setLink_unread, firstWaiter_setLink, grant_setLink, takeAnswer_setLink]

theorem reevaluate_setLink (first : Option SectionId) : reevaluate first (setLink l s) = setLink l (reevaluate first s) :=
  foldl_setLink l s (fun u n => examineQueue_setLink l u n) _

theorem cancel_setLink (t : TrainId) : cancel t (setLink l s) = setLink l (cancel t s) := by
  grind [cancel, setLink_unread, dequeue_setLink, setTrain_setLink, reservedBy_setLink, setSec_setLink, reevaluate_setLink]

theorem hold_setLink (t : TrainId) (n : SectionId) : hold t n (setLink l s) = Prod.map id (setLink l) (hold t n s) := by
  grind [hold, setLink_unread, setSec_setLink]

theorem releaseOne_setLink (n : SectionId) : releaseOne n (setLink l s) = setLink l (releaseOne n s) := by
  grind [releaseOne, setLink_unread, setSec_setLink, appendCue_setLink, reevaluate_setLink]

theorem releaseAll_setLink (t : TrainId) : releaseAll t (setLink l s) = setLink l (releaseAll t s) := by
  have releases := fun u : State => foldl_setLink l u (f := fun u n => releaseOne n u) (fun u n => releaseOne_setLink l u n)
  grind [releaseAll, setLink_unread, cancel_setLink, setTrain_setLink]

theorem guardRenewed_setLink (n : SectionId) : guardRenewed n (setLink l s) = setLink l (guardRenewed n s) := by
  grind [guardRenewed, setLink_unread, orderGuard_setLink]

/-- A reservation SET stays; one SETTING has its guard ordered again and is checked once more (R74). -/
theorem renew_setLink (t : TrainId) : renew t (setLink l s) = Prod.map id (setLink l) (renew t s) := by
  cases reserved : reservedBy s t with
  | none => simp only [renew, reservedBy_setLink, reserved, Prod.map_apply, id]
  | some n =>
    have reserved' := (reservedBy_setLink l s t).trans reserved
    obtain ⟨phase, kept, state⟩ := reservedBy_some reserved
    cases phase with
    | set =>
      rw [renew_of_set reserved state, renew_of_set reserved' state]
      rfl
    | setting =>
      have rails := guardRenewed_rails n s
      obtain ⟨phase, checked⟩ := checkSetting_reserved (s := guardRenewed n s) (by rw [rails.secs]; exact state)
      have checked' : (checkSetting n (guardRenewed n (setLink l s))).secs[n].state = .reserved t phase kept := by
        rw [guardRenewed_setLink, checkSetting_setLink]
        exact checked
      rw [renew_of_setting reserved state checked, renew_of_setting reserved' state checked', guardRenewed_setLink,
        checkSetting_setLink]
      rfl

/-! ## Orders to trains (R83 to R88) -/

theorem trainPlace_setLink (t : TrainId) (i : Nat) :
    trainPlace t i (setLink l s) = Prod.map id (setLink l) (trainPlace t i s) := by
  unfold trainPlace
  cases state : s.trains[t].state <;> cases route : routeAt s.tables.trains[t] i <;>
    grind [setLink_unread, hold_setLink, setTrain_setLink]

theorem renewRun_setLink (t : TrainId) : renewRun t (setLink l s) = setLink l (renewRun t s) := by
  grind [renewRun, setLink_unread, renew_setLink, holdBack_setLink, setTrain_setLink]

theorem resume_setLink (t : TrainId) : resume t (setLink l s) = setLink l (resume t s) := by
  grind [resume, setLink_unread, renewRun_setLink, sendRequest_setLink, setTrain_setLink]

theorem trainRun_setLink (t : TrainId) : trainRun t (setLink l s) = Prod.map id (setLink l) (trainRun t s) := by
  unfold trainRun
  cases state : s.trains[t].state <;>
    grind [setLink_unread, chainFaulted_setLink, mayResume_setLink, renewRun_setLink, resume_setLink, sendRequest_setLink]

theorem stopCancelled_setLink (t : TrainId) : stopCancelled t (setLink l s) = setLink l (stopCancelled t s) := by
  grind [stopCancelled, setLink_unread, cancel_setLink, setTrain_setLink]

theorem trainStop_setLink (t : TrainId) : trainStop t (setLink l s) = Prod.map id (setLink l) (trainStop t s) := by
  grind [trainStop, setLink_unread, dequeue_setLink, stopCancelled_setLink, setTrain_setLink]

theorem trainClear_setLink (t : TrainId) : trainClear t (setLink l s) = Prod.map id (setLink l) (trainClear t s) := by
  grind [trainClear, setLink_unread, releaseAll_setLink, setTrain_setLink]

theorem restTrains_setLink : restTrains (setLink l s) = setLink l (restTrains s) := by
  unfold restTrains
  simp only [setLink_trains, arrange_setLink, Prod.map_fst, Prod.map_snd, id]
  exact foldl_setLink l _ (fun u t => by
    simp only [restTrain, setLink_trains, trainStop_setLink, Prod.map_snd, apply_ite (setLink l)]) _

/-! ## Orders to points and axes (R69, R108 to R117) -/

theorem pointThrow_setLink (p : PointId) (q : PointPos) :
    pointThrow p q (setLink l s) = Prod.map id (setLink l) (pointThrow p q s) := by
  grind [pointThrow, pointLocked_setLink, throwRequest_setLink]

theorem putAxis_setLink (a : AxisId) (y : Axis × Bool) : putAxis a y (setLink l s) = setLink l (putAxis a y s) := by
  grind [putAxis, setAxis_setLink, axisStandTold_setLink]

theorem axisOrder_setLink (a : AxisId) (o : AxisOrder) :
    axisOrder a o (setLink l s) = Prod.map id (setLink l) (axisOrder a o s) := by
  unfold axisOrder
  rw [orderRefusal_setLink]
  cases orderRefusal a o s with
  | some r => rfl
  | none => simp only [setLink_tables, setLink_axes, putAxis_setLink, Prod.map_apply, id]

theorem stopAxis_setLink (a : AxisId) : stopAxis a (setLink l s) = setLink l (stopAxis a s) := putAxis_setLink l s a _

theorem haltOwners_setLink (a : AxisId) : haltOwners a (setLink l s) = setLink l (haltOwners a s) := by
  unfold haltOwners
  simp only [axisLockers_setLink, arrange_setLink, Prod.map_fst, Prod.map_snd, id]
  exact foldl_setLink l _ (fun u t => halt_setLink l u .guard t) _

theorem faultAxis_setLink (r : AxisFault) (a : AxisId) : faultAxis r a (setLink l s) = setLink l (faultAxis r a s) := by
  grind [faultAxis, setLink_unread, setAxis_setLink, latch_setLink, guardsSet_setLink, draw_setLink, haltOwners_setLink,
    axisFaultTold_setLink]

theorem chainFaultAxes_setLink : chainFaultAxes (setLink l s) = setLink l (chainFaultAxes s) := by
  unfold chainFaultAxes faultAxes
  simp only [setLink_axes, arrange_setLink, Prod.map_fst, Prod.map_snd, id]
  exact foldl_setLink l _ (fun u a => faultAxis_setLink l u .chain a) _

theorem linkLostAxes_setLink : linkLostAxes (setLink l s) = setLink l (linkLostAxes s) :=
  foldl_setLink l s (fun u a => by simp only [setLink_axes, stopAxis_setLink, apply_ite (setLink l)]) _

theorem allStopAxis_setLink (a : AxisId) : allStopAxis a (setLink l s) = setLink l (allStopAxis a s) := by
  grind [allStopAxis, setLink_unread, stopAxis_setLink, putAxis_setLink]

theorem restAxis_setLink (h : Bool) (a : AxisId) : restAxis h a (setLink l s) = setLink l (restAxis h a s) := by
  grind [restAxis, setLink_unread, axisLocked_setLink, stopAxis_setLink, putAxis_setLink]

/-! ## Requests (R22, R168 to R171) -/

theorem nodeCheck_setLink : nodeCheck (setLink l s) = setLink l (nodeCheck s) := by
  have stands : atStand (setLink l s) = atStand s := rfl
  unfold nodeCheck
  simp only [setLink_node, setLink_owed, stands, apply_ite (setLink l)]
  rfl

theorem dueCheck_setLink : dueCheck (setLink l s) = setLink l (dueCheck s) := by
  have checked := nodeCheck_setLink l { s with checkDue := false }
  unfold dueCheck
  simp only [setLink_checkDue, apply_ite (setLink l), ← checked]
  rfl

theorem afterEvent_setLink (u : State) : afterEvent (setLink l u) (setLink l s) = setLink l (afterEvent u s) := by
  have ended : endedOne (setLink l u) (setLink l s) = endedOne u s := rfl
  simp only [afterEvent, ended, nodeCheck_setLink, apply_ite (setLink l)]

theorem runReq_setLink (r : Req) : runReq r (setLink l s) = setLink l (runReq r s) := by
  cases r with
  | restClock hold => cases hold <;> rfl
  | restLists | wakeClock | wakeLists | wakeAxes => rfl
  | restTrains => exact restTrains_setLink l s
  | restAxes hold => exact foldl_setLink l s (fun u a => restAxis_setLink l u hold a) _
  | stopTrains => exact haltAll_setLink l s .allstop
  | stopAxes => exact foldl_setLink l s (fun u a => allStopAxis_setLink l u a) _
  | faultTrains => exact haltAll_setLink l s .chain
  | faultAxes => exact chainFaultAxes_setLink l s
  | linkTrains => exact haltAll_setLink l s .link
  | linkAxes => exact linkLostAxes_setLink l s

theorem reqEvent_setLink (r : Req) : reqEvent r (setLink l s) = setLink l (reqEvent r s) := by
  rw [reqEvent, runReq_setLink, afterEvent_setLink, dueCheck_setLink, reqEvent]

theorem takeReqs_setLink (left rs : List Req) : takeReqs left rs (setLink l s) = setLink l (takeReqs left rs s) := by
  induction rs generalizing s with
  | nil => rfl
  | cons r rest ih =>
    have taken := reqEvent_setLink l { s with owed := rest ++ left } r
    rw [takeReqs, takeReqs, ← ih, ← taken]
    rfl

theorem settle_setLink : settle (setLink l s) = setLink l (settle s) := by
  unfold settle
  simp only [setLink_owed, draw_setLink, Prod.map_fst, Prod.map_snd, id, takeReqs_setLink]
  split <;> rfl

theorem dormantRequest_setLink : dormantRequest (setLink l s) = Prod.map id (setLink l) (dormantRequest s) := by
  have begun : beginDormant (setLink l s) = setLink l (beginDormant s) :=
    handOn_setLink l { s with node := .quiescing, checkDue := false } _
  have latched : latchOf (setLink l s) .wake = latchOf s .wake := rfl
  grind [dormantRequest, setLink_unread]

/-! ## Actions (Table 5-1, R41) -/

theorem listStart_setLink (p : PlayerId) : listStart p (setLink l s) = Prod.map id (setLink l) (listStart p s) := by
  have entries : ∀ i, entryAt (setLink l s) i = entryAt s i := fun _ => rfl
  unfold listStart
  cases state : s.players[p].state <;> cases mode : s.tables.listDir[p].mode <;> grind [setLink_unread, setPlayer_setLink]

theorem whenInUse_setLink {k : Option Reason × State} (b : Bool) :
    whenInUse b (setLink l s) (Prod.map id (setLink l) k) = Prod.map id (setLink l) (whenInUse b s k) := by
  cases b <;> rfl

theorem whenAwake_setLink {k : Option Reason × State} :
    whenAwake (setLink l s) (Prod.map id (setLink l) k) = Prod.map id (setLink l) (whenAwake s k) := by
  unfold whenAwake
  rw [resting_setLink]
  split <;> rfl

theorem accepted_setLink : accepted (setLink l s) = Prod.map id (setLink l) (accepted s) := rfl

theorem runAction_setLink (code : Nat) (act : Action) :
    runAction code act (setLink l s) = Prod.map id (setLink l) (runAction code act s) := by
  cases act with
  | none | groupSet | flagSet | flagClear | flagPulse | listStop | clockHold | clockResume | clockRate | clockSet => rfl
  | lampSet c level units => exact whenInUse_setLink l s (k := accepted (lampSet c level units s)) _
  | lampRelease c =>
    cases c with
    | none => rfl
    | some c => exact whenInUse_setLink l s (k := accepted (lampRelease c s)) _
  | trainCruise t speed => exact whenInUse_setLink l s (k := accepted (trainCruise t speed s)) _
  | listStart p => simp only [runAction, listStart_setLink, whenAwake_setLink]
  | trainPlace =>
    simp only [runAction, trainPlace_setLink, whenInUse_setLink]
    rfl
  | trainRun => simp only [runAction, setLink_tables, trainRun_setLink, whenAwake_setLink, whenInUse_setLink]
  | trainStop => simp only [runAction, setLink_tables, trainStop_setLink, whenInUse_setLink]
  | trainClear => simp only [runAction, setLink_tables, trainClear_setLink, whenInUse_setLink]
  | pointThrow => simp only [runAction, setLink_tables, pointThrow_setLink, whenInUse_setLink]
  | axisHome | axisSeek | axisPark | axisFollow =>
    simp only [runAction, setLink_tables, axisOrder_setLink, whenAwake_setLink, whenInUse_setLink]
  | axisStop => simp only [runAction, setLink_tables, axisOrder_setLink, whenInUse_setLink]
  | axisRun =>
    simp only [runAction, setLink_tables, axisOrder_setLink, whenAwake_setLink, ← apply_ite (Prod.map id (setLink l)),
      whenInUse_setLink]
  | nodeDormant => exact dormantRequest_setLink l s
  | nodeWake => simp only [runAction, wake_setLink, accepted_setLink]
  | allStop => simp only [runAction, allStop, handOn_setLink, accepted_setLink]
  | cue => simp only [runAction, appendCue_setLink, accepted_setLink]

theorem runOne_setLink (code position : Nat) (act : Action) :
    runOne code position act (setLink l s) = Prod.map id (setLink l) (runOne code position act s) := by
  unfold runOne
  simp only [settle_setLink, runAction_setLink, latch_setLink, afterEvent_setLink, Prod.map_fst, Prod.map_snd, id]
  split <;> rfl

theorem runList_setLink (code position : Nat) (acts : List Action) :
    runList code position acts (setLink l s) = Prod.map id (setLink l) (runList code position acts s) := by
  induction acts generalizing s position with
  | nil => rfl
  | cons act rest ih =>
    rw [runList, runList, runOne_setLink]
    simp only [Prod.map_fst, Prod.map_snd, id, ih]
    split <;> rfl

end

end Sys2Proof.Machine
end

section
/-! CLOSE judges the staged bytes (R154), and a committed transfer does not meet the forwarding of its frame (R155 to R163). -/

namespace Sys2Proof.Machine

/-! ## Commits and the link -/

/-- A change of the link and the function do not meet: it neither reads nor writes the link. -/
def Linkless (f : State → State) : Prop := ∀ (l : Link) (s : State), f (setLink l s) = setLink l (f s)

/-- A commit's state after a change of the link. -/
def relinked (l : Link) (c : Commit) : Commit := (c.1, c.2.1, setLink l c.2.2)

theorem relinked_plain (l : Link) (r : Result) (s : State) : relinked l (plain r s) = plain r (setLink l s) := rfl

/-- A transfer whose commit is linkless is linkless: its outcome is (R163). -/
theorem linkless_conclude {c : State → Commit} (via : Opened) (kind : Byte)
    (h : ∀ l s, c (setLink l s) = relinked l (c s)) : Linkless (fun s => conclude via kind (c s)) := fun l s =>
  (congrArg (conclude via kind) (h l s)).trans (outcome_setLink via kind (c s).1 (c s).2.1 l (c s).2.2)

theorem Linkless.link {f : State → State} (h : Linkless f) (s : State) : (f s).link = s.link := by
  have kept : f s = setLink s.link (f s) := h s.link s
  exact (congrArg State.link kept :)

/-- The same state with another frame going on. -/
def sending (o : Option (List Byte)) (s : State) : State := setLink { s.link with downOut := o } s

/-- A linkless function and the forwarding do not meet (R143). -/
theorem Linkless.sending {f : State → State} (h : Linkless f) (o : Option (List Byte)) (s : State) :
    f (sending o s) = sending o (f s) := by
  rw [Machine.sending, Machine.sending, h, h.link]

theorem outcome_sending (via : Opened) (kind : Byte) (r : Result) (d : List Byte) (o : Option (List Byte)) (s : State) :
    outcome via kind r d (sending o s) = sending o (outcome via kind r d s) := by
  rw [sending, sending, outcome_setLink, outcome_link]

/-! ## The commits (R155 to R162) -/

section
variable (l : Link) (s : State)

theorem freshMatches_setLink (f : WatchId → Bool) : freshMatches f (setLink l s) = setLink l (freshMatches f s) := rfl

/-- A table's store with a linkless way to put the records back. -/
theorem store_setLink {α : Type} {n : Nat} (old : Vector α n) (first : Nat) (recs : List (Option α)) (bad : Nat → α → Bool)
    {put put' : Vector α n → State} (h : ∀ v, put' v = setLink l (put v)) :
    store old first recs bad put' = (store old first recs bad put).map (setLink l) := by
  unfold store
  cases firstBad bad 0 recs with
  | none => exact congrArg Except.ok (h _)
  | some k => rfl

theorem lampsCommitted_setLink : lampsCommitted (setLink l s) = setLink l (lampsCommitted s) := rfl
theorem sectionsCommitted_setLink : sectionsCommitted (setLink l s) = setLink l (sectionsCommitted s) := rfl
theorem trainsCommitted_setLink (i n : Nat) : trainsCommitted i n (setLink l s) = setLink l (trainsCommitted i n s) := rfl
theorem axesCommitted_setLink (old : Vector AxisRec 6) : axesCommitted old (setLink l s) = setLink l (axesCommitted old s) := rfl
theorem pointsCommitted_setLink (old : Vector PointRec 8) :
    pointsCommitted old (setLink l s) = setLink l (pointsCommitted old s) := by
  unfold pointsCommitted
  rw [← reevaluate_setLink]
  rfl

theorem watchesCommitted_setLink (old : Vector WatchRec 16) (i n : Nat) :
    watchesCommitted old i n (setLink l s) = setLink l (watchesCommitted old i n s) := rfl

theorem storeRecords_setLink (table first : Nat) (recs : List (List Byte)) :
    storeRecords table first recs (setLink l s) = (storeRecords table first recs s).map (setLink l) := by
  unfold storeRecords
  dsimp only
  split
  · split <;> rfl
  iterate 6 exact store_setLink l _ _ _ _ (fun _ => rfl)
  · exact store_setLink l _ _ _ _ (fun v =>
      lampsCommitted_setLink l { s with tables := { s.tables with lamps := v } })
  · have stored := fun ds => store_setLink l s.tables.sections first ds noBad
      (put := fun v => sectionsCommitted { s with tables := { s.tables with sections := v } })
      (put' := fun v => sectionsCommitted { setLink l s with tables := { s.tables with sections := v } })
      (fun v => sectionsCommitted_setLink l { s with tables := { s.tables with sections := v } })
    have routes : routeFailure (setLink l s) = routeFailure s := rfl
    simp only [setLink_tables, routes, stored]
    cases store s.tables.sections first (recs.mapIdx fun k bs => decSection (first + k) bs) noBad
        (fun v => sectionsCommitted { s with tables := { s.tables with sections := v } }) with
    | error k => rfl
    | ok u =>
      simp only [Except.map, setLink_tables]
      split <;> rfl
  · exact store_setLink l _ _ _ _ (fun v =>
      trainsCommitted_setLink l { s with tables := { s.tables with trains := v } } _ _)
  · exact store_setLink l _ _ _ _ (fun v =>
      pointsCommitted_setLink l { s with tables := { s.tables with points := v } } _)
  · exact store_setLink l _ _ _ _ (fun v =>
      axesCommitted_setLink l { s with tables := { s.tables with axes := v } } _)
  iterate 2 exact store_setLink l _ _ _ _ (fun _ => rfl)
  · exact store_setLink l _ _ _ _ (fun v =>
      watchesCommitted_setLink l { s with tables := { s.tables with watches := v } } _ _ _)
  · rfl

theorem commitWrite_setLink (table first count : Nat) (records : List Byte) :
    commitWrite table first count records (setLink l s) = relinked l (commitWrite table first count records s) := by
  have locked : lockedAt (setLink l s) table = lockedAt s table := rfl
  unfold commitWrite
  rw [locked, storeRecords_setLink]
  split
  · rfl
  · split
    · rfl
    · split
      · rfl
      · cases storeRecords table first (pieces (recordSize table) count records) s <;> rfl

theorem commitRead_setLink (table first count : Nat) :
    commitRead table first count (setLink l s) = relinked l (commitRead table first count s) := by
  unfold commitRead
  split
  · rfl
  · split <;> rfl

theorem unlessBroadcast_relinked (via : Opened) (c : Commit) :
    unlessBroadcast via (setLink l s) (relinked l c) = relinked l (unlessBroadcast via s c) := by
  cases via <;> rfl

theorem commitCue_setLink (code : Nat) : commitCue code (setLink l s) = relinked l (commitCue code s) := by
  unfold commitCue
  rw [appendCue_setLink]
  split <;> rfl

theorem commitExecute_setLink (records : List Byte) :
    commitExecute records (setLink l s) = relinked l (commitExecute records s) := by
  unfold commitExecute
  simp only [runList_setLink]
  split <;> rfl

theorem commitDormant_setLink : commitDormant (setLink l s) = relinked l (commitDormant s) := by
  unfold commitDormant
  simp only [dormantRequest_setLink, Prod.map_fst, Prod.map_snd, id]
  split <;> rfl

end

/-! ## The transfers (Table 9-1) -/

theorem linkless_writeTransfer {via : Opened} {table first count : Nat} {records : List Byte} :
    Linkless (writeTransfer via table first count records) :=
  linkless_conclude via 1 fun l s => by
    rw [commitWrite_setLink, ← relinked_plain, apply_ite (relinked l)]

theorem linkless_readTransfer {via : Opened} {table first count : Nat} : Linkless (readTransfer via table first count) :=
  linkless_conclude via 2 fun l s => by rw [commitRead_setLink, unlessBroadcast_relinked]

theorem linkless_clockTransfer {via : Opened} {ms day rate : Nat} {runHold : Byte} :
    Linkless (clockTransfer via ms day rate runHold) := linkless_conclude via 4 fun _ _ => rfl

theorem linkless_codeTransfer {via : Opened} {code : Nat} : Linkless (codeTransfer via code) :=
  linkless_conclude via 5 fun l s => commitCue_setLink l s code

theorem linkless_executeTransfer {via : Opened} {records : List Byte} : Linkless (executeTransfer via records) :=
  linkless_conclude via 6 fun l s => by rw [commitExecute_setLink, ← relinked_plain, apply_ite (relinked l)]

theorem linkless_noticesTransfer {via : Opened} {master : Byte} {enables clear : BitVec 16} :
    Linkless (noticesTransfer via master enables clear) := linkless_conclude via 7 fun _ _ => rfl

theorem linkless_restTransfer {via : Opened} : Linkless (restTransfer via) := linkless_conclude via 8 commitDormant_setLink

theorem linkless_awakeTransfer {via : Opened} : Linkless (awakeTransfer via) :=
  linkless_conclude via 9 fun l s => congrArg (plain .ok) (wake_setLink l s .transfer)

theorem linkless_haltTransfer {via : Opened} : Linkless (haltTransfer via) :=
  linkless_conclude via 10 fun l s => congrArg (plain .ok) (handOn_setLink l s _)

/-- The commit of a view shows the link's state and address, and not the frame that goes on (R159). -/
theorem viewTransfer_sending (via : Opened) (view i : Byte) (o : Option (List Byte)) (s : State) :
    viewTransfer via view i (sending o s) = sending o (viewTransfer via view i s) := by
  have shown : takeView view i (sending o s) = takeView view i s := rfl
  have commit : unlessBroadcast via (sending o s) (commitView view i (sending o s)) =
      ((unlessBroadcast via s (commitView view i s)).1, (unlessBroadcast via s (commitView view i s)).2.1,
        sending o (unlessBroadcast via s (commitView view i s)).2.2) := by
    unfold commitView
    rw [shown]
    cases takeView view i s <;> cases via <;> rfl
  exact (congrArg (conclude via 3) commit).trans (outcome_sending ..)

/-- A soft reset ends the talk, and leaves the frame that goes on (R174). -/
theorem resetTransfer_sending (via : Opened) (o : Option (List Byte)) (s : State) :
    resetTransfer via (sending o s) = sending o (resetTransfer via s) := by
  have reset : softResetState (sending o s) = sending o (softResetState s) := rfl
  rw [resetTransfer, reset]
  exact outcome_sending ..

end Sys2Proof.Machine
end

section
/-! A CLOSE symbol ends in the outcome of the judging, or as the row of the transfer's kind (R154 to R163). -/

namespace Sys2Proof.Machine

/-! ## The frame that carries the CLOSE goes on after the commit (R143) -/

/-- What goes on downstream and what the function does do not meet, and the node stays or does not stay LOST. -/
def LeavesSending (f : State → State) : Prop :=
  ∀ o s, f (sending o s) = sending o (f s) ∧ (f s).link.state = s.link.state

theorem Linkless.leavesSending {f : State → State} (h : Linkless f) : LeavesSending f := fun o s =>
  ⟨h.sending o s, congrArg Link.state (h.link s)⟩

theorem leavesSending_outcome (via : Opened) (kind : Byte) (r : Result) : LeavesSending (outcome via kind r []) := fun o s =>
  ⟨outcome_sending via kind r [] o s, congrArg Link.state (outcome_link ..)⟩

theorem leavesSending_commitBody (via : Opened) (body : List Byte) : LeavesSending (commitBody via body) := by
  unfold commitBody
  split
  · split
    · exact leavesSending_outcome via 1 .badLength
    · exact linkless_writeTransfer.leavesSending
  · exact linkless_readTransfer.leavesSending
  · exact fun o s => ⟨viewTransfer_sending .., congrArg Link.state (Fixed.viewTransfer (fixed_refl s)).2.2⟩
  · exact linkless_clockTransfer.leavesSending
  · exact linkless_codeTransfer.leavesSending
  · exact linkless_executeTransfer.leavesSending
  · exact linkless_noticesTransfer.leavesSending
  · exact linkless_restTransfer.leavesSending
  · exact linkless_awakeTransfer.leavesSending
  · exact linkless_haltTransfer.leavesSending
  · exact fun o s => ⟨resetTransfer_sending .., (congrArg Link.state (outcome_link via 11 .ok [] (softResetState s)) :)⟩

theorem LeavesSending.forward {f : State → State} (h : LeavesSending f) {s : State} (hl : s.link.state ≠ .lost)
    (bs : List Byte) : forward bs (f s) = f (sending (some bs) s) := by
  obtain ⟨sent, state⟩ := h (some bs) s
  rw [forward_eq, sentDown_of_not_lost (state ▸ hl), sent]
  rfl

theorem takeClose_of_open {s : State} {via : Opened} (opened : s.xfer.opened = some via) :
    takeClose s = judge via s.xfer.buf (closeUnit s) := by rw [takeClose, opened]

/-- A frame whose one part is a CLOSE ends as the judging does with the frame already sent on. -/
theorem exec_close {f l : Byte} {s : State} {via : Opened} {ends : State → State} (h0 : f.getLsbD 0 = false)
    (h1 : f.getLsbD 1 = false) (h2 : f.getLsbD 2 = false) (hl : s.link.state ≠ .lost) (ho : s.owed = [])
    (opened : s.xfer.opened = some via) (judged : ∀ t, judge via s.xfer.buf t = ends t) (h : LeavesSending ends) :
    exec (.downstreamFrame (withCheck [f, 0, l, 3, 0])) s =
      .next (finish (ends (closeUnit (setLink (passedOn l (withCheck [f, 0, l, 3, 0]) s.link) s)))) := by
  have arrives : arrive6 (withCheck [f, 0, l, 3, 0]) s =
      ends (closeUnit (setLink (passedOn l (withCheck [f, 0, l, 3, 0]) s.link) s)) := by
    have taken : takeSymbol 3 0 (withLines l s) = ends (closeUnit (withLines l s)) :=
      (takeClose_of_open (s := withLines l s) opened).trans (judged _)
    rw [arrive6_symbol h0 h1 h2 rfl hl ho, validForward_of_no_enum (by decide), taken,
      h.forward (s := closeUnit (withLines l s)) hl]
    rfl
  exact congrArg (fun t => Host.Outcome.next (finish t)) arrives

/-! ## The judging (R154) -/

theorem judge_short {bytes : List Byte} (h : bytes.length < 3) (via : Opened) (s : State) :
    judge via bytes s = outcome via (bytes.head?.getD 0) .badLength [] s := by
  rw [judge, if_pos h, List.getD_eq_getElem?_getD, List.head?_eq_getElem?]

section
variable {body : List Byte} {a b : Byte}

/-- The staged bytes are a body that begins with the kind, and two check bytes. -/
theorem judge_staged (nonempty : body ≠ []) (via : Opened) (s : State) : judge via (body ++ [a, b]) s =
    if checks body ≠ (a.toNat, b.toNat) then outcome via (body.getD 0 0) .badCheck [] s
    else if !kindOk via (body.getD 0 0) then outcome via (body.getD 0 0) .badKind [] s
    else if (fixedLength (body.getD 0 0).toNat).any (· != body.length) then outcome via (body.getD 0 0) .badLength [] s
    else commitBody via body s := by
  obtain ⟨kind, more, rfl⟩ := List.exists_cons_of_ne_nil nonempty
  have long : ¬ (kind :: more ++ [a, b]).length < 3 := by simp
  have split : (kind :: more ++ [a, b]).take ((kind :: more ++ [a, b]).length - 2) = kind :: more := by simp
  have first : at_ (kind :: more ++ [a, b]) ((kind :: more ++ [a, b]).length - 2) = a.toNat := by simp [at_]
  have second : at_ (kind :: more ++ [a, b]) ((kind :: more ++ [a, b]).length - 1) = b.toNat := by simp [at_]
  rw [judge, if_neg long, split, first, second]
  rfl

theorem judge_badCheck (nonempty : body ≠ []) (wrong : checks body ≠ (a.toNat, b.toNat)) (via : Opened) (s : State) :
    judge via (body ++ [a, b]) s = outcome via (body.getD 0 0) .badCheck [] s := by
  rw [judge_staged nonempty, if_pos wrong]

theorem judge_badKind (nonempty : body ≠ []) (right : checks body = (a.toNat, b.toNat)) {via : Opened}
    (unknown : kindOk via (body.getD 0 0) = false) (s : State) :
    judge via (body ++ [a, b]) s = outcome via (body.getD 0 0) .badKind [] s := by
  rw [judge_staged nonempty, if_neg (not_not_intro right), unknown]
  rfl

theorem judge_badLength (nonempty : body ≠ []) (right : checks body = (a.toNat, b.toNat)) {via : Opened} {n : Nat}
    (known : kindOk via (body.getD 0 0) = true) (fixed : fixedLength (body.getD 0 0).toNat = some n) (other : body.length ≠ n)
    (s : State) : judge via (body ++ [a, b]) s = outcome via (body.getD 0 0) .badLength [] s := by
  rw [judge_staged nonempty, if_neg (not_not_intro right), known, fixed]
  exact if_pos (bne_iff_ne.2 other.symm)

theorem judge_commits (nonempty : body ≠ []) (right : checks body = (a.toNat, b.toNat)) {via : Opened}
    (known : kindOk via (body.getD 0 0) = true) (length : ∀ n ∈ fixedLength (body.getD 0 0).toNat, body.length = n)
    (s : State) : judge via (body ++ [a, b]) s = commitBody via body s := by
  rw [judge_staged nonempty, if_neg (not_not_intro right), known]
  refine (if_neg Bool.false_ne_true).trans (if_neg ?_)
  cases fixed : fixedLength (body.getD 0 0).toNat with
  | none => exact Bool.false_ne_true
  | some n => simp [length n fixed]

end

/-! ## Kinds and lengths (Table 9-1) -/

theorem kindOk_eq_false {via : Opened} {kind : Byte}
    (h : kind.toNat = 0 ∨ 11 < kind.toNat ∨ (via = .broadcast ∧ (kind = 2 ∨ kind = 3))) : kindOk via kind = false := by
  obtain zero | high | ⟨rfl, rfl | rfl⟩ := h
  · simp [kindOk, zero]
  · simp [kindOk, Nat.not_le.2 high]
  · rfl
  · rfl

/-- A kind that broadcast allows, the own address allows. -/
theorem kindOk_of_broadcast {kind : Byte} (h : kindOk .broadcast kind = true) (via : Opened) : kindOk via kind = true := by
  cases via with
  | broadcast => exact h
  | own => exact Bool.and_eq_true_iff.2 ⟨(Bool.and_eq_true_iff.1 h).1, rfl⟩

theorem kindOk_broadcast {kind : Byte} (low : 4 ≤ kind.toNat) (high : kind.toNat ≤ 11) : kindOk .broadcast kind = true := by
  have n2 : kind ≠ 2 := fun e => absurd (congrArg BitVec.toNat e) (Nat.ne_of_gt (Nat.lt_of_lt_of_le (by decide) low))
  have n3 : kind ≠ 3 := fun e => absurd (congrArg BitVec.toNat e) (Nat.ne_of_gt (Nat.lt_of_lt_of_le (by decide) low))
  have known : 1 ≤ kind.toNat := by omega
  simp only [kindOk, known, high, beq_eq_false_iff_ne.2 n2, beq_eq_false_iff_ne.2 n3]
  rfl

theorem kindOk_own {kind : Byte} (low : 1 ≤ kind.toNat) (high : kind.toNat ≤ 11) : kindOk .own kind = true := by
  simp [kindOk, low, high]

/-- The fixed lengths of the kinds both openings allow. -/
theorem fixedLength_shared {kind : Byte} {n : Nat}
    (h : (kind.toNat, n) ∈ [(4, 10), (5, 2), (7, 6), (8, 1), (9, 1), (10, 1), (11, 1)]) (via : Opened) :
    kindOk via kind = true ∧ fixedLength kind.toNat = some n := by
  simp only [List.mem_cons, Prod.mk.injEq, List.not_mem_nil, or_false] at h
  obtain ⟨e, rfl⟩ | ⟨e, rfl⟩ | ⟨e, rfl⟩ | ⟨e, rfl⟩ | ⟨e, rfl⟩ | ⟨e, rfl⟩ | ⟨e, rfl⟩ := h
  all_goals exact ⟨kindOk_of_broadcast (kindOk_broadcast (by omega) (by omega)) via, by rw [e]; rfl⟩

/-- The fixed lengths of the kinds that need the own address. -/
theorem fixedLength_own {kind : Byte} {n : Nat} (h : (kind.toNat, n) ∈ [(2, 5), (3, 3)]) :
    kindOk .own kind = true ∧ fixedLength kind.toNat = some n := by
  simp only [List.mem_cons, Prod.mk.injEq, List.not_mem_nil, or_false] at h
  obtain ⟨e, rfl⟩ | ⟨e, rfl⟩ := h
  all_goals exact ⟨kindOk_own (by omega) (by omega), by rw [e]; rfl⟩

/-! ## The rows of the kinds (Table 9-1) -/

theorem toNat_word16 (h g : Byte) : (BitVec.ofNat 16 (h.toNat * 256 + g.toNat)).toNat = h.toNat * 256 + g.toNat := by
  have hh := h.isLt
  have hg := g.isLt
  rw [BitVec.toNat_ofNat, Nat.mod_eq_of_lt (by omega)]

theorem toNat_word32 (m3 m2 m1 m0 : Byte) :
    (BitVec.ofNat 32 (m3.toNat * 16777216 + m2.toNat * 65536 + m1.toNat * 256 + m0.toNat)).toNat =
      (m3.toNat * 256 + m2.toNat) * 65536 + (m1.toNat * 256 + m0.toNat) := by
  have h3 := m3.isLt
  have h2 := m2.isLt
  have h1 := m1.isLt
  have h0 := m0.isLt
  rw [BitVec.toNat_ofNat, Nat.mod_eq_of_lt (by omega)]
  omega

theorem commitBody_short {more : List Byte} (h : more.length < 4) (via : Opened) (s : State) :
    commitBody via (1 :: more) s = outcome via 1 .badLength [] s := if_pos (Nat.succ_lt_succ h)

theorem commitBody_write (via : Opened) (t h g n : Byte) (records : List Byte) (s : State) :
    commitBody via ([1, t, h, g, n] ++ records) s =
      writeTransfer via t.toNat (h.toNat * 256 + g.toNat) n.toNat records s := by
  have long : ¬ ([1, t, h, g, n] ++ records).length < 5 := by simp
  simp only [commitBody, at_, at2]
  exact if_neg long

section
variable {v : State} (ho : v.owed = []) (via : Opened)

include ho

/-- A row that owes nothing ends where it is. -/
theorem finish_commit {t : State} (h : t.owed = (closeUnit v).owed) : finish t = t := finish_of_nothing_owed (h.trans ho)

theorem commit_writeTable (t h g n : Byte) (records : List Byte) :
    .next (finish (commitBody via ([1, t, h, g, n] ++ records) (closeUnit v))) =
      exec (.writeTable via t (BitVec.ofNat 16 (h.toNat * 256 + g.toNat)) n records) v := by
  rw [commitBody_write, finish_commit ho (writeTransfer_owed ..), exec_writeTable, toNat_word16]

theorem commit_readTable (t h g n : Byte) : .next (finish (commitBody via [2, t, h, g, n] (closeUnit v))) =
    exec (.readTable via t (BitVec.ofNat 16 (h.toNat * 256 + g.toNat)) n) v := by
  have row : ∀ w, exec (.readTable via t w n) v = .next (readTransfer via t.toNat w.toNat n.toNat (closeUnit v)) := fun _ => rfl
  rw [row, toNat_word16]
  exact congrArg Host.Outcome.next (finish_commit ho (readTransfer_owed via t.toNat _ n.toNat (closeUnit v)))

theorem commit_readState (view i : Byte) :
    .next (finish (commitBody via [3, view, i] (closeUnit v))) = exec (.readState via view i) v :=
  congrArg Host.Outcome.next (finish_commit ho (viewTransfer_owed via view i (closeUnit v)))

theorem commit_setClock (m3 m2 m1 m0 d1 d0 r1 r0 h : Byte) :
    .next (finish (commitBody via [4, m3, m2, m1, m0, d1, d0, r1, r0, h] (closeUnit v))) =
      exec (.setClock via (BitVec.ofNat 32 (m3.toNat * 16777216 + m2.toNat * 65536 + m1.toNat * 256 + m0.toNat))
        (BitVec.ofNat 16 (d1.toNat * 256 + d0.toNat)) (BitVec.ofNat 16 (r1.toNat * 256 + r0.toNat)) h) v := by
  have row : ∀ ms day rate, exec (.setClock via ms day rate h) v =
      .next (clockTransfer via ms.toNat day.toNat rate.toNat h (closeUnit v)) := fun _ _ _ => rfl
  rw [row, toNat_word16, toNat_word16, toNat_word32]
  exact congrArg Host.Outcome.next (finish_commit ho (clockTransfer_owed via _ _ _ h (closeUnit v)))

theorem commit_cueTransfer (c : Byte) :
    .next (finish (commitBody via [5, c] (closeUnit v))) = exec (.cueTransfer via c) v :=
  congrArg Host.Outcome.next (finish_commit ho (codeTransfer_owed via c.toNat (closeUnit v)))

theorem commit_notices (m e1 e0 c1 c0 : Byte) :
    .next (finish (commitBody via [7, m, e1, e0, c1, c0] (closeUnit v))) =
      exec (.notices via m (BitVec.ofNat 16 (e1.toNat * 256 + e0.toNat)) (BitVec.ofNat 16 (c1.toNat * 256 + c0.toNat))) v :=
  congrArg Host.Outcome.next (finish_commit ho (noticesTransfer_owed via m _ _ (closeUnit v)))

omit ho in
theorem commit_softReset : .next (finish (commitBody via [11] (closeUnit v))) = exec (.softReset via) v :=
  congrArg Host.Outcome.next (finish_of_nothing_owed (resetTransfer_owed via (closeUnit v)))

end

/-! ## The CLOSE -/

/-- Settles O19: the judging says which outcome or commit there is, and a commit is its row at the sent-on frame's state. -/
theorem closeJudgesTransfer : Obligations.CloseJudgesTransfer := by
  intro f l via s h0 h1 h2 hl ho opened bs v u done
  have refused : ∀ kind r, (∀ t, judge via s.xfer.buf t = outcome via kind r [] t) →
      exec (.downstreamFrame bs) s = done kind r := fun kind r judged =>
    (exec_close h0 h1 h2 hl ho opened judged (leavesSending_outcome via kind r)).trans
      (congrArg Host.Outcome.next (finish_of_nothing_owed ((outcome_owed ..).trans ho)))
  refine ⟨fun short => refused _ _ (judge_short short via), fun body a b nonempty staged wrong => refused _ _ fun t => ?_,
    fun body a b nonempty staged right unknown => refused _ _ fun t => ?_,
    fun kind more a b n staged right other fixed => refused _ _ fun t => ?_, fun body a b staged right => ?_⟩
  · rw [staged]
    exact judge_badCheck nonempty wrong via t
  · rw [staged]
    exact judge_badKind nonempty right (kindOk_eq_false unknown) t
  · have nonempty : kind :: more ≠ [] := List.cons_ne_nil _ _
    rw [staged]
    obtain shared | ⟨rfl, own⟩ | ⟨rfl, short⟩ := fixed
    · obtain ⟨known, length⟩ := fixedLength_shared shared via
      exact judge_badLength nonempty right known length other t
    · obtain ⟨known, length⟩ := fixedLength_own own
      exact judge_badLength nonempty right known length other t
    · rw [judge_commits nonempty right (kindOk_of_broadcast rfl via) (fun _ h => nomatch h)]
      exact commitBody_short short via t
  · have commits : ∀ kind : Byte, body.head? = some kind → kindOk via kind = true →
        (∀ n ∈ fixedLength kind.toNat, body.length = n) →
        exec (.downstreamFrame bs) s = .next (finish (commitBody via body (closeUnit v))) := fun kind first known length => by
      obtain ⟨more, rfl⟩ := List.head?_eq_some_iff.1 first
      exact exec_close h0 h1 h2 hl ho opened
        (fun t => staged ▸ judge_commits (List.cons_ne_nil kind more) right known length t) (leavesSending_commitBody via _)
    have shared : ∀ kind : Byte, kindOk .broadcast kind = true → kindOk via kind = true := fun _ h => kindOk_of_broadcast h via
    have fixed : ∀ {kind : Byte} {n : Nat}, fixedLength kind.toNat = some n → body.length = n →
        ∀ m ∈ fixedLength kind.toNat, body.length = m := fun e length m h => length.trans (Option.some.inj (e.symm.trans h))
    refine ⟨?_, ?_, ?_, ?_, ?_, ?_, ?_, ?_, ?_, ?_, ?_⟩
    · rintro t h g n records rfl
      exact (commits 1 rfl (shared 1 rfl) (fun _ h => nomatch h)).trans (commit_writeTable (v := v) ho via t h g n records)
    · rintro t h g n rfl rfl
      exact (commits 2 rfl rfl (fixed rfl rfl)).trans (commit_readTable (v := v) ho .own t h g n)
    · rintro view i rfl rfl
      exact (commits 3 rfl rfl (fixed rfl rfl)).trans (commit_readState (v := v) ho .own view i)
    · rintro m3 m2 m1 m0 d1 d0 r1 r0 h rfl
      exact (commits 4 rfl (shared 4 rfl) (fixed rfl rfl)).trans
        (commit_setClock (v := v) ho via m3 m2 m1 m0 d1 d0 r1 r0 h)
    · rintro c rfl
      exact (commits 5 rfl (shared 5 rfl) (fixed rfl rfl)).trans (commit_cueTransfer (v := v) ho via c)
    · rintro records rfl
      exact commits 6 rfl (shared 6 rfl) (fun _ h => nomatch h)
    · rintro m e1 e0 c1 c0 rfl
      exact (commits 7 rfl (shared 7 rfl) (fixed rfl rfl)).trans (commit_notices (v := v) ho via m e1 e0 c1 c0)
    · rintro rfl
      exact commits 8 rfl (shared 8 rfl) (fixed rfl rfl)
    · rintro rfl
      exact commits 9 rfl (shared 9 rfl) (fixed rfl rfl)
    · rintro rfl
      exact commits 10 rfl (shared 10 rfl) (fixed rfl rfl)
    · rintro rfl
      exact (commits 11 rfl (shared 11 rfl) (fixed rfl rfl)).trans (commit_softReset via)

end Sys2Proof.Machine
end

section
/-! The resets (R174, R175): POWER_ON_RESET and PIN_RESET give the reset values of every chapter from any state, and SOFT_RESET
keeps the tables and the link's timing. -/

namespace Sys2Proof.Machine

/-! ## Banks after a reset -/

/-- Every item of a bank that a reset fills holds the reset value. -/
theorem get_replicate {α : Type} {n : Nat} (x : α) (i : Fin n) : (Vector.replicate n x)[i] = x := by simp

theorem pins_low {s : State} (h : s.pinsLow = true) : pins s = Pins.low := if_pos h

/-! ## The hard resets (R175) -/

/-- A hard reset gives every field the value of the reset but three that are no part of the node, and the pin reset leaves the
window's output registers too (R129). -/
theorem exec_hardReset {c : Instr} (h : c = .powerOnReset ∨ c = .pinReset) (s : State) :
    ∃ latched, exec c s = .next { State.reset with
      pending := s.pending
      choices := s.choices
      drawn := s.drawn
      chain := { State.reset.chain with latched := latched } } := by
  obtain rfl | rfl := h
  · exact ⟨State.reset.chain.latched, rfl⟩
  · exact ⟨s.chain.latched, rfl⟩

/-- Settles O6: the one state of both hard resets, block by block. -/
theorem hardResetRuntimeValues : Obligations.HardResetRuntimeValues := by
  intro c s hard
  obtain ⟨latched, row⟩ := exec_hardReset hard s
  have axis : ∀ a : AxisId, State.reset.axes[a] = Axis.reset := get_replicate _
  have kindOn : ∀ k : Fin 13, (BitVec.allOnes 13).getLsbD k.val = true := by decide
  refine ⟨_, row, rfl, rfl, rfl, rfl, rfl, rfl, rfl, rfl, rfl, rfl, rfl, rfl, rfl, fun k => ⟨get_replicate _ k, kindOn k⟩, rfl,
    get_replicate _, rfl, get_replicate _, get_replicate _, get_replicate _, get_replicate _, get_replicate _,
    get_replicate _, get_replicate _, fun a => ?_, rfl, get_replicate _, rfl, rfl, rfl, get_replicate _, rfl, rfl,
    pins_low rfl⟩
  show State.reset.axes[a].state = _ ∧ _
  simp only [axis a, Axis.reset, and_self]

/-- Settles O7: the same state's tables, table by table. -/
theorem hardResetTableValues : Obligations.HardResetTableValues := by
  intro c s hard
  obtain ⟨latched, row⟩ := exec_hardReset hard s
  have entry : ∀ i : Fin 512, State.reset.tables.listMem[i] = ⟨true, 0, 0⟩ := get_replicate _
  have sec : ∀ n : SectionId, State.reset.tables.sections[n] = ⟨false, none, 0, 0, none, 0, 0, none, 0, 0, 0, 0⟩ :=
    get_replicate _
  have input : ∀ k : InputId, State.reset.tables.inMap[k] = ⟨.none, 0, 0, false⟩ := get_replicate _
  refine ⟨_, row, rfl, get_replicate _, get_replicate _, get_replicate _, fun i => ?_, get_replicate _, get_replicate _,
    get_replicate _, fun n => ?_, get_replicate _, get_replicate _, get_replicate _, get_replicate _, fun k => ?_,
    get_replicate _, rfl⟩
  · exact congrArg ListEntry.isEnd (entry i)
  · show State.reset.tables.sections[n].inUse = false ∧ _
    simp only [sec n, and_self]
  · show State.reset.tables.inMap[k].role = .none ∧ _
    simp only [input k, and_self]

/-! ## SOFT RESET (R174) -/

/-- A chain that table 0 does not configure is one with no register on either side (R124). -/
theorem chainState_softReset (s : State) : (if configured s then ChainState.ok else .off) =
    if s.tables.node.outRegs = 0 ∧ s.tables.node.inRegs = 0 then .off else .ok := by
  by_cases out : s.tables.node.outRegs = 0 <;> by_cases into : s.tables.node.inRegs = 0 <;> simp [configured, out, into]

/-- Each watch is matched afresh against the inputs of the reset chain (R135). -/
theorem softReset_watch (s : State) (w : WatchId) : (softResetState s).chain.watches[w] =
    ⟨watchMatches s.tables.watches[w] (inputValues (softResetState s)), 0⟩ := by
  refine (tab_get _ w).trans ?_
  rw [if_pos rfl, get_replicate]
  exact congrArg (fun values => Watch.mk (watchMatches s.tables.watches[w] values) 0) (inputValues_congr rfl rfl)

/-- The reply of a soft reset joins the empty queue of the reset node, and a broadcast has none. -/
theorem resetTransfer_eq (via : Opened) (s : State) : resetTransfer via s = { softResetState s with
    xfer := ⟨none, [], (match via with | .own => [⟨11, .ok, []⟩] | .broadcast => []), false⟩ } := by
  cases via
  · exact outcome_own_of_room (s := softResetState s) (Nat.zero_lt_succ 3)
  · exact outcome_broadcast_ok (kind := 11) (d := []) (s := softResetState s)

/-- Settles O8: the state after the reset, and its reply. -/
theorem softResetKeepsAndClears : Obligations.SoftResetKeepsAndClears := by
  intro via s
  have row : exec (.softReset via) s = .next (resetTransfer via s) := rfl
  have axis : ∀ a : AxisId, (softResetState s).axes[a] = Axis.reset := get_replicate _
  rw [resetTransfer_eq] at row
  refine ⟨_, row, rfl, rfl, rfl, rfl, rfl, rfl, rfl, rfl, rfl, rfl, rfl, rfl, rfl, get_replicate _, rfl, get_replicate _,
    get_replicate _, get_replicate _, get_replicate _, get_replicate _, get_replicate _, fun k => tab_get _ k, fun a => ?_,
    rfl, rfl, get_replicate _, chainState_softReset s, rfl, rfl, rfl, rfl, fun w => ?_, rfl⟩
  · show (softResetState s).axes[a].state = _ ∧ _
    simp only [axis a, Axis.reset, and_self]
  · exact softReset_watch s w

end Sys2Proof.Machine
end

section
/-! The completion check of dormant entry as DORMANT_COMPLETE makes it (R171). -/

namespace Sys2Proof.Machine

section
variable {s : State}

/-- The three conditions of R171, one by one. -/
theorem atStand_iff : atStand s = true ↔ (∀ t : TrainId, s.trains[t].speed = 0) ∧ s.chain.inFlight = none ∧
    ∀ a : AxisId, axisMoves s.axes[a] = false := by
  simp only [atStand, every, Bool.and_eq_true, List.all_eq_true, beq_iff_eq, Bool.not_eq_true', List.mem_finRange,
    forall_const, Option.isNone_iff_eq_none]
  exact ⟨fun ⟨⟨speeds, axes⟩, cycle⟩ => ⟨speeds, cycle, axes⟩, fun ⟨speeds, cycle, axes⟩ => ⟨⟨speeds, axes⟩, cycle⟩⟩

theorem nodeCheck_of_not_quiescing (h : s.node ≠ .quiescing) : nodeCheck s = s := if_neg h

/-- With no request of the entry still to be taken, a QUIESCING node is checked at once. -/
theorem nodeCheck_of_entry_taken (hq : s.node = .quiescing) (ho : s.owed.any ofEntry = false) :
    nodeCheck s = if atStand s then { s with node := .dormant } else s := by
  rw [nodeCheck, if_pos hq, if_neg (Bool.eq_false_iff.1 ho)]

/-- While a request of the entry is still to be taken, the check falls due. -/
theorem nodeCheck_of_entry_owed (hq : s.node = .quiescing) (ho : s.owed.any ofEntry = true) :
    nodeCheck s = { s with checkDue := true } := by
  rw [nodeCheck, if_pos hq, if_pos ho]

end

/-- Settles O49: with nothing owed the command is the check itself, and what stands is `atStand`. -/
theorem dormantCompleteChecksStand : Obligations.DormantCompleteChecksStand := by
  intro s ho stands
  have stands_iff : stands ↔ atStand s = true := by
    rw [atStand_iff]
    exact and_congr_right' (and_congr_right' (forall_congr' fun _ => axisMoves_eq_false_iff.symm))
  have taken : s.owed.any ofEntry = false := by rw [ho, List.any_nil]
  have row : exec .dormantComplete s = .next (nodeCheck s) := rfl
  refine ⟨fun hq all => ?_, fun h => ?_⟩
  · rw [row, nodeCheck_of_entry_taken hq taken, if_pos (stands_iff.1 all)]
  · by_cases hq : s.node = .quiescing
    · rw [row, nodeCheck_of_entry_taken hq taken, if_neg (mt stands_iff.2 (h.resolve_left (not_not.2 hq)))]
    · rw [row, nodeCheck_of_not_quiescing hq]

end Sys2Proof.Machine
end

section
/-! What tellings, grants, stops and halts do to the state, the target and the speed of each train (R77, R93, R96, R98, R101). -/

namespace Sys2Proof.Machine

/-! ## Tellings and grants (R77, R96) -/

/-- RUNNING, or in APPROACH with a speed: what dormant entry makes STOPPING (R93, R101). -/
def Rolling (x : Train) : Prop := x.state = .running ∨ (x.state = .approach ∧ 0 < x.speed)

/-- What a telling or a grant of another's section can make of a train: the speed stays, a train at rest or STOPPING keeps state
and target, and one that is RUNNING, APPROACH or WAITING is one of these after it, rolling if it was. -/
structure Told (x y : Train) : Prop where
  speed : y.speed = x.speed
  rests : restsAtDormant x = false → y.state = x.state ∧ y.target = x.target
  waits : restsAtDormant x = true → restsAtDormant y = true
  rolls : Rolling x → Rolling y

/-- Each train of `u` is what tellings and grants can make of that of `s`. -/
def ToldAll (s u : State) : Prop := ∀ k : TrainId, Told s.trains[k] u.trains[k]

section
variable {x y z : Train}

theorem restsAtDormant_congr (h : y.state = x.state) : restsAtDormant y = restsAtDormant x := by
  rw [restsAtDormant, restsAtDormant, h]

theorem restsAtDormant_iff : restsAtDormant x = true ↔ x.state = .running ∨ x.state = .approach ∨ x.state = .waiting := by
  cases h : x.state <;> simp [restsAtDormant, h]

theorem Rolling.restsAtDormant (h : Rolling x) : restsAtDormant x = true :=
  restsAtDormant_iff.2 (h.imp id fun approach => .inl approach.1)

/-- A train whose state, target and speed stay. -/
theorem Told.of_same (hs : y.state = x.state) (ht : y.target = x.target) (hv : y.speed = x.speed) : Told x y where
  speed := hv
  rests _ := ⟨hs, ht⟩
  waits h := (restsAtDormant_congr hs).trans h
  rolls h := by rwa [Rolling, hs, hv]

theorem Told.refl (x : Train) : Told x x := .of_same rfl rfl rfl

theorem Told.trans (h : Told x y) (k : Told y z) : Told x z where
  speed := k.speed.trans h.speed
  rests hx := by
    obtain ⟨state, target⟩ := h.rests hx
    obtain ⟨state', target'⟩ := k.rests ((restsAtDormant_congr state).trans hx)
    exact ⟨state'.trans state, target'.trans target⟩
  waits hx := k.waits (h.waits hx)
  rolls hx := k.rolls (h.rolls hx)

/-- A waiting train goes to RUNNING, or is held back in WAITING at speed 0 and in APPROACH above. -/
theorem Told.of_waiter (hx : x.state = .waiting ∨ x.state = .approach) (hv : y.speed = x.speed)
    (hy : y.state = .running ∨ y.state = if x.speed = 0 then .waiting else .approach) : Told x y where
  speed := hv
  rests h := by
    obtain ⟨-, approach, waiting⟩ := restsAtDormant_eq_false_iff.1 h
    exact absurd hx (not_or.2 ⟨waiting, approach⟩)
  waits _ := by
    refine restsAtDormant_iff.2 (hy.imp_right fun e => ?_)
    rw [e]
    split
    · exact .inr rfl
    · exact .inl rfl
  rolls h := by
    obtain running | ⟨-, moving⟩ := h
    · simp [running] at hx
    · rwa [if_neg moving.ne', ← and_iff_left (a := y.state = .approach) moving, ← hv] at hy

end

theorem ToldAll.refl (s : State) : ToldAll s s := fun _ => .refl _

theorem ToldAll.trans {s u v : State} (h : ToldAll s u) (k : ToldAll u v) : ToldAll s v := fun t => (h t).trans (k t)

/-- Each item of a fold tells. -/
theorem ToldAll.foldl {α : Type} {f : State → α → State} (h : ∀ u x, ToldAll u (f u x)) (xs : List α) (s : State) :
    ToldAll s (xs.foldl f s) :=
  foldl_keeps (P := ToldAll s) f xs (fun u x _ hu => hu.trans (h u x)) s (.refl s)

section
variable {t : TrainId} {s : State}

theorem toldAll_setTrain {x : Train} (h : Told s.trains[t] x) : ToldAll s (setTrain t x s) := fun k => by
  by_cases e : k = t
  · subst e
    rwa [setTrain_trains, get_set_same]
  · rw [setTrain_trains, get_set_ne _ _ e]
    exact .refl _

/-- A telling of SET starts a train in WAITING or APPROACH alone (R96). -/
theorem toldAll_tellSet (t : TrainId) (s : State) : ToldAll s (tellSet t s) := by
  unfold tellSet
  dsimp only
  split
  · exact .refl s
  · split
    · next waiting => exact toldAll_setTrain (.of_waiter (.inl waiting) rfl (.inl rfl))
    · next approach => exact toldAll_setTrain (.of_waiter (.inr approach) rfl (.inl rfl))
    · exact toldAll_setTrain (.of_same rfl rfl rfl)
    · exact toldAll_setTrain (.of_same rfl rfl rfl)
    all_goals exact .refl s

theorem toldAll_checkSetting (n : SectionId) (s : State) : ToldAll s (checkSetting n s) := by
  unfold checkSetting
  split
  · next k kept _ =>
    split
    · exact toldAll_tellSet k (setSec n { s.secs[n] with state := .reserved k .set kept } s)
    · exact .refl s
  all_goals exact .refl s

theorem toldAll_axisStandTold (a : AxisId) (s : State) : ToldAll s (axisStandTold a s) :=
  .foldl (fun u n => by
    split
    · exact toldAll_checkSetting n u
    · exact .refl u) _ s

theorem toldAll_putAxis (a : AxisId) (y : Axis × Bool) (s : State) : ToldAll s (putAxis a y s) := by
  unfold putAxis
  dsimp only
  split
  · exact toldAll_axisStandTold a (setAxis a y.1 s)
  · exact .refl s

/-- A grant to a waiter that agrees (R77, R95, R96). -/
theorem toldAll_grant {n f : SectionId} (hw : s.trains[t].state = .waiting ∨ s.trains[t].state = .approach) :
    ToldAll s (takeAnswer .keep t n (.granted (grant t f n s).1) (grant t f n s).2) := by
  have trains : (grant t f n s).2.trains = s.trains := (grant_rails t f n s).trains
  generalize grant t f n s = g at trains ⊢
  have told : Told s.trains[t] (answered g.2 .keep n (.granted g.1) s.trains[t]) := by
    cases g.1 with
    | set => exact .of_waiter hw rfl (.inl rfl)
    | setting =>
      refine .of_waiter hw ?_ (.inr ?_)
      all_goals
        simp only [answered, holdBack]
        split <;> rfl
  intro k
  rw [← trains]
  exact toldAll_setTrain (s := g.2) (by rwa [trains]) k

theorem toldAll_examineQueue (n : SectionId) (hw : WaitersSettled s) : ToldAll s (examineQueue n s) := by
  unfold examineQueue
  split
  · split
    · next t f first =>
      have waits : t ∈ s.secs[n].queue := (firstWaiter_spec first).1
      obtain ⟨placed, fit⟩ := hw n t waits
      exact toldAll_grant (fit.waitsFree (by rw [(placed.waits n).1 waits]; exact Option.some_ne_none n)).2
    · exact .refl s
  all_goals exact .refl s

/-- A re-evaluation grants to waiters (R77). -/
theorem toldAll_reevaluate (o : Option SectionId) (hw : WaitersSettled s) : ToldAll s (reevaluate o s) := by
  refine (foldl_keeps (P := fun u => ToldAll s u ∧ WaitersSettled u) _ _ (fun u n _ hu => ?_) s ⟨.refl s, hw⟩).1
  exact ⟨hu.1.trans (toldAll_examineQueue n hu.2), (examineQueue_regrants n hu.2).waiters hu.2⟩

/-! ## The stop of another train (R75, R93) -/

theorem dequeue_train_ne {k : TrainId} (hk : k ≠ t) (s : State) : (dequeue t s).trains[k] = s.trains[k] := by
  unfold dequeue
  split
  · rfl
  · exact get_set_ne _ _ hk

/-- A cancel frees a section, and another train may be granted it. -/
theorem told_cancel {k : TrainId} (h : Agree s) (hk : k ≠ t) : Told s.trains[k] (cancel t s).trains[k] := by
  have left : Agree (dequeue t s) := h.dequeue
  have alone : ∀ m : SectionId, t ∉ (dequeue t s).secs[m].queue :=
    (left.1 t).1.unqueued (congrArg Train.queued (dequeue_train t s))
  have same := dequeue_train_ne hk s
  unfold cancel
  dsimp only
  generalize dequeue t s = u at left alone same ⊢
  have kept : (setTrain t { u.trains[t] with res := none, arrival := none } u).trains[k] = s.trains[k] :=
    (get_set_ne _ _ hk).trans same
  split
  · rw [kept]
    exact .refl _
  · next n found =>
    obtain ⟨ph, was, reserved⟩ := reservedBy_some found
    have reserved : u.secs[n].state = .reserved t ph was := reserved
    have others : AgreeBut t (setSec n (vacated u.secs[n]) (setTrain t { u.trains[t] with res := none, arrival := none } u)) :=
      ((left.but t).putTrain (y := { u.trains[t] with res := none, arrival := none })).putSec
        (fun v hv => aside_owned (t := t) (.inl (by rw [setTrain_secs, reserved]; rfl)) (.inr (ownerOf_vacated _)) hv Iff.rfl)
        (left.2.vacated (by rw [reserved]; exact SecState.noConfusion))
    have told := toldAll_reevaluate (vacateTrigger n u.secs[n])
      (others.waiters (forall_set (P := fun y : Section => t ∉ y.queue) alone (alone n))) k
    rwa [setSec_trains, kept] at told

theorem told_stopCancelled {k : TrainId} (h : Agree s) (hk : k ≠ t) :
    Told s.trains[k] (stopCancelled t s).trains[k] := by
  have kept : (stopCancelled t s).trains[k] = (cancel t s).trains[k] := get_set_ne _ _ hk
  rw [kept]
  exact told_cancel h hk

/-- A train brought to rest leaves the others as they are, or frees a section for them. -/
theorem told_restTrain {k : TrainId} (h : Agree s) (hk : k ≠ t) : Told s.trains[k] (restTrain t s).trains[k] := by
  have put : ∀ (x : Train) (u : State), u.trains[k] = s.trains[k] → Told s.trains[k] (setTrain t x u).trains[k] :=
    fun x u e => by
      rw [setTrain_trains, get_set_ne _ _ hk, e]
      exact .refl _
  unfold restTrain
  split
  · unfold trainStop
    dsimp only
    split
    · exact .refl _
    · exact .refl _
    · exact .refl _
    · exact told_stopCancelled h hk
    · exact put _ s rfl
    · exact put _ _ (dequeue_train_ne hk s)
    · split
      · exact told_stopCancelled h hk
      · exact .refl _
  · exact .refl _

/-! ## Dormant entry of the trains (R101) -/

/-- What dormant entry makes of a train: at rest or STOPPING it keeps its state; RUNNING or rolling in APPROACH it is STOPPING;
and otherwise it is STOPPED or STOPPING. -/
structure Rested (x y : Train) : Prop where
  rests : restsAtDormant x = false → y.state = x.state
  waits : restsAtDormant x = true → y.state = .stopped ∨ y.state = .stopping
  rolls : Rolling x → y.state = .stopping

section
variable {x y z : Train}

theorem Rested.restsAtDormant (h : Rested x y) : restsAtDormant y = false := by
  cases hx : Machine.restsAtDormant x with
  | false => exact (restsAtDormant_congr (h.rests hx)).trans hx
  | true =>
    obtain stopped | stopping := h.waits hx
    · rw [Machine.restsAtDormant, stopped]
    · rw [Machine.restsAtDormant, stopping]

/-- Tellings before the train's own rest. -/
theorem Told.rested (h : Told x y) (k : Rested y z) : Rested x z where
  rests hx := by
    obtain ⟨state, -⟩ := h.rests hx
    exact (k.rests ((restsAtDormant_congr state).trans hx)).trans state
  waits hx := k.waits (h.waits hx)
  rolls hx := k.rolls (h.rolls hx)

/-- Tellings after it. -/
theorem Rested.told (h : Rested x y) (k : Told y z) : Rested x z := by
  have state : z.state = y.state := (k.rests h.restsAtDormant).1
  exact ⟨fun hx => state.trans (h.rests hx), fun hx => by rw [state]; exact h.waits hx, fun hx => state.trans (h.rolls hx)⟩

/-- A train that dormant entry has not to reach. -/
theorem Told.rested_of_rests (h : Told x y) (hx : Machine.restsAtDormant x = false) : Rested x y where
  rests _ := (h.rests hx).1
  waits hr := absurd (hx.symm.trans hr) Bool.false_ne_true
  rolls hr := absurd (hx.symm.trans hr.restsAtDormant) Bool.false_ne_true

end

/-- The train that is brought to rest (R93, R101). -/
theorem rested_restTrain (t : TrainId) (s : State) : Rested s.trains[t] (restTrain t s).trains[t] := by
  have put : ∀ (x : Train) (u : State), Rested s.trains[t] x → Rested s.trains[t] (setTrain t x u).trains[t] :=
    fun x u h => by rwa [setTrain_trains, get_set_same]
  have stopping : ∀ {x y : Train}, Machine.restsAtDormant x = true → y.state = .stopping → Rested x y := fun hx hy =>
    ⟨fun e => absurd (e.symm.trans hx) Bool.false_ne_true, fun _ => .inr hy, fun _ => hy⟩
  cases hr : restsAtDormant s.trains[t] with
  | false =>
    rw [restTrain, if_neg (Bool.eq_false_iff.1 hr)]
    exact (Told.refl _).rested_of_rests hr
  | true =>
    rw [restTrain, if_pos hr, trainStop]
    obtain running | approach | waiting := restsAtDormant_iff.1 hr
    · rw [running]
      exact put _ s (stopping hr rfl)
    · rw [approach]
      exact put _ (dequeue t s) (stopping hr rfl)
    · rw [waiting]
      refine put _ (cancel t s) ⟨fun e => absurd (e.symm.trans hr) Bool.false_ne_true, fun _ => .inl rfl, fun rolling => ?_⟩
      simp [-Fin.getElem_fin, Rolling, waiting] at rolling

/-- Trains brought to rest one after another. -/
theorem rested_restEach {ts : List TrainId} (once : ts.Nodup) : ∀ {s : State}, Agree s → ∀ k : TrainId,
    (k ∈ ts → Rested s.trains[k] (ts.foldl (fun u t => restTrain t u) s).trains[k]) ∧
      (k ∉ ts → Told s.trains[k] (ts.foldl (fun u t => restTrain t u) s).trains[k]) := by
  induction ts with
  | nil => exact fun _ k => ⟨fun mem => absurd mem List.not_mem_nil, fun _ => .refl _⟩
  | cons t ts ih =>
    intro s h k
    obtain ⟨new, once⟩ := List.nodup_cons.1 once
    obtain ⟨rest, spare⟩ := ih once (h.restTrain (t := t)) k
    by_cases e : k = t
    · subst e
      exact ⟨fun _ => (rested_restTrain k s).told (spare new), fun out => absurd List.mem_cons_self out⟩
    · have before := told_restTrain h e
      exact ⟨fun mem => before.rested (rest ((List.mem_cons.1 mem).resolve_left e)),
        fun out => before.trans (spare fun mem => out (List.mem_cons_of_mem t mem))⟩

/-- Dormant entry in every order of the trains (R101). -/
theorem rested_restTrains (h : Agree s) (k : TrainId) : Rested s.trains[k] (restTrains s).trains[k] := by
  have rails := arrange_rails ((every 4).filter fun t => restsAtDormant s.trains[t]) s
  have once : (arrange ((every 4).filter fun t => restsAtDormant s.trains[t]) s).1.Nodup :=
    (arrange_perm _ s).nodup_iff.2 ((List.nodup_finRange 4).filter _)
  have mem : k ∈ (arrange ((every 4).filter fun t => restsAtDormant s.trains[t]) s).1 ↔ restsAtDormant s.trains[k] = true := by
    rw [mem_arrange, List.mem_filter]
    exact and_iff_right (List.mem_finRange k)
  obtain ⟨rest, spare⟩ := rested_restEach once (h.rails rails) k
  rw [rails.trains] at rest spare
  cases hr : restsAtDormant s.trains[k] with
  | true => exact rest (mem.2 hr)
  | false => exact (spare fun there => Bool.false_ne_true (hr.symm.trans (mem.1 there))).rested_of_rests hr

/-- Where no train is RUNNING, APPROACH or WAITING, dormant entry changes nothing. -/
theorem restTrains_of_rests (h : ∀ k : TrainId, restsAtDormant s.trains[k] = false) : restTrains s = s := by
  have none : (every 4).filter (fun t => restsAtDormant s.trains[t]) = [] := filter_every_none h
  rw [restTrains, none, arrange_short (xs := []) s (Nat.zero_le 1), List.foldl_nil]

/-! ## Halts (R98) -/

/-- What a halt makes of a train. -/
def haltedBy (reason : HaltReason) (x : Train) : Train := if haltReaches reason x then halted reason x else x

theorem halt_train (reason : HaltReason) (t : TrainId) (s : State) :
    (halt reason t s).trains[t] = haltedBy reason s.trains[t] := by
  unfold halt haltedBy
  split
  · refine (get_set_same _ _ _).trans ?_
    rw [dequeue_train]
    rfl
  · rfl

theorem halt_train_ne {k : TrainId} (reason : HaltReason) (hk : k ≠ t) (s : State) :
    (halt reason t s).trains[k] = s.trains[k] := by
  unfold halt
  split
  · exact (get_set_ne _ _ hk).trans (dequeue_train_ne hk s)
  · rfl

/-- A halt of every train it reaches, in every order of them. -/
theorem haltAll_train (reason : HaltReason) (k : TrainId) (s : State) :
    (haltAll reason s).trains[k] = haltedBy reason s.trains[k] := by
  have halts := foldl_counts (P := fun _ => True) (f := fun u t => halt reason t u) (obs := fun u : State => u.trains[k])
    (g := haltedBy reason) (a := k) (fun u _ => halt_train reason k u)
    (xs := (arrange ((every 4).filter fun t => haltReaches reason s.trains[t]) s).1) (fun _ _ _ _ => trivial)
    (fun _ _ other u _ => halt_train_ne reason other.symm u)
    (arrange ((every 4).filter fun t => haltReaches reason s.trains[t]) s).2 trivial
  refine halts.trans ?_
  rw [(arrange_perm _ s).count_eq, (arrange_rails _ s).trains]
  have once : ((every 4).filter fun t => haltReaches reason s.trains[t]).Nodup := (List.nodup_finRange 4).filter _
  have mem : k ∈ (every 4).filter (fun t => haltReaches reason s.trains[t]) ↔ haltReaches reason s.trains[k] = true :=
    List.mem_filter.trans (and_iff_right (List.mem_finRange k))
  by_cases reached : haltReaches reason s.trains[k] = true
  · rw [List.count_eq_one_of_mem once (mem.2 reached)]
    rfl
  · rw [List.count_eq_zero_of_not_mem (mt mem.1 reached), haltedBy, if_neg reached]
    rfl

end

end Sys2Proof.Machine
end

section
/-! What dormant entry and ALL STOP make of each axis (R114, R115, R121, R122), and what dormant entry of the trains leaves of the
axes: only a guard axis may be sent to its guard position by a grant (R71, R77, R119). -/

namespace Sys2Proof.Machine

/-- What the Reservation, Train and Axis Units leave of the state. -/
theorem leaves_of_others {β : Type} {obs : State → β} (free : ∀ u, obs (othersOf u) = obs u) {s t : State}
    (h : othersOf t = othersOf s) : obs t = obs s :=
  (free t).symm.trans ((congrArg obs h).trans (free s))

theorem tables_of_others {s t : State} (h : othersOf t = othersOf s) : t.tables = s.tables :=
  leaves_of_others (obs := State.tables) (fun _ => rfl) h

/-! ## One axis after another -/

/-- A stand is told to the Reservation Unit, which changes no axis (R81, R115). -/
@[simp] theorem putAxis_axes (a : AxisId) (y : Axis × Bool) (s : State) : (putAxis a y s).axes = s.axes.set a y.1 := by
  unfold putAxis
  dsimp only
  split
  · exact axisStandTold_axes a _
  · rfl

/-- Axis `a` comes to be `x`, with or without a stand, or is left as it is. -/
inductive AxisPut (a : AxisId) (x : Axis) (s : State) : State → Prop where
  | stays (h : s.axes[a] = x) : AxisPut a x s s
  | put (stand : Bool) : AxisPut a x s (putAxis a (x, stand) s)

namespace AxisPut

variable {a b : AxisId} {x : Axis} {s u : State}

theorem axis (h : AxisPut a x s u) : u.axes[a] = x := by
  cases h with
  | stays h => exact h
  | put stand => rw [putAxis_axes, get_set_same]

theorem other (h : AxisPut a x s u) (ne : b ≠ a) : u.axes[b] = s.axes[b] := by
  cases h with
  | stays h => rfl
  | put stand => rw [putAxis_axes, get_set_ne _ _ ne]

theorem told (h : AxisPut a x s u) : ToldAll s u := by
  cases h with
  | stays h => exact .refl s
  | put stand => exact toldAll_putAxis a (x, stand) s

theorem tables (h : AxisPut a x s u) : u.tables = s.tables := by
  cases h with
  | stays h => rfl
  | put stand => exact tables_of_others ((closed_others s).putAxis rfl trivial)

end AxisPut

/-- Where the axes are handled one by one, an axis is as it was when its turn comes, and as its turn leaves it at the end. -/
theorem axis_turn {f : State → AxisId → State} {P : State → Prop} (keeps : ∀ u b, P u → P (f u b))
    (others : ∀ u b a, a ≠ b → (f u b).axes[a] = u.axes[a]) (a : AxisId) {s : State} (hs : P s) :
    ∃ u, P u ∧ u.axes[a] = s.axes[a] ∧ ((every 6).foldl f s).axes[a] = (f u a).axes[a] := by
  obtain ⟨before, after, split⟩ := List.append_of_mem (List.mem_finRange a)
  have once : (before ++ a :: after).Nodup := split ▸ List.nodup_finRange 6
  obtain ⟨out, -⟩ := List.nodup_cons.1 (List.nodup_middle.1 once)
  have passes : ∀ (bs : List AxisId), a ∉ bs → ∀ u, (bs.foldl f u).axes[a] = u.axes[a] := fun bs out u =>
    foldl_keeps (P := fun v => v.axes[a] = u.axes[a]) f bs
      (fun v b mem same => (others v b a fun e => out (e ▸ mem)).trans same) u rfl
  refine ⟨before.foldl f s, foldl_keeps f before (fun u b _ => keeps u b) s hs,
    passes before (fun mem => out (List.mem_append_left _ mem)) s, ?_⟩
  rw [every, split, List.foldl_append, List.foldl_cons]
  exact passes after (fun mem => out (List.mem_append_right _ mem)) _

/-! ## ALL STOP (R121) -/

/-- ALL STOP of one axis. -/
def allStopped (r : AxisRec) (x : Axis) : Axis :=
  if r.inUse then
    match x.state with
    | .homing | .seeking | .running => (stopOrder r x).1
    | .following => { (stopOrder r x).1 with follow := false }
    | .idle | .holding | .stopping | .fault _ => x
  else x

theorem allStopAxis_put (a : AxisId) (s : State) :
    AxisPut a (allStopped s.tables.axes[a] s.axes[a]) s (allStopAxis a s) := by
  unfold allStopAxis allStopped stopAxis
  split
  · cases s.axes[a].state with
    | homing | seeking | running | following => exact .put _
    | idle | holding | stopping | fault => exact .stays rfl
  · exact .stays rfl

theorem allStopAxes_axis (a : AxisId) (s : State) : (allStopAxes s).axes[a] = allStopped s.tables.axes[a] s.axes[a] := by
  obtain ⟨u, tables, same, turn⟩ := axis_turn (f := fun u b => allStopAxis b u) (P := fun u => u.tables = s.tables)
    (fun u b h => (allStopAxis_put b u).tables.trans h) (fun u b a ne => (allStopAxis_put b u).other ne) a rfl
  exact turn.trans (by rw [(allStopAxis_put a u).axis, tables, same])

theorem toldAll_allStopAxes (s : State) : ToldAll s (allStopAxes s) := .foldl (fun u a => (allStopAxis_put a u).told) _ s

/-! ## Dormant entry (R122) -/

/-- Dormant entry of one axis: `hold` is the dormant clock policy, `locked` the lock of a guard axis (R63). -/
def restedAxis (hold locked : Bool) (r : AxisRec) (x : Axis) : Axis :=
  if r.inUse then
    match x.state with
    | .running => if !locked && x.known then (seekOrder r r.park x).1 else (stopOrder r x).1
    | .following => if hold then { toHolding r x.arrived x with follow := true } else x
    | .homing | .seeking | .stopping | .idle | .holding | .fault _ => x
  else x

theorem restAxis_put (hold : Bool) (a : AxisId) (s : State) :
    AxisPut a (restedAxis hold (axisLocked s a) s.tables.axes[a] s.axes[a]) s (restAxis hold a s) := by
  unfold restAxis restedAxis stopAxis
  dsimp only
  split
  · cases s.axes[a].state with
    | running => dsimp only; split <;> exact .put _
    | following =>
      dsimp only
      split
      · exact .put true
      · exact .stays rfl
    | homing | seeking | stopping | idle | holding | fault => exact .stays rfl
  · exact .stays rfl

/-- Each axis has its own dormant entry, with the lock that holds as its turn comes. -/
theorem restAxes_axis (hold : Bool) (a : AxisId) (s : State) : ∃ u, u.tables = s.tables ∧
    (restAxes hold s).axes[a] = restedAxis hold (axisLocked u a) s.tables.axes[a] s.axes[a] := by
  obtain ⟨u, tables, same, turn⟩ := axis_turn (f := fun u b => restAxis hold b u) (P := fun u => u.tables = s.tables)
    (fun u b h => (restAxis_put hold b u).tables.trans h) (fun u b a ne => (restAxis_put hold b u).other ne) a rfl
  exact ⟨u, tables, turn.trans (by rw [(restAxis_put hold a u).axis, tables, same])⟩

/-- An axis that no record of a section names is locked by none (R63). -/
theorem axisLocked_of_unnamed {s : State} {a : AxisId} (h : ∀ n : SectionId, s.tables.sections[n].guardAxis ≠ some a) :
    axisLocked s a = false := by
  rw [axisLocked, axisLockers_eq_nil fun n named => absurd named (h n)]
  rfl

theorem restAxes_axis_of_unnamed {s : State} {a : AxisId} (hold : Bool)
    (h : ∀ n : SectionId, s.tables.sections[n].guardAxis ≠ some a) :
    (restAxes hold s).axes[a] = restedAxis hold false s.tables.axes[a] s.axes[a] := by
  obtain ⟨u, tables, turn⟩ := restAxes_axis hold a s
  rwa [axisLocked_of_unnamed (tables ▸ h)] at turn

theorem toldAll_restAxes (hold : Bool) (s : State) : ToldAll s (restAxes hold s) :=
  .foldl (fun u a => (restAxis_put hold a u).told) _ s

section
variable {hold locked : Bool} {r : AxisRec} {x : Axis}

/-- An axis that is neither RUNNING nor FOLLOWING is left. -/
theorem restedAxis_of_left (h : r.inUse = false ∨ (x.state ≠ .running ∧ x.state ≠ .following)) :
    restedAxis hold locked r x = x := by
  unfold restedAxis
  split
  · next used =>
    obtain ⟨running, following⟩ := h.resolve_left (by rw [used]; exact nofun)
    split
    · next e => exact absurd e running
    · next e => exact absurd e following
    all_goals rfl
  · rfl

theorem restedAxis_of_following (hu : r.inUse = true) (hs : x.state = .following) :
    restedAxis hold locked r x = if hold then { toHolding r x.arrived x with follow := true } else x := by
  rw [restedAxis, if_pos hu, hs]

theorem restedAxis_of_running (hu : r.inUse = true) (hs : x.state = .running) :
    restedAxis hold locked r x = if !locked && x.known then (seekOrder r r.park x).1 else (stopOrder r x).1 := by
  rw [restedAxis, if_pos hu, hs]

/-- An axis that stands (R115). -/
theorem toHolding_stands (r : AxisRec) (b : Bool) (x : Axis) :
    (toHolding r b x).v = 0 ∧ ((toHolding r b x).state = .idle ∨ (toHolding r b x).state = .holding) := by
  refine ⟨rfl, ?_⟩
  show (if r.holdSteps = 0 then AxisState.idle else .holding) = .idle ∨
    (if r.holdSteps = 0 then AxisState.idle else .holding) = .holding
  split
  · exact .inl rfl
  · exact .inr rfl

/-- A turn-about keeps state and target. -/
theorem turnAbout_state_target (r : AxisRec) (d : Dir) (kept : Option Nat) (x : Axis) :
    (turnAbout r d kept x).state = x.state ∧ (turnAbout r d kept x).target = x.target := by
  unfold turnAbout
  split
  · exact ⟨rfl, rfl⟩
  · split
    · exact ⟨rfl, rfl⟩
    · exact ⟨rfl, rfl⟩

/-- A seek order is at its target, or is SEEKING it (R110). -/
theorem seekOrder_seeks (r : AxisRec) (p : Nat) (x : Axis) : (seekOrder r p x).1 = toHolding r true x ∨
    ((seekOrder r p x).1.state = .seeking ∧ (seekOrder r p x).1.target = some (takeTarget r p)) := by
  unfold seekOrder
  dsimp only
  split
  · exact .inl rfl
  · refine .inr ?_
    split
    · exact ⟨rfl, rfl⟩
    · split
      · exact ⟨rfl, rfl⟩
      · exact turnAbout_state_target ..

theorem stopOrder_of_slow (hs : x.state = .homing ∨ x.state = .seeking ∨ x.state = .running) (hv : x.v ≤ r.vs) :
    (stopOrder r x).1 = toHolding r false x := by
  obtain e | e | e := hs <;> simp only [stopOrder, e, if_pos hv]

theorem stopOrder_of_fast (hs : x.state = .homing ∨ x.state = .seeking ∨ x.state = .running) (hv : ¬ x.v ≤ r.vs) :
    (stopOrder r x).1 = { x with
      state := .stopping, target := if x.turn = none then x.target else x.stopPt, runSpeed := none, turn := none,
      stopPt := none, homePhase := none, homeCount := 0 } := by
  have target : (match x.turn with | some _ => x.stopPt | none => x.target) =
      if x.turn = none then x.target else x.stopPt := by
    cases x.turn <;> rfl
  obtain e | e | e := hs <;> simp only [stopOrder, e, if_neg hv, ← target] <;> rfl

/-- No axis is RUNNING after its dormant entry. -/
theorem restedAxis_not_running (hx : x.state ≠ .running) : (restedAxis hold locked r x).state ≠ .running := by
  by_cases left : r.inUse = false ∨ (x.state ≠ .running ∧ x.state ≠ .following)
  · rwa [restedAxis_of_left left]
  · simp only [not_or, Bool.not_eq_false, not_and, not_not] at left
    rw [restedAxis_of_following left.1 (left.2 hx)]
    split
    · obtain ⟨-, idle | holding⟩ := toHolding_stands r x.arrived x
      · exact idle.trans_ne nofun
      · exact holding.trans_ne nofun
    · exact hx

/-- An axis that moves and is not RUNNING goes on. -/
theorem restedAxis_of_moving (hx : x.state ≠ .running) (hm : axisMoves x = true) : restedAxis hold locked r x = x := by
  refine restedAxis_of_left (.inr ⟨hx, fun following => ?_⟩)
  rw [axisMoves, following] at hm
  cases hm

/-- An axis that does not move is not set moving. -/
theorem restedAxis_still (hm : axisMoves x = false) : axisMoves (restedAxis hold locked r x) = false := by
  obtain ⟨-, -, running, -⟩ := axisMoves_eq_false_iff.1 hm
  by_cases left : r.inUse = false ∨ (x.state ≠ .running ∧ x.state ≠ .following)
  · rwa [restedAxis_of_left left]
  · simp only [not_or, Bool.not_eq_false, not_and, not_not] at left
    rw [restedAxis_of_following left.1 (left.2 running)]
    split
    · exact axisMoves_toHolding r x.arrived x
    · exact hm

end

/-! ## What dormant entry of the trains leaves (R101) -/

/-- `u` comes from `z` by grants and stops: each speed stays, an axis that guards nothing stays, and no axis is RUNNING that was
not. -/
structure Mild (z u : State) : Prop where
  tables : u.tables = z.tables
  speed : ∀ k : TrainId, u.trains[k].speed = z.trains[k].speed
  unnamed : ∀ a : AxisId, (∀ n : SectionId, z.tables.sections[n].guardAxis ≠ some a) → u.axes[a] = z.axes[a]
  running : ∀ a : AxisId, z.axes[a].state ≠ .running → u.axes[a].state ≠ .running

namespace Mild

variable {z u : State} {t : TrainId} {n : SectionId}

theorem refl (s : State) : Mild s s := ⟨rfl, fun _ => rfl, fun _ _ => rfl, fun _ h => h⟩

theorem setSec (h : Mild z u) {x : Section} : Mild z (setSec n x u) := ⟨h.tables, h.speed, h.unnamed, h.running⟩

theorem setTrain (h : Mild z u) {x : Train} (hx : x.speed = u.trains[t].speed) : Mild z (setTrain t x u) :=
  ⟨h.tables, fun k => (setTrain_speed hx k).trans (h.speed k), h.unnamed, h.running⟩

theorem arrange (h : Mild z u) {α : Type} {xs : List α} : Mild z (arrange xs u).2 := by
  obtain ⟨cs, m, e⟩ := arrange_snd xs u
  rw [e]
  exact ⟨h.tables, h.speed, h.unnamed, h.running⟩

theorem throwRequest (h : Mild z u) {q : PointNeed} : Mild z (throwRequest q u) := by
  unfold Machine.throwRequest
  dsimp only
  split
  · exact ⟨h.tables, h.speed, h.unnamed, h.running⟩
  · split
    · exact h
    · exact ⟨h.tables, h.speed, h.unnamed, h.running⟩

/-- A guard axis is sent to its guard position, or stands there (R119). -/
theorem orderGuard (h : Mild z u) : Mild z (orderGuard n u) := by
  unfold Machine.orderGuard
  split
  · exact h
  · next a named =>
    split
    · exact h
    · unfold Machine.guardSeek
      dsimp only
      split
      · exact h
      · refine ⟨h.tables, h.speed, fun b unnamed => ?_, fun b running => ?_⟩
        · have ne : b ≠ a := fun e => unnamed n (by rw [← h.tables, e]; exact named)
          exact (get_set_ne _ _ ne).trans (h.unnamed b unnamed)
        · by_cases e : b = a
          · subst e
            rw [setAxis_axes, get_set_same]
            show (seekOrder _ _ _).1.state ≠ .running
            obtain stands | ⟨seeking, -⟩ := seekOrder_seeks u.tables.axes[b] u.tables.sections[n].guardPos u.axes[b]
            · obtain ⟨-, idle | holding⟩ := toHolding_stands u.tables.axes[b] true u.axes[b]
              · exact (congrArg Axis.state stands).trans_ne (idle.trans_ne nofun)
              · exact (congrArg Axis.state stands).trans_ne (holding.trans_ne nofun)
            · exact seeking.trans_ne nofun
          · rw [setAxis_axes, get_set_ne _ _ e]
            exact h.running b running

theorem grant (h : Mild z u) {f : SectionId} : Mild z (grant t f n u).2 := by
  have reserved : Mild z (Machine.setSec n { u.secs[n] with
      state := .reserved t .setting f, queue := u.secs[n].queue.filter (· != t) } u) := h.setSec
  unfold Machine.grant
  dsimp only
  have ordered := (foldl_keeps (P := Mild z) (fun v q => if pointStands v q then v else Machine.throwRequest q v)
    (pointNeeds u.tables.sections f n) (fun v q _ hv => by
      split
      · exact hv
      · exact hv.throwRequest) _ reserved).orderGuard (n := n)
  split
  · exact ordered.setSec
  · exact ordered

theorem answered_speed (s : State) (n : SectionId) (a : Answer) (x : Train) :
    (answered s .keep n a x).speed = x.speed := by
  unfold answered
  split
  · rfl
  all_goals
    simp only [holdBack]
    split <;> rfl

theorem examineQueue (h : Mild z u) : Mild z (examineQueue n u) := by
  unfold Machine.examineQueue
  split
  · split
    · exact h.grant.setTrain (answered_speed ..)
    · exact h
  all_goals exact h

theorem reevaluate (h : Mild z u) {o : Option SectionId} : Mild z (reevaluate o u) :=
  foldl_keeps (P := Mild z) _ _ (fun _ _ _ hv => hv.examineQueue) u h

theorem dequeue (h : Mild z u) : Mild z (dequeue t u) := by
  unfold Machine.dequeue
  split
  · exact h
  · exact h.setSec.setTrain rfl

theorem cancel (h : Mild z u) : Mild z (cancel t u) := by
  unfold Machine.cancel
  dsimp only
  split
  · exact h.dequeue.setTrain rfl
  · have left : Mild z (Machine.setTrain t (unreserve (Machine.dequeue t u).trains[t]) (Machine.dequeue t u)) :=
      h.dequeue.setTrain rfl
    exact left.setSec.reevaluate

theorem stopCancelled (h : Mild z u) : Mild z (stopCancelled t u) := h.cancel.setTrain rfl

theorem restTrain (h : Mild z u) : Mild z (restTrain t u) := by
  unfold Machine.restTrain
  split
  · unfold Machine.trainStop
    dsimp only
    split
    · exact h
    · exact h
    · exact h
    · exact h.stopCancelled
    · exact h.setTrain rfl
    · exact h.dequeue.setTrain rfl
    · split
      · exact h.stopCancelled
      · exact h
  · exact h

theorem restTrains (s : State) : Mild s (restTrains s) :=
  foldl_keeps (P := Mild s) _ _ (fun _ _ _ hv => hv.restTrain) _ (refl s).arrange

end Mild

end Sys2Proof.Machine
end

section
/-! Node Control's requests as the blocks take them at the end of a command (R170, R172, R173; log entry 6): what one request
brings about and the others keep holds at the end, in every order. -/

namespace Sys2Proof.Machine

/-! ## Requests in any order -/

/-- A statement that does not speak of Node Control's own fields. -/
def Uncontrolled (P : State → Prop) : Prop :=
  ∀ u owed due node, P u → P { u with owed := owed, checkDue := due, node := node }

section
variable {P Q : State → Prop} {qs : List Req} {q : Req}

/-- The checks of a request touch no such statement. -/
theorem Uncontrolled.reqEvent (hP : Uncontrolled P) {u : State} (h : P (runReq q u)) : P (reqEvent q u) := by
  obtain ⟨c, n, e⟩ := reqEvent_eq q u
  rw [e]
  exact hP _ _ c n h

/-- What every request keeps holds after all of them. -/
theorem takeReqs_keeps {left : List Req} (hP : Uncontrolled P) (keeps : ∀ q ∈ qs, ∀ u, P u → P (runReq q u)) :
    ∀ {s : State}, P s → P (takeReqs left qs s) := by
  induction qs with
  | nil => exact fun {s} h => hP s left s.checkDue s.node h
  | cons p qs ih =>
    intro s h
    obtain ⟨first, rest⟩ := List.forall_mem_cons.1 keeps
    exact ih rest (hP.reqEvent (first _ (hP s (qs ++ left) s.checkDue s.node h)))

/-- What one request brings about, and the others keep before and after it, holds after all of them. -/
theorem takeReqs_brings {left : List Req} (hP : Uncontrolled P) (hQ : Uncontrolled Q)
    (brings : ∀ u, P u → Q (runReq q u)) (once : qs.Nodup) (mem : q ∈ qs)
    (before : ∀ p ∈ qs, p ≠ q → ∀ u, P u → P (runReq p u)) (after : ∀ p ∈ qs, p ≠ q → ∀ u, Q u → Q (runReq p u)) :
    ∀ {s : State}, P s → Q (takeReqs left qs s) := by
  induction qs with
  | nil => exact absurd mem List.not_mem_nil
  | cons p qs ih =>
    intro s h
    obtain ⟨new, once⟩ := List.nodup_cons.1 once
    obtain ⟨first, rest⟩ := List.forall_mem_cons.1 before
    obtain ⟨-, last⟩ := List.forall_mem_cons.1 after
    have start : P { s with owed := qs ++ left } := hP s (qs ++ left) s.checkDue s.node h
    by_cases e : p = q
    · subst e
      exact takeReqs_keeps hQ (fun r mem => last r mem fun e => new (e ▸ mem)) (hQ.reqEvent (brings _ start))
    · exact ih once ((List.mem_cons.1 mem).resolve_left (Ne.symm e)) rest last (hP.reqEvent (first e _ start))

/-- A value that one request alone changes is changed once. -/
theorem takeReqs_once {β : Type} {left : List Req} (obs : State → β)
    (free : ∀ u owed due node, obs { u with owed := owed, checkDue := due, node := node } = obs u) (g : β → β)
    (own : ∀ u, obs (runReq q u) = g (obs u)) (once : qs.Nodup) (mem : q ∈ qs)
    (others : ∀ p ∈ qs, p ≠ q → ∀ u, obs (runReq p u) = obs u) (s : State) : obs (takeReqs left qs s) = g (obs s) :=
  takeReqs_brings (P := fun u => obs u = obs s) (Q := fun u => obs u = g (obs s))
    (fun u _ _ _ h => (free u _ _ _).trans h) (fun u _ _ _ h => (free u _ _ _).trans h)
    (fun u h => (own u).trans (congrArg g h)) once mem (fun p hp ne u h => (others p hp ne u).trans h)
    (fun p hp ne u h => (others p hp ne u).trans h) rfl

/-- A value that no request changes. -/
theorem takeReqs_leaves {β : Type} {left : List Req} (obs : State → β)
    (free : ∀ u owed due node, obs { u with owed := owed, checkDue := due, node := node } = obs u)
    (leaves : ∀ p ∈ qs, ∀ u, obs (runReq p u) = obs u) (s : State) : obs (takeReqs left qs s) = obs s :=
  takeReqs_keeps (P := fun u => obs u = obs s) (fun u _ _ _ h => (free u _ _ _).trans h)
    (fun p hp u h => (leaves p hp u).trans h) rfl

end

/-- A node that is not QUIESCING stays as it is: no check changes it (R171). -/
theorem takeReqs_node {left qs : List Req} {s : State} (h : s.node ≠ .quiescing) : (takeReqs left qs s).node = s.node := by
  induction qs generalizing s with
  | nil => rfl
  | cons q qs ih =>
    have ran : (runReq q { s with owed := qs ++ left }).node = s.node := (Rests.runReq_node_owed q _).1
    have after : afterEvent { s with owed := qs ++ left } (runReq q { s with owed := qs ++ left }) =
        runReq q { s with owed := qs ++ left } := by
      rw [afterEvent, nodeCheck_of_not_quiescing (by rwa [ran]), ite_self]
    have event : (reqEvent q { s with owed := qs ++ left }).node = s.node := by
      rw [reqEvent, after, dueCheck]
      split
      · rw [nodeCheck_of_not_quiescing (by rwa [ran])]
        exact ran
      · exact ran
    exact (ih (event.trans_ne h)).trans event

/-! ## A command that asks Node Control -/

/-- The reply of a transfer changes the Transfer Unit and the notices alone (R155). -/
theorem outcome_eq (via : Opened) (kind : Byte) (r : Result) (d : List Byte) (s : State) :
    ∃ x n, outcome via kind r d s = { s with xfer := x, notices := n } := by
  cases via with
  | own =>
    obtain room | full := Nat.lt_or_ge s.xfer.replies.length 4
    · exact ⟨_, s.notices, outcome_own_of_room room⟩
    · exact ⟨s.xfer, _, outcome_own_of_full full⟩
  | broadcast =>
    by_cases ok : r = .ok
    · subst ok
      exact ⟨s.xfer, s.notices, outcome_broadcast_ok⟩
    · exact ⟨s.xfer, _, outcome_broadcast_rejected ok⟩

/-- A transfer that hands requests on is accepted, and the blocks take them at its end in some order. -/
theorem finish_handOn (via : Opened) (kind : Byte) (rs : List Req) {z : State} (ho : z.owed = []) :
    ∃ cs m x ns qs, qs.Perm rs ∧ ns.latches[NoticeKind.wake.idx] = latchOf z .wake ∧
      finish (outcome via kind .ok [] (handOn rs z)) =
        takeReqs [] qs { z with choices := cs, drawn := m, owed := qs, xfer := x, notices := ns } := by
  obtain ⟨cs, m, drawn⟩ := arrange_snd rs z
  have handed : handOn rs z = { z with choices := cs, drawn := m, owed := (arrange rs z).1 } := by
    rw [handOn]
    simp only [drawn, ho, List.nil_append]
  obtain ⟨x, ns, e⟩ := outcome_eq via kind .ok [] (handOn rs z)
  have kept := latchOf_outcome_ok (k := .wake) nofun via kind [] (handOn rs z)
  rw [e, handed] at kept
  refine ⟨cs, m, x, ns, (arrange rs z).1, arrange_perm rs z, kept, ?_⟩
  rw [e, handed, finish]

end Sys2Proof.Machine
end

section
/-! WAKE ends the rest (R172), and ALL STOP (R173), in every order of the blocks. -/

namespace Sys2Proof.Machine

/-! ## WAKE (R38, R122, R172) -/

/-- The mark goes at a wake (R122). -/
theorem wakeAxis_follow (x : Axis) : (wakeAxis x).follow = false := by
  unfold wakeAxis
  split
  · split <;> rfl
  · next unmarked => exact Bool.eq_false_of_not_eq_true unmarked

theorem wakeAxis_unmarked {x : Axis} (h : x.follow = false) : wakeAxis x = x := if_neg (by rw [h]; exact nofun)

/-- A marked axis at rest that knows its position follows again (R122). -/
theorem wakeAxis_resumes {x : Axis} (hf : x.follow = true) (hk : x.known = true) (hs : x.state = .idle ∨ x.state = .holding) :
    (wakeAxis x).state = .following := by
  obtain e | e := hs <;> simp only [wakeAxis, hf, hk, e, if_true, followOrder]

/-- Every PAUSED player goes on (R38). -/
theorem wakeLists_players (s : State) : (wakeLists s).players = tab fun p =>
    { s.players[p] with state := if s.players[p].state = .paused then .playing else s.players[p].state } := by
  refine congrArg tab (funext fun p => ?_)
  generalize s.players[p] = x
  obtain ⟨state, index, countdown⟩ := x
  cases state <;> rfl

/-- The three requests of a wake. -/
def wakeReqs : List Req := [.wakeClock, .wakeLists, .wakeAxes]

theorem wake_of_resting {s : State} (h : s.node ≠ .active) (src : WakeSource) :
    wake src s = handOn wakeReqs (latch .wake (.wake src) { s with node := .active }) := by
  unfold wake
  split
  · next active => exact absurd active h
  all_goals rfl

theorem wake_of_active {s : State} (h : s.node = .active) (src : WakeSource) : wake src s = s := by rw [wake, h]

section
variable {qs : List Req} (perm : qs.Perm wakeReqs)
include perm

theorem mem_wakeReqs {q : Req} : q ∈ qs ↔ q = .wakeClock ∨ q = .wakeLists ∨ q = .wakeAxes := by
  rw [perm.mem_iff]
  simp [wakeReqs]

theorem nodup_wakeReqs : qs.Nodup := perm.nodup_iff.2 (by decide)

theorem takeReqs_wake_clock (s : State) : (takeReqs [] qs s).clock = { s.clock with dormantHold := false } := by
  refine takeReqs_once (q := .wakeClock) State.clock (fun _ _ _ _ => rfl) (fun c => { c with dormantHold := false })
    (fun _ => rfl) (nodup_wakeReqs perm) ((mem_wakeReqs perm).2 (.inl rfl)) (fun p mem ne u => ?_) s
  obtain rfl | rfl | rfl := (mem_wakeReqs perm).1 mem
  · exact absurd rfl ne
  · rfl
  · rfl

theorem takeReqs_wake_player (s : State) (p : PlayerId) : (takeReqs [] qs s).players[p] =
    { s.players[p] with state := if s.players[p].state = .paused then .playing else s.players[p].state } := by
  have players := takeReqs_once (left := []) (q := .wakeLists) State.players (fun _ _ _ _ => rfl)
    (fun v => tab fun p => { v[p] with state := if v[p].state = .paused then .playing else v[p].state }) wakeLists_players
    (nodup_wakeReqs perm) ((mem_wakeReqs perm).2 (.inr (.inl rfl))) (fun p mem ne u => by
      obtain rfl | rfl | rfl := (mem_wakeReqs perm).1 mem
      · rfl
      · exact absurd rfl ne
      · rfl) s
  rw [players]
  exact tab_get _ p

theorem takeReqs_wake_axis (s : State) (a : AxisId) : (takeReqs [] qs s).axes[a] = wakeAxis s.axes[a] := by
  have axes := takeReqs_once (left := []) (q := .wakeAxes) State.axes (fun _ _ _ _ => rfl)
    (fun v => tab fun a => wakeAxis v[a]) (fun _ => rfl) (nodup_wakeReqs perm)
    ((mem_wakeReqs perm).2 (.inr (.inr rfl))) (fun p mem ne u => by
      obtain rfl | rfl | rfl := (mem_wakeReqs perm).1 mem
      · rfl
      · rfl
      · exact absurd rfl ne) s
  rw [axes]
  exact tab_get _ a

theorem takeReqs_wake_rest (s : State) : (takeReqs [] qs s).notices = s.notices ∧ (takeReqs [] qs s).trains = s.trains ∧
    (takeReqs [] qs s).tables = s.tables := by
  have rest := takeReqs_leaves (left := []) (fun u => (u.notices, u.trains, u.tables)) (fun _ _ _ _ => rfl) (fun p mem u => by
    obtain rfl | rfl | rfl := (mem_wakeReqs perm).1 mem <;> rfl) s
  simpa only [Prod.mk.injEq] using rest

end

/-- Settles O47: the three requests of the wake change the clock, the players and the axes, each its own. -/
theorem wakeTransferEndsRest : Obligations.WakeTransferEndsRest := by
  intro via s ho
  have row : exec (.wakeTransfer via) s = .next (finish (outcome via 9 .ok [] (wake .transfer (closeUnit s)))) := rfl
  refine ⟨fun active => ?_, fun resting => ?_⟩
  · have owed : (outcome via 9 .ok [] (closeUnit s)).owed = [] := (outcome_owed ..).trans ho
    rw [row, wake_of_active (s := closeUnit s) active, finish_of_nothing_owed owed]
    rfl
  · rw [wake_of_resting (s := closeUnit s) resting] at row
    obtain ⟨cs, m, x, ns, qs, perm, latched, done⟩ := finish_handOn via 9 wakeReqs
      (z := latch .wake (.wake .transfer) { closeUnit s with node := .active }) ho
    rw [done] at row
    obtain ⟨notices, trains, tables⟩ := takeReqs_wake_rest perm _
    refine ⟨_, row, takeReqs_active [] qs rfl, takeReqs_owed [] qs _, ?_, takeReqs_wake_clock perm _,
      takeReqs_wake_player perm _, fun a => ?_, trains, tables⟩
    · rw [latchOf, notices]
      exact latched.trans (latchOf_latch _ _ _)
    · rw [takeReqs_wake_axis perm _ a]
      exact ⟨wakeAxis_follow _, wakeAxis_unmarked, wakeAxis_resumes⟩

/-! ## ALL STOP (R98, R114, R121, R173) -/

/-- What ALL STOP makes of a train (R98). -/
structure StoppedTrain (x y : Train) : Prop where
  moving : x.state = .waiting ∨ x.state = .running ∨ x.state = .approach ∨ x.state = .stopping →
    y.state = .halted .allstop ∧ y.target = 0
  halted : ∀ why, x.state = .halted why →
    y.target = 0 ∧ y.state = .halted (if why = .overrun ∨ why = .lost ∨ why = .length then why else .allstop)
  standing : x.state = .parked ∨ x.state = .stopped → y.state = x.state

section
variable {x y z : Train}

/-- A train that ALL STOP has reached or has not to reach is at rest for every telling. -/
theorem StoppedTrain.restsAtDormant (h : StoppedTrain x y) : restsAtDormant y = false := by
  have rests : ∀ {st : TrainState}, y.state = st → Machine.restsAtDormant { y with state := st } = false →
      Machine.restsAtDormant y = false := fun e h => by rwa [← e] at h
  cases e : x.state with
  | waiting => exact rests (h.moving (.inl e)).1 rfl
  | running => exact rests (h.moving (.inr (.inl e))).1 rfl
  | approach => exact rests (h.moving (.inr (.inr (.inl e)))).1 rfl
  | stopping => exact rests (h.moving (.inr (.inr (.inr e)))).1 rfl
  | halted why => exact rests (h.halted why e).2 rfl
  | parked => exact rests ((h.standing (.inl e)).trans e) rfl
  | stopped => exact rests ((h.standing (.inr e)).trans e) rfl

theorem StoppedTrain.told (h : StoppedTrain x y) (k : Told y z) : StoppedTrain x z := by
  obtain ⟨state, target⟩ := k.rests h.restsAtDormant
  exact ⟨fun e => by rw [state, target]; exact h.moving e, fun why e => by rw [state, target]; exact h.halted why e,
    fun e => state.trans (h.standing e)⟩

/-- The halt of ALL STOP reaches every train but those PARKED or STOPPED. -/
theorem haltedBy_allstop (hp : y.state ≠ .parked) (hs : y.state ≠ .stopped) :
    (haltedBy .allstop y).state = .halted (haltReason .allstop y.state) ∧ (haltedBy .allstop y).target = 0 := by
  have reached : haltReaches .allstop y = true := by
    unfold haltReaches
    cases e : y.state <;> simp_all
  rw [haltedBy, if_pos reached]
  exact ⟨rfl, rfl⟩

/-- The halt after any tellings. -/
theorem Told.stopped (h : Told x y) : StoppedTrain x (haltedBy .allstop y) where
  moving hx := by
    by_cases hr : Machine.restsAtDormant x = true
    · have moves := restsAtDormant_iff.1 (h.waits hr)
      obtain ⟨state, target⟩ := haltedBy_allstop (y := y) (by rintro e; simp [e] at moves) (by rintro e; simp [e] at moves)
      refine ⟨state.trans ?_, target⟩
      obtain e | e | e := moves <;> rw [e] <;> rfl
    · have stopping : x.state = .stopping := by
        rw [restsAtDormant_iff] at hr
        tauto
      have same : y.state = .stopping := (h.rests (Bool.eq_false_of_not_eq_true hr)).1.trans stopping
      obtain ⟨state, target⟩ := haltedBy_allstop (y := y) (same.trans_ne nofun) (same.trans_ne nofun)
      exact ⟨state.trans (by rw [same]; rfl), target⟩
  halted why hx := by
    have same : y.state = .halted why := (h.rests (by rw [Machine.restsAtDormant, hx])).1.trans hx
    obtain ⟨state, target⟩ := haltedBy_allstop (y := y) (same.trans_ne nofun) (same.trans_ne nofun)
    refine ⟨target, state.trans ?_⟩
    rw [same]
    cases why <;> rfl
  standing hx := by
    have same : y.state = x.state := (h.rests (by obtain e | e := hx <;> rw [Machine.restsAtDormant, e])).1
    have spared : haltReaches .allstop y = false := by
      obtain e | e := hx <;> simp only [haltReaches, same, e]
    rw [haltedBy, if_neg (Bool.eq_false_iff.1 spared)]
    exact same

end

/-- ALL STOP of an axis, by its state (R121). -/
theorem allStopped_of_left {r : AxisRec} {x : Axis} (h : x.state = .idle ∨ x.state = .holding ∨ x.state = .stopping ∨
    ∃ why, x.state = .fault why) : allStopped r x = x := by
  unfold allStopped
  split
  · obtain e | e | e | ⟨why, e⟩ := h <;> rw [e]
  · rfl

theorem allStopped_of_moving {r : AxisRec} {x : Axis} (hu : r.inUse = true)
    (h : x.state = .homing ∨ x.state = .seeking ∨ x.state = .running) : allStopped r x = (stopOrder r x).1 := by
  rw [allStopped, if_pos hu]
  obtain e | e | e := h <;> rw [e]

theorem allStopped_of_following {r : AxisRec} {x : Axis} (hu : r.inUse = true) (h : x.state = .following) :
    allStopped r x = { toHolding r x.arrived x with follow := false } := by
  rw [allStopped, if_pos hu, h, stopOrder, h]

/-- A halt changes no axis. -/
theorem haltAll_axes (reason : HaltReason) (s : State) : (haltAll reason s).axes = s.axes := by
  have halts := foldl_keeps (P := ButRails (arrange ((every 4).filter fun t => haltReaches reason s.trains[t]) s).2)
    (fun u t => halt reason t u) (arrange ((every 4).filter fun t => haltReaches reason s.trains[t]) s).1
    (fun _ _ _ hu => hu.halt) _ (.refl _)
  exact halts.axes.trans (arrange_axes _ s)

section
variable {qs : List Req} (perm : qs.Perm [.stopTrains, .stopAxes])
include perm

theorem mem_stopReqs {q : Req} : q ∈ qs ↔ q = .stopTrains ∨ q = .stopAxes := by
  rw [perm.mem_iff]
  simp

theorem nodup_stopReqs : qs.Nodup := perm.nodup_iff.2 (by decide)

/-- The trains' halt, before or after the tellings of the axes' stands. -/
theorem takeReqs_stop_train (s : State) : ∀ k : TrainId, StoppedTrain s.trains[k] (takeReqs [] qs s).trains[k] := by
  refine takeReqs_brings (q := .stopTrains) (P := ToldAll s)
    (Q := fun u => ∀ k : TrainId, StoppedTrain s.trains[k] u.trains[k]) (fun _ _ _ _ h => h) (fun _ _ _ _ h => h)
    (fun u told k => ?_) (nodup_stopReqs perm) ((mem_stopReqs perm).2 (.inl rfl)) (fun p mem ne u told => ?_)
    (fun p mem ne u stopped k => ?_) (.refl s)
  · show StoppedTrain _ (haltAll .allstop u).trains[k]
    rw [haltAll_train]
    exact (told k).stopped
  · obtain rfl | rfl := (mem_stopReqs perm).1 mem
    · exact absurd rfl ne
    · exact told.trans (toldAll_allStopAxes u)
  · obtain rfl | rfl := (mem_stopReqs perm).1 mem
    · exact absurd rfl ne
    · exact (stopped k).told (toldAll_allStopAxes u k)

/-- Each axis by its own stop. -/
theorem takeReqs_stop_axis (s : State) (a : AxisId) :
    (takeReqs [] qs s).axes[a] = allStopped s.tables.axes[a] s.axes[a] := by
  have halted : ∀ u, (runReq .stopTrains u).axes[a] = u.axes[a] := fun u =>
    congrArg (fun v : Vector Axis 6 => v[a]) (haltAll_axes .allstop u)
  have others : ∀ p ∈ qs, p ≠ .stopAxes → p = .stopTrains := fun p mem ne => ((mem_stopReqs perm).1 mem).resolve_right ne
  refine takeReqs_brings (left := []) (q := .stopAxes) (P := fun u => u.tables = s.tables ∧ u.axes[a] = s.axes[a])
    (Q := fun u => u.axes[a] = allStopped s.tables.axes[a] s.axes[a]) (fun _ _ _ _ h => h) (fun _ _ _ _ h => h)
    (fun u start => ?_) (nodup_stopReqs perm) ((mem_stopReqs perm).2 (.inr rfl))
    (fun p mem ne u start => ?_) (fun p mem ne u stopped => ?_) (And.intro rfl rfl)
  · obtain ⟨tables, same⟩ := start
    exact (allStopAxes_axis a u).trans (by rw [tables, same])
  · obtain ⟨tables, same⟩ := start
    rw [others p mem ne]
    exact ⟨(tables_of_others ((closed_others u).haltAll rfl)).trans tables, (halted u).trans same⟩
  · rw [others p mem ne]
    exact (halted u).trans stopped

theorem takeReqs_stop_blocks (s : State) : (takeReqs [] qs s).clock = s.clock ∧ (takeReqs [] qs s).players = s.players ∧
    (takeReqs [] qs s).lamp = s.lamp ∧ (takeReqs [] qs s).chain = s.chain ∧ (takeReqs [] qs s).tables = s.tables := by
  have leaves : ∀ {u t : State}, othersOf t = othersOf u → _ :=
    leaves_of_others (obs := fun u => (u.clock, u.players, u.lamp, u.chain, u.tables)) (fun _ => rfl)
  have blocks := takeReqs_leaves (left := []) (fun u => (u.clock, u.players, u.lamp, u.chain, u.tables))
    (fun _ _ _ _ => rfl) (fun p mem u => by
      obtain rfl | rfl := (mem_stopReqs perm).1 mem
      · exact leaves ((closed_others u).haltAll rfl)
      · exact leaves ((closed_others u).allStopAxes rfl)) s
  simpa only [Prod.mk.injEq] using blocks

end

/-- Settles O48: the trains by the halt, each axis by its own stop, in either order of the two requests. -/
theorem allStopHaltsTrainsAndAxes : Obligations.AllStopHaltsTrainsAndAxes := by
  intro via s ho
  have row : exec (.allStopTransfer via) s =
      .next (finish (outcome via 10 .ok [] (handOn [.stopTrains, .stopAxes] (closeUnit s)))) := rfl
  obtain ⟨cs, m, x, ns, qs, perm, -, done⟩ := finish_handOn via 10 [.stopTrains, .stopAxes] (z := closeUnit s) ho
  rw [done] at row
  let w : State := { closeUnit s with choices := cs, drawn := m, owed := qs, xfer := x, notices := ns }
  obtain ⟨clock, players, lamp, chain, tables⟩ := takeReqs_stop_blocks perm w
  have node : ∀ {n : NodeState}, n ≠ .quiescing → s.node = n → (takeReqs [] qs w).node = n := fun ne e =>
    (takeReqs_node (s := w) (e.trans_ne ne)).trans e
  refine ⟨_, row, takeReqs_owed [] qs w, tables, node nofun, node nofun, fun k => ?_, fun a used => ?_, clock, players, lamp,
    chain⟩
  · obtain ⟨moving, halted, standing⟩ := takeReqs_stop_train perm w k
    exact ⟨moving, halted, standing⟩
  · have axis := takeReqs_stop_axis perm w a
    refine ⟨fun moving => ?_, fun following => ?_, fun left => ?_⟩
    · rw [axis]
      refine (allStopped_of_moving used moving).trans ?_
      split
      · next slow => exact stopOrder_of_slow moving slow
      · next fast => exact stopOrder_of_fast moving fast
    · rw [axis]
      exact allStopped_of_following used following
    · rw [axis]
      exact allStopped_of_left left

end Sys2Proof.Machine
end

section
/-! Dormant entry (R101, R122, R162, R169, R170, R171): the four requests of the entry, each with its own part, and the node's state
when they have all been taken. -/

namespace Sys2Proof.Machine

/-! ## The four requests (R170) -/

/-- The requests of dormant entry; `hold` is the dormant clock policy. -/
def restReqs (hold : Bool) : List Req := [.restClock hold, .restLists, .restTrains, .restAxes hold]

/-- Every PLAYING player is PAUSED (R38). -/
theorem restLists_players (s : State) : (restLists s).players = tab fun p =>
    { s.players[p] with state := if s.players[p].state = .playing then .paused else s.players[p].state } := by
  refine congrArg tab (funext fun p => ?_)
  generalize s.players[p] = x
  obtain ⟨state, index, countdown⟩ := x
  cases state <;> rfl

/-- Under the policy HOLD the dormant hold is set (R23). -/
theorem runReq_restClock (hold : Bool) (s : State) : runReq (.restClock hold) s =
    { s with clock := { s.clock with dormantHold := s.clock.dormantHold || hold } } := by
  cases hold with
  | true => simp only [Bool.or_true]; rfl
  | false => simp only [Bool.or_false]; rfl

section
variable {hold : Bool} {q : Req}

theorem mem_restReqs :
    q ∈ restReqs hold ↔ q = .restClock hold ∨ q = .restLists ∨ q = .restTrains ∨ q = .restAxes hold := by
  simp [restReqs]

theorem nodup_restReqs : (restReqs hold).Nodup := by simp [restReqs]

theorem ofEntry_of_restReqs (h : q ∈ restReqs hold) : ofEntry q = true := by
  obtain rfl | rfl | rfl | rfl := mem_restReqs.1 h <;> rfl

/-- The clock and the players have a request each, and the other two leave them. -/
theorem restReq_leaves {β : Type} {obs : State → β} (free : ∀ u, obs (othersOf u) = obs u) (h : q ∈ restReqs hold)
    (u : State) (clock : ∀ c, obs { u with clock := c } = obs u ∨ q ≠ .restClock hold)
    (lists : obs (restLists u) = obs u ∨ q ≠ .restLists) : obs (runReq q u) = obs u := by
  obtain rfl | rfl | rfl | rfl := mem_restReqs.1 h
  · rw [runReq_restClock]
    exact (clock _).resolve_right (not_not.2 rfl)
  · exact lists.resolve_right (not_not.2 rfl)
  · exact leaves_of_others free ((closed_others u).restTrains rfl)
  · exact leaves_of_others free ((closed_others u).restAxes rfl)

/-- What all four leave of the node and its other blocks. -/
theorem restReq_node (h : q ∈ restReqs hold) (u : State) : (runReq q u).node = u.node ∧ (runReq q u).owed = u.owed ∧
    (runReq q u).checkDue = u.checkDue ∧ (runReq q u).tables = u.tables ∧ (runReq q u).lamp = u.lamp ∧
    (runReq q u).chain = u.chain := by
  have leaves := restReq_leaves (obs := fun u => (u.node, u.owed, u.checkDue, u.tables, u.lamp, u.chain)) (fun _ => rfl) h u
    (fun _ => .inl rfl) (.inl rfl)
  simpa only [Prod.mk.injEq] using leaves

/-- The trains have a request of their own; the others at most tell them of stands. -/
theorem toldAll_restReq (h : q ∈ restReqs hold) (ne : q ≠ .restTrains) (u : State) : ToldAll u (runReq q u) := by
  obtain rfl | rfl | rfl | rfl := mem_restReqs.1 h
  · rw [runReq_restClock]
    exact .refl u
  · exact .refl u
  · exact absurd rfl ne
  · exact toldAll_restAxes hold u

/-- No request changes a cab speed (R101). -/
theorem restReq_speed (h : q ∈ restReqs hold) (u : State) (k : TrainId) : (runReq q u).trains[k].speed = u.trains[k].speed := by
  by_cases e : q = .restTrains
  · rw [e]
    exact (Mild.restTrains u).speed k
  · exact (toldAll_restReq h e u k).speed

/-- The axes have a request of their own; that of the trains may send a guard axis to its guard position. -/
theorem restReq_axes (h : q ∈ restReqs hold) (ht : q ≠ .restTrains) (ha : q ≠ .restAxes hold) (u : State) :
    (runReq q u).axes = u.axes := by
  obtain rfl | rfl | rfl | rfl := mem_restReqs.1 h
  · rw [runReq_restClock]
  · rfl
  · exact absurd rfl ht
  · exact absurd rfl ha

theorem restReq_unnamed {a : AxisId} {u : State} (h : q ∈ restReqs hold) (ha : q ≠ .restAxes hold)
    (unnamed : ∀ n : SectionId, u.tables.sections[n].guardAxis ≠ some a) : (runReq q u).axes[a] = u.axes[a] := by
  by_cases e : q = .restTrains
  · rw [e]
    exact (Mild.restTrains u).unnamed a unnamed
  · rw [restReq_axes h e ha]

/-- Where no train is to be brought to rest, the requests before and after that of the axes change the clock and the players
alone. -/
theorem restReq_eq {u : State} (h : q ∈ restReqs hold) (ha : q ≠ .restAxes hold)
    (rests : ∀ k : TrainId, restsAtDormant u.trains[k] = false) :
    ∃ c p, runReq q u = { u with clock := c, players := p } := by
  obtain rfl | rfl | rfl | rfl := mem_restReqs.1 h
  · exact ⟨_, u.players, runReq_restClock hold u⟩
  · exact ⟨u.clock, _, rfl⟩
  · exact ⟨u.clock, u.players, restTrains_of_rests rests⟩
  · exact absurd rfl ha

end

/-! ## What the four bring about, in every order -/

section
variable {hold : Bool} {qs : List Req} (perm : qs.Perm (restReqs hold))
include perm

theorem takeReqs_rest_clock (s : State) :
    (takeReqs [] qs s).clock = { s.clock with dormantHold := s.clock.dormantHold || hold } :=
  takeReqs_once (q := .restClock hold) State.clock (fun _ _ _ _ => rfl)
    (fun c => { c with dormantHold := c.dormantHold || hold }) (fun u => by rw [runReq_restClock])
    (perm.nodup_iff.2 nodup_restReqs) (perm.mem_iff.2 (mem_restReqs.2 (.inl rfl)))
    (fun _ mem ne u => restReq_leaves (obs := State.clock) (fun _ => rfl) (perm.mem_iff.1 mem) u (fun _ => .inr ne) (.inl rfl)) s

theorem takeReqs_rest_player (s : State) (p : PlayerId) : (takeReqs [] qs s).players[p] =
    { s.players[p] with state := if s.players[p].state = .playing then .paused else s.players[p].state } := by
  have players := takeReqs_once (left := []) (q := .restLists) State.players (fun _ _ _ _ => rfl)
    (fun v => tab fun p => { v[p] with state := if v[p].state = .playing then .paused else v[p].state }) restLists_players
    (perm.nodup_iff.2 nodup_restReqs) (perm.mem_iff.2 (mem_restReqs.2 (.inr (.inl rfl))))
    (fun _ mem ne u => restReq_leaves (obs := State.players) (fun _ => rfl) (perm.mem_iff.1 mem) u (fun _ => .inl rfl)
      (.inr ne)) s
  rw [players]
  exact tab_get _ p

theorem takeReqs_rest_blocks (s : State) : (takeReqs [] qs s).tables = s.tables ∧ (takeReqs [] qs s).lamp = s.lamp ∧
    (takeReqs [] qs s).chain = s.chain := by
  have blocks := takeReqs_leaves (left := []) (fun u => (u.tables, u.lamp, u.chain)) (fun _ _ _ _ => rfl) (fun p mem u => by
    obtain ⟨-, -, -, tables, lamp, chain⟩ := restReq_node (perm.mem_iff.1 mem) u
    rw [tables, lamp, chain]) s
  simpa only [Prod.mk.injEq] using blocks

/-- The trains' rest, before or after the tellings of the axes' stands. -/
theorem takeReqs_rest_train {s : State} (h : Agree s) : ∀ k : TrainId, Rested s.trains[k] (takeReqs [] qs s).trains[k] := by
  refine takeReqs_brings (left := []) (q := .restTrains) (P := fun u => Agree u ∧ ToldAll s u)
    (Q := fun u => ∀ k : TrainId, Rested s.trains[k] u.trains[k]) (fun _ _ _ _ h => h) (fun _ _ _ _ h => h)
    (fun u start k => ?_) (perm.nodup_iff.2 nodup_restReqs) (perm.mem_iff.2 (mem_restReqs.2 (.inr (.inr (.inl rfl)))))
    (fun p mem ne u start => ?_) (fun p mem ne u rested k => ?_) ⟨h, .refl s⟩
  · obtain ⟨agree, told⟩ := start
    exact (told k).rested (rested_restTrains agree k)
  · obtain ⟨agree, told⟩ := start
    exact ⟨agree.runReq, told.trans (toldAll_restReq (perm.mem_iff.1 mem) ne u)⟩
  · exact (rested k).told (toldAll_restReq (perm.mem_iff.1 mem) ne u k)

/-- An axis that guards no section has its own dormant entry (R122). -/
theorem takeReqs_rest_axis {s : State} {a : AxisId} (unnamed : ∀ n : SectionId, s.tables.sections[n].guardAxis ≠ some a) :
    (takeReqs [] qs s).axes[a] = restedAxis hold false s.tables.axes[a] s.axes[a] := by
  have keeps : ∀ p ∈ qs, p ≠ .restAxes hold → ∀ u, u.tables = s.tables →
      (runReq p u).tables = s.tables ∧ (runReq p u).axes[a] = u.axes[a] := fun p mem ne u tables => by
    obtain ⟨-, -, -, tables', -, -⟩ := restReq_node (perm.mem_iff.1 mem) u
    exact ⟨tables'.trans tables, restReq_unnamed (perm.mem_iff.1 mem) ne (tables ▸ unnamed)⟩
  refine (takeReqs_brings (left := []) (q := .restAxes hold) (P := fun u => u.tables = s.tables ∧ u.axes[a] = s.axes[a])
    (Q := fun u => u.tables = s.tables ∧ u.axes[a] = restedAxis hold false s.tables.axes[a] s.axes[a])
    (fun _ _ _ _ h => h) (fun _ _ _ _ h => h) (fun u start => ?_) (perm.nodup_iff.2 nodup_restReqs)
    (perm.mem_iff.2 (mem_restReqs.2 (.inr (.inr (.inr rfl))))) (fun p mem ne u start => ?_)
    (fun p mem ne u rested => ?_) (And.intro rfl rfl)).2
  · obtain ⟨tables, same⟩ := start
    refine ⟨(tables_of_others ((closed_others u).restAxes rfl)).trans tables, ?_⟩
    refine (restAxes_axis_of_unnamed hold (tables ▸ unnamed)).trans ?_
    rw [tables, same]
  · obtain ⟨tables, same⟩ := start
    obtain ⟨tables', same'⟩ := keeps p mem ne u tables
    exact ⟨tables', same'.trans same⟩
  · obtain ⟨tables, same⟩ := rested
    obtain ⟨tables', same'⟩ := keeps p mem ne u tables
    exact ⟨tables', same'.trans same⟩

end

/-! ## The node's state (R171) -/

section
variable {q : Req} {s t : State}

/-- A check leaves the node's state or makes it DORMANT. -/
theorem nodeCheck_node (s : State) : (nodeCheck s).node = s.node ∨ (nodeCheck s).node = .dormant := by
  unfold nodeCheck
  split
  · split
    · exact .inl rfl
    · split
      · exact .inr rfl
      · exact .inl rfl
  · exact .inl rfl

theorem reqEvent_node (q : Req) (s : State) : (reqEvent q s).node = s.node ∨ (reqEvent q s).node = .dormant := by
  have ran : (runReq q s).node = s.node := (Rests.runReq_node_owed q s).1
  have after : (afterEvent s (runReq q s)).node = s.node ∨ (afterEvent s (runReq q s)).node = .dormant := by
    unfold afterEvent
    split
    · rw [← ran]
      exact nodeCheck_node _
    · exact .inl ran
  rw [reqEvent, dueCheck]
  split
  · obtain same | done := nodeCheck_node { afterEvent s (runReq q s) with checkDue := false }
    · rw [same]
      exact after
    · exact .inr done
  · exact after

theorem takeReqs_node_or_dormant {left qs : List Req} : ∀ {s : State},
    (takeReqs left qs s).node = s.node ∨ (takeReqs left qs s).node = .dormant := by
  induction qs with
  | nil => exact .inl rfl
  | cons q qs ih =>
    intro s
    obtain same | done := ih (s := reqEvent q { s with owed := qs ++ left })
    · rw [takeReqs, same]
      exact reqEvent_node q _
    · exact .inr done

/-- A relation of the requests still owed to the state, kept event by event. -/
theorem takeReqs_steps {I : List Req → State → Prop}
    (step : ∀ q rest u, I (q :: rest) u → I rest (reqEvent q { u with owed := rest })) :
    ∀ {qs : List Req} {s : State}, I qs s → ∃ t, I [] t ∧ (takeReqs [] qs s).node = t.node := by
  intro qs
  induction qs with
  | nil => exact fun {s} h => ⟨s, h, rfl⟩
  | cons q qs ih =>
    intro s h
    have next : I qs (reqEvent q { s with owed := qs ++ [] }) := by
      rw [List.append_nil]
      exact step q qs s h
    exact ih next

/-- Nothing comes to rest where speeds and cycle stay and the axes that move go on. -/
theorem endedOne_eq_false (speed : ∀ k : TrainId, t.trains[k].speed = s.trains[k].speed)
    (cycle : t.chain.inFlight = s.chain.inFlight)
    (axes : ∀ a : AxisId, axisMoves s.axes[a] = true → axisMoves t.axes[a] = true) : endedOne s t = false := by
  have trains : (rollingTrains s).any (fun k => t.trains[k].speed == 0) = false := by
    rw [List.any_eq_false]
    intro k mem
    have rolls := (List.mem_filter.1 mem).2
    rw [speed k]
    simpa using rolls
  have moving : (movingAxes s).any (fun a => !axisMoves t.axes[a]) = false := by
    rw [List.any_eq_false]
    intro a mem
    rw [axes a (List.mem_filter.1 mem).2]
    exact Bool.false_ne_true
  rw [endedOne, trains, moving, cycle]
  cases s.chain.inFlight <;> rfl

/-- An axis that comes to rest ends a condition. -/
theorem endedOne_of_axis {a : AxisId} (moved : axisMoves s.axes[a] = true) (stands : axisMoves t.axes[a] = false) :
    endedOne s t = true := by
  have found : (movingAxes s).any (fun b => !axisMoves t.axes[b]) = true :=
    List.any_eq_true.2 ⟨a, List.mem_filter.2 ⟨List.mem_finRange a, moved⟩, by rw [stands]; rfl⟩
  rw [endedOne, found, Bool.or_true, Bool.true_or]

/-- A request that brings nothing to rest is followed by the check that had fallen due alone. -/
theorem reqEvent_of_goes_on (h : endedOne s (runReq q s) = false) : reqEvent q s = dueCheck (runReq q s) := by
  rw [reqEvent, afterEvent, h, if_neg Bool.false_ne_true]

theorem dueCheck_of_not_due (h : s.checkDue = false) : dueCheck s = s := by
  rw [dueCheck, h, if_neg Bool.false_ne_true]

end

/-! ## Where no axis moved -/

/-- What a request of the entry can make of an axis, but the request of the trains: what moves goes on or is RUNNING, what stands
stands. -/
structure GoesOn (x y : Axis) : Prop where
  running : x.state ≠ .running → y.state ≠ .running
  moving : x.state ≠ .running → axisMoves x = true → axisMoves y = true
  still : axisMoves x = false → axisMoves y = false

theorem GoesOn.refl (x : Axis) : GoesOn x x := ⟨id, fun _ => id, id⟩

theorem goesOn_restedAxis (hold locked : Bool) (r : AxisRec) (x : Axis) : GoesOn x (restedAxis hold locked r x) where
  running := restedAxis_not_running
  moving running moves := by rwa [restedAxis_of_moving running moves]
  still := restedAxis_still

theorem goesOn_restReq {hold : Bool} {q : Req} (h : q ∈ restReqs hold) (ne : q ≠ .restTrains) (u : State) (a : AxisId) :
    GoesOn u.axes[a] (runReq q u).axes[a] := by
  by_cases ha : q = .restAxes hold
  · subst ha
    obtain ⟨v, -, own⟩ := restAxes_axis hold a u
    rw [runReq, own]
    exact goesOn_restedAxis ..
  · rw [restReq_axes h ne ha]
    exact .refl _

/-- The entry of a node whose axes all stood: no axis is RUNNING, and until the trains are brought to rest none moves. -/
structure Undisturbed (hold : Bool) (rest : List Req) (u : State) : Prop where
  once : rest.Nodup
  entry : ∀ q ∈ rest, q ∈ restReqs hold
  node : u.node = .quiescing
  due : u.checkDue = false
  running : ∀ a : AxisId, u.axes[a].state ≠ .running
  still : .restTrains ∈ rest → ∀ a : AxisId, axisMoves u.axes[a] = false

/-- No request ends a condition, so no check is made. -/
theorem Undisturbed.step {hold : Bool} (q : Req) (rest : List Req) (u : State) (h : Undisturbed hold (q :: rest) u) :
    Undisturbed hold rest (reqEvent q { u with owed := rest }) := by
  obtain ⟨new, once⟩ := List.nodup_cons.1 h.once
  obtain ⟨mem, entry⟩ := List.forall_mem_cons.1 h.entry
  obtain ⟨node, -, due, -, -, chain⟩ := restReq_node mem { u with owed := rest }
  have due : (runReq q { u with owed := rest }).checkDue = false := due.trans h.due
  have axes : (∀ a : AxisId, axisMoves u.axes[a] = true → axisMoves (runReq q { u with owed := rest }).axes[a] = true) ∧
      (∀ a : AxisId, (runReq q { u with owed := rest }).axes[a].state ≠ .running) ∧
      (.restTrains ∈ rest → ∀ a : AxisId, axisMoves (runReq q { u with owed := rest }).axes[a] = false) := by
    by_cases e : q = .restTrains
    · subst e
      refine ⟨fun a moves => ?_, fun a => (Mild.restTrains { u with owed := rest }).running a (h.running a),
        fun there => absurd there new⟩
      exact absurd ((h.still List.mem_cons_self a).symm.trans moves) Bool.false_ne_true
    · have goes := goesOn_restReq mem e { u with owed := rest }
      exact ⟨fun a => (goes a).moving (h.running a), fun a => (goes a).running (h.running a),
        fun there a => (goes a).still (h.still (List.mem_cons_of_mem q there) a)⟩
  obtain ⟨moving, running, still⟩ := axes
  rw [reqEvent_of_goes_on (endedOne_eq_false (restReq_speed mem _) (congrArg Chain.inFlight chain) moving),
    dueCheck_of_not_due due]
  exact ⟨once, entry, node.trans h.node, due, running, still⟩

/-! ## Where the one axis that moved stops at once -/

/-- Every train stands with nothing to be brought to rest, no cycle is in flight and no axis outside `M` moves. -/
structure StandsBut (M : AxisId → Prop) (u : State) : Prop where
  node : u.node = .quiescing
  speed : ∀ k : TrainId, u.trains[k].speed = 0
  rests : ∀ k : TrainId, restsAtDormant u.trains[k] = false
  cycle : u.chain.inFlight = none
  axes : ∀ a : AxisId, ¬ M a → axisMoves u.axes[a] = false

/-- Everything stands. -/
abbrev Stands : State → Prop := StandsBut fun _ => False

theorem Stands.atStand {u : State} (h : Stands u) : atStand u = true := atStand_iff.2 ⟨h.speed, h.cycle, fun a => h.axes a id⟩

/-- Where everything stands, the last request of the entry leaves the node DORMANT, and one before it a check that is due. -/
def EntryDue (rest : List Req) (u : State) : Prop :=
  if rest = [] then u.node = .dormant else Stands u ∧ u.checkDue = true

section
variable {hold : Bool} {rest : List Req} {u : State}

theorem nodeCheck_of_stands (entry : ∀ q ∈ rest, q ∈ restReqs hold) (h : Stands u) (owed : u.owed = rest) :
    nodeCheck u = if rest = [] then { u with node := .dormant } else { u with checkDue := true } := by
  cases rest with
  | nil => rw [nodeCheck_of_entry_taken h.node (by rw [owed, List.any_nil]), if_pos h.atStand, if_pos rfl]
  | cons q rest =>
    have asked : u.owed.any ofEntry = true :=
      List.any_eq_true.2 ⟨q, by rw [owed]; exact List.mem_cons_self, ofEntry_of_restReqs (entry q List.mem_cons_self)⟩
    rw [nodeCheck_of_entry_owed h.node asked, if_neg (List.cons_ne_nil q rest)]

/-- A check of a node where everything stands. -/
theorem entryDue_of_stands (entry : ∀ q ∈ rest, q ∈ restReqs hold) (h : Stands u) (owed : u.owed = rest) :
    EntryDue rest (nodeCheck u) := by
  rw [nodeCheck_of_stands entry h owed, EntryDue]
  split
  · rfl
  · exact ⟨⟨h.node, h.speed, h.rests, h.cycle, h.axes⟩, rfl⟩

/-- The check that had fallen due. -/
theorem EntryDue.dueCheck (entry : ∀ q ∈ rest, q ∈ restReqs hold) (h : EntryDue rest u) (owed : u.owed = rest) :
    EntryDue rest (dueCheck u) := by
  unfold Machine.dueCheck
  split
  · by_cases e : rest = []
    · rw [EntryDue, if_pos e] at h ⊢
      rw [nodeCheck_of_not_quiescing (s := { u with checkDue := false }) (h.trans_ne nofun)]
      exact h
    · rw [EntryDue, if_neg e] at h
      obtain ⟨⟨node, speed, rests, cycle, axes⟩, -⟩ := h
      exact entryDue_of_stands (u := { u with checkDue := false }) entry ⟨node, speed, rests, cycle, axes⟩ owed
  · exact h

end

/-- The entry of a node where axis `a` of `z` alone moves: until its request is taken it is as it was, and after it everything
stands. -/
structure OneStops (hold : Bool) (a : AxisId) (z : State) (rest : List Req) (u : State) : Prop where
  once : rest.Nodup
  entry : ∀ q ∈ rest, q ∈ restReqs hold
  before : .restAxes hold ∈ rest → StandsBut (· = a) u ∧ u.checkDue = false ∧ u.tables = z.tables ∧ u.axes[a] = z.axes[a]
  after : .restAxes hold ∉ rest → EntryDue rest u

section
variable {hold : Bool} {a : AxisId} {z : State}

/-- The request of the axes brings the last mover to rest. -/
theorem StandsBut.restAxes {u : State} (h : StandsBut (· = a) u)
    (stops : ∀ locked, axisMoves (restedAxis hold locked u.tables.axes[a] u.axes[a]) = false) : Stands (restAxes hold u) where
  node := (node_of_others ((closed_others u).restAxes rfl)).trans h.node
  speed k := (toldAll_restAxes hold u k).speed.trans (h.speed k)
  rests k := (restsAtDormant_congr ((toldAll_restAxes hold u k).rests (h.rests k)).1).trans (h.rests k)
  cycle := (leaves_of_others (obs := fun u => u.chain.inFlight) (fun _ => rfl) ((closed_others u).restAxes rfl)).trans h.cycle
  axes b _ := by
    obtain ⟨v, -, own⟩ := restAxes_axis hold b u
    rw [own]
    by_cases e : b = a
    · rw [e]
      exact stops _
    · exact restedAxis_still (h.axes b e)

/-- The other requests bring nothing to rest here. -/
theorem StandsBut.reqEvent {M : AxisId → Prop} {q : Req} {u : State} (h : StandsBut M u) (mem : q ∈ restReqs hold)
    (ne : q ≠ .restAxes hold) : ∃ c p, reqEvent q u = dueCheck { u with clock := c, players := p } := by
  obtain ⟨c, p, e⟩ := restReq_eq mem ne h.rests
  refine ⟨c, p, ?_⟩
  rw [← e]
  refine reqEvent_of_goes_on ?_
  rw [e]
  exact endedOne_eq_false (fun _ => rfl) rfl fun _ => id

theorem StandsBut.others {M : AxisId → Prop} {u : State} (h : StandsBut M u) (due : Bool) (owed : List Req) (c : Clock)
    (p : Vector Player 4) : StandsBut M { u with owed := owed, checkDue := due, clock := c, players := p } :=
  ⟨h.node, h.speed, h.rests, h.cycle, h.axes⟩

theorem OneStops.step (moves : axisMoves z.axes[a] = true)
    (stops : ∀ locked, axisMoves (restedAxis hold locked z.tables.axes[a] z.axes[a]) = false) (q : Req) (rest : List Req)
    (u : State) (h : OneStops hold a z (q :: rest) u) : OneStops hold a z rest (reqEvent q { u with owed := rest }) := by
  obtain ⟨new, once⟩ := List.nodup_cons.1 h.once
  obtain ⟨mem, entry⟩ := List.forall_mem_cons.1 h.entry
  by_cases e : q = .restAxes hold
  · subst e
    obtain ⟨stands, -, tables, same⟩ := h.before List.mem_cons_self
    have stood : Stands (restAxes hold { u with owed := rest }) :=
      (stands.others u.checkDue rest u.clock u.players).restAxes (by rw [tables, same]; exact stops)
    have owed : (restAxes hold { u with owed := rest }).owed = rest := owed_of_others ((closed_others _).restAxes rfl)
    have ended : endedOne { u with owed := rest } (restAxes hold { u with owed := rest }) = true :=
      endedOne_of_axis (a := a) (by rw [same]; exact moves) (stood.axes a id)
    refine ⟨once, entry, fun there => absurd there new, fun _ => ?_⟩
    rw [reqEvent, runReq, afterEvent, if_pos ended]
    refine (entryDue_of_stands entry stood owed).dueCheck entry ?_
    obtain ⟨due, node, checked⟩ := nodeCheck_eq (restAxes hold { u with owed := rest })
    rw [checked]
    exact owed
  · by_cases there : .restAxes hold ∈ rest
    · obtain ⟨stands, due, tables, same⟩ := h.before (List.mem_cons_of_mem q there)
      obtain ⟨c, p, event⟩ := (stands.others u.checkDue rest u.clock u.players).reqEvent mem e
      rw [event.trans (dueCheck_of_not_due due)]
      exact ⟨once, entry, fun _ => ⟨stands.others u.checkDue rest c p, due, tables, same⟩, fun out => absurd there out⟩
    · have after := h.after fun mem => (List.mem_cons.1 mem).elim (fun same => e same.symm) there
      rw [EntryDue, if_neg (List.cons_ne_nil q rest)] at after
      obtain ⟨stands, due⟩ := after
      obtain ⟨c, p, event⟩ := (stands.others u.checkDue rest u.clock u.players).reqEvent mem e
      refine ⟨once, entry, fun mem => absurd mem there, fun _ => ?_⟩
      rw [event, dueCheck, if_pos due]
      exact entryDue_of_stands entry (stands.others false rest c p) rfl

end

/-! ## The entry as a whole -/

section
variable {hold : Bool} {qs : List Req} {z : State} (perm : qs.Perm (restReqs hold)) (due : z.checkDue = false)
include perm due

/-- Where no axis moved, the node stays QUIESCING in this command. -/
theorem takeReqs_rest_quiescing (node : z.node = .quiescing) (still : ∀ a : AxisId, axisMoves z.axes[a] = false) :
    (takeReqs [] qs z).node = .quiescing := by
  have running : ∀ a : AxisId, z.axes[a].state ≠ .running := fun a => by
    obtain ⟨-, -, running, -⟩ := axisMoves_eq_false_iff.1 (still a)
    exact running
  have start : Undisturbed hold qs z :=
    ⟨perm.nodup_iff.2 nodup_restReqs, fun _ => perm.mem_iff.1, node, due, running, fun _ => still⟩
  obtain ⟨t, done, same⟩ := takeReqs_steps Undisturbed.step start
  exact same.trans done.node

/-- Where the one axis that moved comes to rest and everything else stands, the node is DORMANT. -/
theorem takeReqs_rest_dormant {a : AxisId} (stands : StandsBut (· = a) z) (moves : axisMoves z.axes[a] = true)
    (stops : ∀ locked, axisMoves (restedAxis hold locked z.tables.axes[a] z.axes[a]) = false) :
    (takeReqs [] qs z).node = .dormant := by
  have there : .restAxes hold ∈ qs := perm.mem_iff.2 (mem_restReqs.2 (.inr (.inr (.inr rfl))))
  have start : OneStops hold a z qs z := ⟨perm.nodup_iff.2 nodup_restReqs, fun _ => perm.mem_iff.1,
    fun _ => ⟨stands, due, rfl, rfl⟩, fun out => absurd there out⟩
  obtain ⟨t, done, same⟩ := takeReqs_steps (OneStops.step moves stops) start
  exact same.trans (done.after List.not_mem_nil)

end

/-! ## A RUNNING axis, and what moves -/

section
variable {r : AxisRec} {x : Axis} (hu : r.inUse = true) (hs : x.state = .running)
include hu hs

/-- A RUNNING axis that knows its position, and guards nothing, is parked (R122). -/
theorem restedAxis_of_known (hold : Bool) (hk : x.known = true) : restedAxis hold false r x = (seekOrder r r.park x).1 := by
  rw [restedAxis_of_running hu hs, hk]
  rfl

/-- One that does not is stopped (R122). -/
theorem restedAxis_of_unknown (hold locked : Bool) (hk : x.known = false) :
    restedAxis hold locked r x = (stopOrder r x).1 := by
  rw [restedAxis_of_running hu hs, if_neg (by rw [hk, Bool.and_false]; exact Bool.false_ne_true)]

end

theorem axisMoves_iff {x : Axis} :
    axisMoves x = true ↔ x.state = .homing ∨ x.state = .seeking ∨ x.state = .running ∨ x.state = .stopping := by
  cases h : x.state <;> simp [axisMoves, h]

/-! ## The transfer (R162, R169) -/

section
variable {s : State} (via : Opened)

theorem restTransfer_of_set (h : latchOf s .wake ≠ .clear) : restTransfer via s = outcome via 8 .state [] s := by
  have set : (latchOf s .wake).isSet = true := by
    cases e : latchOf s .wake with
    | clear => exact absurd e h
    | set d => rfl
    | reporting d next => rfl
  rw [restTransfer, commitDormant, dormantRequest, if_pos set]
  rfl

theorem dormantRequest_of_clear (h : latchOf s .wake = .clear) :
    dormantRequest s = (none, if s.node = .active then beginDormant s else s) := by
  rw [dormantRequest, h, if_neg (by exact Bool.false_ne_true)]
  cases s.node <;> rfl

theorem restTransfer_of_active (h : latchOf s .wake = .clear) (active : s.node = .active) :
    restTransfer via s = outcome via 8 .ok [] (beginDormant s) := by
  rw [restTransfer, commitDormant, dormantRequest_of_clear h, if_pos active]
  rfl

theorem restTransfer_of_resting (h : latchOf s .wake = .clear) (resting : s.node ≠ .active) :
    restTransfer via s = outcome via 8 .ok [] s := by
  rw [restTransfer, commitDormant, dormantRequest_of_clear h, if_neg resting]
  rfl

end

/-- Settles O46: the four requests in any order, each with its part, and the checks between them. -/
theorem dormantTransferBeginsRest : Obligations.DormantTransferBeginsRest := by
  intro via s ho u moves
  have row : exec (.dormantTransfer via) s = .next (finish (restTransfer via (closeUnit s))) := rfl
  have untouched : ∀ r, finish (outcome via 8 r [] (closeUnit s)) = outcome via 8 r [] u := fun r =>
    finish_of_nothing_owed ((outcome_owed ..).trans ho)
  refine ⟨fun set => ?_, fun clear resting => ?_, fun clear active => ?_⟩
  · rw [row, restTransfer_of_set via (s := closeUnit s) set, untouched]
  · rw [row, restTransfer_of_resting via (s := closeUnit s) clear resting, untouched]
  · rw [restTransfer_of_active via (s := closeUnit s) clear active] at row
    obtain ⟨cs, m, x, ns, qs, perm, -, done⟩ := finish_handOn via 8 (restReqs (s.tables.node.policy == .hold))
      (z := { closeUnit s with node := .quiescing, checkDue := false }) ho
    replace row := row.trans (congrArg Host.Outcome.next done)
    let w : State := { closeUnit s with
      node := .quiescing, checkDue := false, choices := cs, drawn := m, owed := qs, xfer := x, notices := ns }
    obtain ⟨tables, lamp, chain⟩ := takeReqs_rest_blocks perm w
    refine ⟨_, row, takeReqs_node_or_dormant (s := w), fun none => ?_, fun a used running unknown slow others trains cycle => ?_,
      takeReqs_owed [] qs w, tables, lamp, chain, ?_, takeReqs_rest_player perm w, fun consistent k => ?_, fun a unnamed => ?_⟩
    · exact takeReqs_rest_quiescing (z := w) perm rfl rfl fun a => Bool.eq_false_of_not_eq_true (mt axisMoves_iff.1 (none a))
    · refine takeReqs_rest_dormant (z := w) (a := a) perm rfl ⟨rfl, fun k => (trains k).1, fun k => ?_, cycle,
        fun b ne => Bool.eq_false_of_not_eq_true (mt axisMoves_iff.1 (others b ne))⟩
        (axisMoves_iff.2 (.inr (.inr (.inl running)))) fun locked => ?_
      · obtain ⟨-, waiting, running, approach⟩ := trains k
        exact restsAtDormant_eq_false_iff.2 ⟨running, approach, waiting⟩
      · have stops := (restedAxis_of_unknown used running (s.tables.node.policy == .hold) locked unknown).trans
          (stopOrder_of_slow (.inr (.inr running)) slow)
        exact (congrArg axisMoves stops).trans (axisMoves_toHolding ..)
    · exact takeReqs_rest_clock perm w
    · have agree : Agree s := trackConsistent_iff.1 consistent
      have rested : Rested s.trains[k] (takeReqs [] qs w).trains[k] := takeReqs_rest_train (s := w) perm agree k
      exact ⟨rested.rolls, fun held => rested.waits (restsAtDormant_iff.2 (by tauto)),
        fun running approach waiting => rested.rests (restsAtDormant_eq_false_iff.2 ⟨running, approach, waiting⟩)⟩
    · have own : (takeReqs [] qs w).axes[a] =
          restedAxis (s.tables.node.policy == .hold) false s.tables.axes[a] s.axes[a] := takeReqs_rest_axis (s := w) perm unnamed
      dsimp only
      rw [own]
      refine ⟨restedAxis_of_left, fun used following => ?_, fun used running known => ?_, fun used running unknown => ?_⟩
      · rw [restedAxis_of_following used following]
        refine ⟨fun keep => by rw [keep]; rfl, fun hold => ?_⟩
        rw [hold]
        exact ⟨toHolding_stands s.tables.axes[a] s.axes[a].arrived s.axes[a], rfl⟩
      · rw [restedAxis_of_known used running _ known]
        obtain stands | seeking := seekOrder_seeks s.tables.axes[a] s.tables.axes[a].park s.axes[a]
        · rw [stands]
          exact .inl ⟨toHolding_stands .., rfl⟩
        · exact .inr seeking
      · rw [restedAxis_of_unknown used running _ _ unknown]
        refine ⟨fun slow => ?_, fun fast => ?_⟩
        · rw [stopOrder_of_slow (.inr (.inr running)) slow]
          exact toHolding_stands ..
        · rw [stopOrder_of_fast (.inr (.inr running)) (Nat.not_le.2 fast)]
          exact ⟨rfl, rfl⟩

end Sys2Proof.Machine
end

section
/-! One step of the block on a queue that is not empty. -/

namespace Sys2Proof.Machine

/-- Settles O1: with a command in front, the step's case split on the queue takes its second branch. -/
theorem stepRunsFrontCommand : Obligations.StepRunsFrontCommand := by
  intro c rest s front
  rw [step, front]

end Sys2Proof.Machine
end
